-- ==== Sys2Proof/Word.lean ====
section
/-!
DEFINITION. The word types of the model and the plainest index types: what the spec numbers as bytes, words,
threads, ridges and sites.
-/

namespace Sys2Proof

/-- A byte of memory (R7: all multi-byte quantities are little-endian sequences of these). -/
abbrev Byte := BitVec 8

/-- A 64-bit register or element container (R9, R21). -/
abbrev Word := BitVec 64

/-- A 48-bit physical address (R15). -/
abbrev Addr := BitVec 48

/-- A control-core thread: owner tag `8 * r + t` of R263 for thread `t` of ridge `r`; tags 256 to 263 are the
eight threads of the SMC instance of R287. -/
abbrev ThreadId := Fin 264

/-- A logical ridge RG00 to RG31 (R16). -/
abbrev RidgeId := Fin 32

/-- A physical site ST00 to ST33 (R16). -/
abbrev SiteId := Fin 34

end Sys2Proof
end

