-- ==== Sys2Proof/Syntax.lean ====
section
/-!
DEFINITION. The commands: one constructor of `Instr` per row of spec/opcode_table.json, with the row's operands, and
the operand types. A control-core instruction carries its decoded fields (R306); an event carries what the outside
world decides (a reading, a frame, the outcome of a test).
-/

namespace Sys2Proof

/-- A master of the stream matrix (R266). A control-core port names the thread whose access it makes; threads 256 to
263 access as the SMC (R287). -/
inductive Master where
  | stream (g : RidgeId) (port : Fin 3)
  | core (t : ThreadId)
  | ingress (n : Fin 16)
  | egress (n : Fin 16)
  | smc
  | sweep
  deriving DecidableEq, Repr

/-- The operation of one access: a read of `n` bytes or a write of bytes, lowest address first. -/
inductive Access where
  | read (n : Nat)
  | write (bytes : List Byte)
  deriving DecidableEq, Repr

/-- An arbitration point of R267 outside the deep store: bank 0 to 31 of a ledge's bulk and 32, 33 of its saddle
(ledges 32 and 33 are those of the sites that carry no ridge), a channel-table bank, a mailbox data bank, the
semaphores and doorbells, or configuration space. -/
inductive ArbPoint where
  | ledge (l : Fin 34) (bank : Fin 34)
  | channelTable (bank : Fin 16)
  | mailbox (bank : Fin 8)
  | special
  | config
  deriving DecidableEq, Repr

/-- What a dust sheet covers (R281). -/
inductive SheetPart where
  | ridge (g : RidgeId)
  | thread (t : ThreadId)
  | stream (g : RidgeId) (slot : Fin 16)
  | group (n : Fin 16)
  deriving DecidableEq, Repr

/-- The readings of one servo domain in one update (R66, R65): its two monitors in M steps/s and its sensor. -/
structure RateReading where
  mon0 : Nat
  mon1 : Nat
  tj : Int
  deriving DecidableEq, Repr

/-- A control-store parity failure (R205, R211): in the micro-store, or in the stencil store with the failing
quarters; `member` is the context (member order) whose read failed. -/
structure ParityFail where
  nano : Bool
  uaddr : BitVec 13
  naddr : BitVec 10
  qmask : BitVec 4
  member : Nat
  deriving DecidableEq, Repr

/-- A descrambled 66-bit block of the 64b/66b coding (R358): its sync header, and its 64 bits, the byte sent first lowest;
in a block that is not a data block that byte is the block type. -/
structure Block66 where
  sync : BitVec 2
  bits : BitVec 64
  deriving DecidableEq, Repr

/-- A code group of the 8b/10b coding (R361): data, control, or invalid. -/
inductive CodeGroup where
  | data (b : BitVec 8)
  | control (b : BitVec 8)
  | invalid
  deriving DecidableEq, Repr

/-- What a receive side takes from the line: blocks (FLP, ETH25) or code groups (LEG8), in the order received. -/
inductive Received where
  | blocks (xs : List Block66)
  | groups (xs : List CodeGroup)
  deriving DecidableEq, Repr

/-- What the receive side of a link takes. -/
structure LinkInput where
  link : Fin 128
  rx : Received
  deriving DecidableEq, Repr

/-- The next `edges` rising edges of the source of timer channel `ch` (R405). -/
structure SourceEdges where
  ch : Fin 8
  edges : Nat
  deriving DecidableEq, Repr

/-- A packet received on the chain (R413), and whether the flash operation that it asks for, if any, will fail (R419). -/
structure ChainPacket where
  bytes : List (BitVec 8)
  flashFails : Bool
  deriving DecidableEq, Repr

/-- An FLP or LEG8 frame after deframing (R358): the fields of its header, its payload blocks, whether its CRC-32C
matches, and whether a block other than data or terminate ended it after the payload given. -/
structure Frame where
  tag : BitVec 12
  linkid : BitVec 8
  ftype : BitVec 4
  summary : BitVec 32
  payload : List Word
  crcOk : Bool
  foreign : Bool
  deriving DecidableEq, Repr

/-- A time-code frame (R402): whether its markers and elements meet the timing rules, and its BCD fields (the year where
the coded expression carries one). -/
structure TimeCode where
  timingOk : Bool
  sec : BitVec 8
  min : BitVec 8
  hour : BitVec 8
  day : BitVec 12
  year : Option (BitVec 8)
  deriving DecidableEq, Repr

/-- R402: the two moments of a time-code frame that the decoder acts on: the leading edge of its reference marker, and
the end of the frame. -/
inductive TimeCodePart where
  | onTimeEdge
  | frameEnd (f : TimeCode)
  deriving DecidableEq, Repr

/-- The measured telemetry points of R424: VIN in mV, current in 10 mA, power in 0.1 W, plate in 0.1 degree C, the
highest deep-store device temperature in degrees C and the active bunch clock in kHz. -/
structure Telemetry where
  vin : BitVec 32
  current : BitVec 32
  power : BitVec 32
  plate : BitVec 32
  dram : BitVec 32
  bclk : BitVec 32
  deriving DecidableEq, Repr

/-- The pins sampled at turn-on (R479, R485, R492): VIN in mV, MRST_N, HOLD_STBY_N, REFSEL, CHAIN_HEAD_N and whether
REFCLK_EXT is present. -/
structure Pins where
  vin : Nat
  mrstN : Bool
  holdStbyN : Bool
  refsel : Bool
  chainHeadN : Bool
  refclkExt : Bool
  deriving DecidableEq, Repr

/-- An SRAM bank that the sweep borrows or the repair controller replaces (R249, R256, R451, R454). -/
inductive SramBank where
  | bulk (g : RidgeId) (b : Fin 32)
  | saddle (g : RidgeId) (b : Fin 2)
  | channelTable (b : Fin 16)
  | mailbox (b : Fin 8)
  deriving DecidableEq, Repr

/-- The owner of a scaffold bank (R450): a ledge or the channel table. -/
inductive ScaffoldOf where
  | ledge (g : RidgeId)
  | channelTable
  deriving DecidableEq, Repr

/-- One command of the block: one constructor per row of spec/opcode_table.json, in the table's order. -/
inductive Instr where
  /-- REGISTER_WRITE. R10: master `m` writes the low `size` bytes of `v` at offset `off` of block `blk`. -/
  | registerWrite (m : Master) (blk : BitVec 8) (off : BitVec 16) (size : Nat) (v : BitVec 64)
  /-- READ_CLEAR. R11: master `m` reads `size` bytes at offset `off` of block `blk`. -/
  | readClear (m : Master) (blk : BitVec 8) (off : BitVec 16) (size : Nat)
  /-- BOOT_LATH_LOAD. R48: the SMC starts checking the preferred slot at boot. -/
  | bootLathLoad
  /-- LLOAD. R427: executes the LLOAD request at the head of the request queue. -/
  | lload
  /-- LPREF. R427: executes the LPREF request at the head of the request queue. -/
  | lpref
  /-- LPUSH. R55: executes the LPUSH request at the head of the request queue. -/
  | lpush
  /-- LATH_CHECK_COMPLETE. R43: the checks of the image under operation end; `readError` is a flash read error (RESULT 0x0C of R46). -/
  | lathCheckComplete (readError : Bool)
  /-- LATH_LOAD_COMPLETE. R497: the apply phase of a full load ends. -/
  | lathLoadComplete
  /-- RELATH_SWAP. R56: the drain of a partial re-lath ends and the stores are written. -/
  | relathSwap
  /-- RELATH_SELFTEST_DONE. R57: readback and lane self-test of the re-lath end; `passed` says whether both passed. -/
  | relathSelftestDone (passed : Bool)
  /-- RATE_SERVO_UPDATE. R68: one 10 us update; `rs` holds the readings of domains 0, 1, ... in order. -/
  | rateServoUpdate (rs : List RateReading)
  /-- SLAUNCH. R90. -/
  | slaunch (t : ThreadId) (rt : BitVec 5) (ab : BitVec 4)
  /-- SLAUNCH_RESUME. R91: an SLAUNCH parked on a full queue completes. -/
  | slaunchResume (t : ThreadId)
  /-- STREAM_DISPATCH. R92. -/
  | streamDispatch (g : RidgeId)
  /-- CHAIN_ADMISSION. R107. -/
  | chainAdmission (chid : Fin 16)
  /-- CHAIN_TIMEOUT. R108: ridge `g` counts TIMEOUT x 1,024 steps before admission. -/
  | chainTimeout (g : RidgeId) (chid : Fin 16)
  /-- STEP_GROUP_ROW. R119: the sequencer of ridge `g` runs one row; `pf` is a control-store parity failure in it. -/
  | stepGroupRow (g : RidgeId) (pf : Option ParityFail)
  /-- RIDGELINE_ROW_ARRIVAL. R131: a row of `chid` reaches the receiving port of ridge `g`. -/
  | ridgelineRowArrival (g : RidgeId) (chid : Fin 16)
  /-- RIDGELINE_CREDIT_RETURN. R131: a credit of `chid` returns to the sending ridge `g`. -/
  | ridgelineCreditReturn (g : RidgeId) (chid : Fin 16)
  /-- STREAM_COMPLETE. R93. -/
  | streamComplete (g : RidgeId) (slot : Fin 16)
  /-- CONTROL_STORE_REWRITE. R207. -/
  | controlStoreRewrite (g : RidgeId) (readbackOk : Bool)
  /-- CORE_ROUTINE_STEP. R197. -/
  | coreRoutineStep (t : ThreadId) (pf : Option ParityFail)
  /-- ADD. R312. -/
  | add (t : ThreadId) (w : BitVec 2) (s : Bool) (u : Bool) (rd : BitVec 5) (ra : BitVec 5) (rb : BitVec 5)
  /-- SUB. R312. -/
  | sub (t : ThreadId) (w : BitVec 2) (s : Bool) (u : Bool) (rd : BitVec 5) (ra : BitVec 5) (rb : BitVec 5)
  /-- NEG. R312. -/
  | neg (t : ThreadId) (w : BitVec 2) (s : Bool) (rd : BitVec 5) (ra : BitVec 5)
  /-- ABS. R312. -/
  | abs (t : ThreadId) (w : BitVec 2) (s : Bool) (rd : BitVec 5) (ra : BitVec 5)
  /-- AND. R312. -/
  | and (t : ThreadId) (w : BitVec 2) (u : Bool) (rd : BitVec 5) (ra : BitVec 5) (rb : BitVec 5)
  /-- OR. R312. -/
  | or (t : ThreadId) (w : BitVec 2) (u : Bool) (rd : BitVec 5) (ra : BitVec 5) (rb : BitVec 5)
  /-- XOR. R312. -/
  | xor (t : ThreadId) (w : BitVec 2) (u : Bool) (rd : BitVec 5) (ra : BitVec 5) (rb : BitVec 5)
  /-- ANDN. R312. -/
  | andn (t : ThreadId) (w : BitVec 2) (u : Bool) (rd : BitVec 5) (ra : BitVec 5) (rb : BitVec 5)
  /-- NOT. R312. -/
  | not (t : ThreadId) (w : BitVec 2) (u : Bool) (rd : BitVec 5) (ra : BitVec 5)
  /-- SHL. R312. -/
  | shl (t : ThreadId) (w : BitVec 2) (s : Bool) (u : Bool) (rd : BitVec 5) (ra : BitVec 5) (rb : BitVec 5)
  /-- SHR. R312. -/
  | shr (t : ThreadId) (w : BitVec 2) (u : Bool) (rd : BitVec 5) (ra : BitVec 5) (rb : BitVec 5)
  /-- SRA. R312. -/
  | sra (t : ThreadId) (w : BitVec 2) (u : Bool) (rd : BitVec 5) (ra : BitVec 5) (rb : BitVec 5)
  /-- ROTL. R312. -/
  | rotl (t : ThreadId) (w : BitVec 2) (u : Bool) (rd : BitVec 5) (ra : BitVec 5) (rb : BitVec 5)
  /-- MIN. R312. -/
  | min (t : ThreadId) (w : BitVec 2) (u : Bool) (rd : BitVec 5) (ra : BitVec 5) (rb : BitVec 5)
  /-- MAX. R312. -/
  | max (t : ThreadId) (w : BitVec 2) (u : Bool) (rd : BitVec 5) (ra : BitVec 5) (rb : BitVec 5)
  /-- CMPEQ. R312. -/
  | cmpeq (t : ThreadId) (w : BitVec 2) (rd : BitVec 5) (ra : BitVec 5) (rb : BitVec 5)
  /-- CMPLT. R312. -/
  | cmplt (t : ThreadId) (w : BitVec 2) (u : Bool) (rd : BitVec 5) (ra : BitVec 5) (rb : BitVec 5)
  /-- CMPLE. R312. -/
  | cmple (t : ThreadId) (w : BitVec 2) (u : Bool) (rd : BitVec 5) (ra : BitVec 5) (rb : BitVec 5)
  /-- SELNZ. R312. -/
  | selnz (t : ThreadId) (w : BitVec 2) (u : Bool) (rd : BitVec 5) (ra : BitVec 5) (rb : BitVec 5)
  /-- MOV. R312. -/
  | mov (t : ThreadId) (w : BitVec 2) (u : Bool) (rd : BitVec 5) (ra : BitVec 5)
  /-- POPC. R312. -/
  | popc (t : ThreadId) (w : BitVec 2) (u : Bool) (rd : BitVec 5) (ra : BitVec 5)
  /-- CLZ. R312. -/
  | clz (t : ThreadId) (w : BitVec 2) (u : Bool) (rd : BitVec 5) (ra : BitVec 5)
  /-- MUL. R313. -/
  | mul (t : ThreadId) (w : BitVec 2) (s : Bool) (u : Bool) (rd : BitVec 5) (ra : BitVec 5) (rb : BitVec 5)
  /-- MULH. R313. -/
  | mulh (t : ThreadId) (w : BitVec 2) (u : Bool) (rd : BitVec 5) (ra : BitVec 5) (rb : BitVec 5)
  /-- DIV. R313. -/
  | div (t : ThreadId) (w : BitVec 2) (s : Bool) (u : Bool) (rd : BitVec 5) (ra : BitVec 5) (rb : BitVec 5)
  /-- DIVR. R313. -/
  | divr (t : ThreadId) (w : BitVec 2) (s : Bool) (u : Bool) (rd : BitVec 5) (ra : BitVec 5) (rb : BitVec 5)
  /-- XMUL. R313. -/
  | xmul (t : ThreadId) (w : BitVec 2) (u : Bool) (xd : BitVec 2) (ra : BitVec 5) (rb : BitVec 5)
  /-- XMAC. R313. -/
  | xmac (t : ThreadId) (w : BitVec 2) (u : Bool) (xd : BitVec 2) (ra : BitVec 5) (rb : BitVec 5)
  /-- XMSU. R313. -/
  | xmsu (t : ThreadId) (w : BitVec 2) (u : Bool) (xd : BitVec 2) (ra : BitVec 5) (rb : BitVec 5)
  /-- XMOV. R314. -/
  | xmov (t : ThreadId) (rd : BitVec 5) (xs : BitVec 2) (sh : BitVec 7) (w : BitVec 2) (s : Bool) (u : Bool)
  /-- FADD. R316. -/
  | fadd (t : ThreadId) (fw : BitVec 2) (rd : BitVec 5) (ra : BitVec 5) (rb : BitVec 5)
  /-- FSUB. R316. -/
  | fsub (t : ThreadId) (fw : BitVec 2) (rd : BitVec 5) (ra : BitVec 5) (rb : BitVec 5)
  /-- FMUL. R316. -/
  | fmul (t : ThreadId) (fw : BitVec 2) (rd : BitVec 5) (ra : BitVec 5) (rb : BitVec 5)
  /-- FDIV. R316. -/
  | fdiv (t : ThreadId) (fw : BitVec 2) (rd : BitVec 5) (ra : BitVec 5) (rb : BitVec 5)
  /-- FSQRT. R316. -/
  | fsqrt (t : ThreadId) (fw : BitVec 2) (rd : BitVec 5) (ra : BitVec 5)
  /-- FMIN. R316. -/
  | fmin (t : ThreadId) (fw : BitVec 2) (rd : BitVec 5) (ra : BitVec 5) (rb : BitVec 5)
  /-- FMAX. R316. -/
  | fmax (t : ThreadId) (fw : BitVec 2) (rd : BitVec 5) (ra : BitVec 5) (rb : BitVec 5)
  /-- FMINM. R316. -/
  | fminm (t : ThreadId) (fw : BitVec 2) (rd : BitVec 5) (ra : BitVec 5) (rb : BitVec 5)
  /-- FMAXM. R316. -/
  | fmaxm (t : ThreadId) (fw : BitVec 2) (rd : BitVec 5) (ra : BitVec 5) (rb : BitVec 5)
  /-- FABS. R316. -/
  | fabs (t : ThreadId) (fw : BitVec 2) (rd : BitVec 5) (ra : BitVec 5)
  /-- FNEG. R316. -/
  | fneg (t : ThreadId) (fw : BitVec 2) (rd : BitVec 5) (ra : BitVec 5)
  /-- FCSGN. R316. -/
  | fcsgn (t : ThreadId) (fw : BitVec 2) (rd : BitVec 5) (ra : BitVec 5) (rb : BitVec 5)
  /-- FRINT. R316. -/
  | frint (t : ThreadId) (fw : BitVec 2) (rd : BitVec 5) (ra : BitVec 5)
  /-- FCMPEQ. R316. -/
  | fcmpeq (t : ThreadId) (fw : BitVec 2) (rd : BitVec 5) (ra : BitVec 5) (rb : BitVec 5)
  /-- FCMPLT. R316. -/
  | fcmplt (t : ThreadId) (fw : BitVec 2) (rd : BitVec 5) (ra : BitVec 5) (rb : BitVec 5)
  /-- FCMPLE. R316. -/
  | fcmple (t : ThreadId) (fw : BitVec 2) (rd : BitVec 5) (ra : BitVec 5) (rb : BitVec 5)
  /-- CVTFF. R317. -/
  | cvtff (t : ThreadId) (src : BitVec 2) (dst : BitVec 2) (rd : BitVec 5) (ra : BitVec 5)
  /-- CVTFI. R317. -/
  | cvtfi (t : ThreadId) (fw : BitVec 2) (w : BitVec 2) (u : Bool) (rd : BitVec 5) (ra : BitVec 5)
  /-- CVTIF. R317. -/
  | cvtif (t : ThreadId) (fw : BitVec 2) (w : BitVec 2) (u : Bool) (rd : BitVec 5) (ra : BitVec 5)
  /-- FMA. R318. -/
  | fma (t : ThreadId) (fw : BitVec 2) (rd : BitVec 5) (ra : BitVec 5) (rb : BitVec 5) (rc : BitVec 5)
  /-- FMS. R318. -/
  | fms (t : ThreadId) (fw : BitVec 2) (rd : BitVec 5) (ra : BitVec 5) (rb : BitVec 5) (rc : BitVec 5)
  /-- FNMA. R318. -/
  | fnma (t : ThreadId) (fw : BitVec 2) (rd : BitVec 5) (ra : BitVec 5) (rb : BitVec 5) (rc : BitVec 5)
  /-- FNMS. R318. -/
  | fnms (t : ThreadId) (fw : BitVec 2) (rd : BitVec 5) (ra : BitVec 5) (rb : BitVec 5) (rc : BitVec 5)
  /-- BCDADD. R319. -/
  | bcdadd (t : ThreadId) (rd : BitVec 5) (ra : BitVec 5) (rb : BitVec 5)
  /-- BCDSUB. R319. -/
  | bcdsub (t : ThreadId) (rd : BitVec 5) (ra : BitVec 5) (rb : BitVec 5)
  /-- MOVAD. R320. -/
  | movad (t : ThreadId) (ad : BitVec 4) (ra : BitVec 5)
  /-- MOVDA. R320. -/
  | movda (t : ThreadId) (rd : BitVec 5) (aa : BitVec 4)
  /-- CMPAEQ. R320. -/
  | cmpaeq (t : ThreadId) (rd : BitVec 5) (aa : BitVec 4) (ab : BitVec 4)
  /-- CMPALTU. R320. -/
  | cmpaltu (t : ThreadId) (rd : BitVec 5) (aa : BitVec 4) (ab : BitVec 4)
  /-- ADDA. R320. -/
  | adda (t : ThreadId) (ad : BitVec 4) (aa : BitVec 4) (imm : BitVec 14)
  /-- SUBA. R320. -/
  | suba (t : ThreadId) (ad : BitVec 4) (aa : BitVec 4) (imm : BitVec 14)
  /-- ADDI. R321. -/
  | addi (t : ThreadId) (rd : BitVec 5) (ra : BitVec 5) (imm : BitVec 14)
  /-- ANDI. R321. -/
  | andi (t : ThreadId) (rd : BitVec 5) (ra : BitVec 5) (imm : BitVec 14)
  /-- ORI. R321. -/
  | ori (t : ThreadId) (rd : BitVec 5) (ra : BitVec 5) (imm : BitVec 14)
  /-- LI. R321. -/
  | li (t : ThreadId) (rd : BitVec 5) (imm : BitVec 14)
  /-- SHLI. R321. -/
  | shli (t : ThreadId) (rd : BitVec 5) (ra : BitVec 5) (sh : BitVec 6)
  /-- SHRI. R321. -/
  | shri (t : ThreadId) (rd : BitVec 5) (ra : BitVec 5) (sh : BitVec 6)
  /-- SRAI. R321. -/
  | srai (t : ThreadId) (rd : BitVec 5) (ra : BitVec 5) (sh : BitVec 6)
  /-- ROTLI. R321. -/
  | rotli (t : ThreadId) (rd : BitVec 5) (ra : BitVec 5) (sh : BitVec 6)
  /-- CMPEQI. R321. -/
  | cmpeqi (t : ThreadId) (rd : BitVec 5) (ra : BitVec 5) (imm : BitVec 14)
  /-- CMPLTI. R321. -/
  | cmplti (t : ThreadId) (rd : BitVec 5) (ra : BitVec 5) (imm : BitVec 14)
  /-- CMPLTUI. R321. -/
  | cmpltui (t : ThreadId) (rd : BitVec 5) (ra : BitVec 5) (imm : BitVec 14)
  /-- LD. R322, R323. -/
  | ld (t : ThreadId) (rt : BitVec 5) (ab : BitVec 4) (sz : BitVec 3) (disp : BitVec 14)
  /-- LDS. R322, R323. -/
  | lds (t : ThreadId) (rt : BitVec 5) (ab : BitVec 4) (sz : BitVec 3) (disp : BitVec 14)
  /-- ST. R322, R323. -/
  | st (t : ThreadId) (rt : BitVec 5) (ab : BitVec 4) (sz : BitVec 3) (disp : BitVec 14)
  /-- BEQZ. R325. -/
  | beqz (t : ThreadId) (rc : BitVec 5) (disp : BitVec 21)
  /-- BNEZ. R325. -/
  | bnez (t : ThreadId) (rc : BitVec 5) (disp : BitVec 21)
  /-- BLTZ. R325. -/
  | bltz (t : ThreadId) (rc : BitVec 5) (disp : BitVec 21)
  /-- BGEZ. R325. -/
  | bgez (t : ThreadId) (rc : BitVec 5) (disp : BitVec 21)
  /-- BRA. R325. -/
  | bra (t : ThreadId) (disp : BitVec 21)
  /-- BAL. R325. -/
  | bal (t : ThreadId) (rc : BitVec 5) (disp : BitVec 21)
  /-- JA. R325. -/
  | ja (t : ThreadId) (ab : BitVec 4)
  /-- JAL. R325. -/
  | jal (t : ThreadId) (rc : BitVec 5) (ab : BitVec 4)
  /-- NOP. R327. -/
  | nop (t : ThreadId)
  /-- MFS. R334. -/
  | mfs (t : ThreadId) (rd : BitVec 5) (s8 : BitVec 8)
  /-- MTS. R334. -/
  | mts (t : ThreadId) (ra : BitVec 5) (s8 : BitVec 8)
  /-- WFE. R328. -/
  | wfe (t : ThreadId) (rd : BitVec 5) (vm : BitVec 3)
  /-- WTU. R329. -/
  | wtu (t : ThreadId) (rd : BitVec 5) (ra : BitVec 5) (vm : BitVec 3)
  /-- SEV. R330. -/
  | sev (t : ThreadId) (ra : BitVec 5) (ev : BitVec 8)
  /-- CALLG. R331, R341. -/
  | callg (t : ThreadId) (gate : BitVec 8)
  /-- RETX. R331, R347. -/
  | retx (t : ThreadId)
  /-- FENCE. R332. -/
  | fence (t : ThreadId)
  /-- ILLEGAL_INSTRUCTION. R308: the thread issues an undefined or malformed word. -/
  | illegalInstruction (t : ThreadId) (word : BitVec 32)
  /-- ASYNC_EXCEPTION. R349. -/
  | asyncException (t : ThreadId)
  /-- LOAD_DATA_RETURN. R295. -/
  | loadDataReturn (t : ThreadId)
  /-- RESERVATION_GRANT. R276: arbitration point `pt` grants one reservation. -/
  | reservationGrant (pt : ArbPoint)
  /-- STORE_BUFFER_RELEASE. R296. -/
  | storeBufferRelease (t : ThreadId)
  /-- WFE_WAKE. R328. -/
  | wfeWake (t : ThreadId)
  /-- WTU_WAKE. R329. -/
  | wtuWake (t : ThreadId)
  /-- FENCE_COMPLETE. R332. -/
  | fenceComplete (t : ThreadId)
  /-- THREAD_RESET. R303, R304: a write of RESET = 1, PC and START to CC_THREADn. -/
  | threadReset (g : RidgeId) (n : Fin 8) (pc : BitVec 48) (start : Bool)
  /-- THREAD_START. R304: a write of START = 1 and PC to CC_THREADn. -/
  | threadStart (g : RidgeId) (n : Fin 8) (pc : BitVec 48)
  /-- WATCHDOG_KICK. R353: a write of KICK = 1 and PERIOD to CC_WDOGn. -/
  | watchdogKick (g : RidgeId) (n : Fin 8) (period : BitVec 32)
  /-- WATCHDOG_EXPIRY. R353: the count reaches zero. -/
  | watchdogExpiry (g : RidgeId) (n : Fin 8)
  /-- DEBUG_HALT. R445. -/
  | debugHalt (t : ThreadId)
  /-- LEDGE_ACCESS. R243: a ledge bank serves one request; `upset` is the disturbance of the stored word found then. -/
  | ledgeAccess (m : Master) (addr : BitVec 48) (acc : Access) (upset : BitVec 72)
  /-- ECC_WRITEBACK. R244. -/
  | eccWriteback (addr : BitVec 48)
  /-- ALIAS_OPERATION. R253. -/
  | aliasOperation (m : Master) (addr : BitVec 48) (bytes : List (BitVec 8))
  /-- RETENTION_ENTER. R254: a write of LD_PWR.RET = 1. -/
  | retentionEnter (g : RidgeId)
  /-- RETENTION_WAKE. R254: a write of LD_PWR.RET = 0. -/
  | retentionWake (g : RidgeId)
  /-- WAKE_COMPLETE. R254. -/
  | wakeComplete (g : RidgeId)
  /-- CHANNEL_TABLE_LOOKUP. R258. -/
  | channelTableLookup (m : Master) (c : Fin 2097152) (upset : BitVec 72)
  /-- CHANNEL_TABLE_WRITE. R259. -/
  | channelTableWrite (m : Master) (addr : BitVec 48) (bytes : List (BitVec 8))
  /-- MAILBOX_DATA_ACCESS. R261. -/
  | mailboxDataAccess (m : Master) (addr : BitVec 48) (acc : Access) (upset : BitVec 72)
  /-- DOORBELL_WRITE. R262. -/
  | doorbellWrite (m : Master) (tag : Fin 257) (v : BitVec 64)
  /-- SEMAPHORE_ACQUIRE. R263. -/
  | semaphoreAcquire (owner : Fin 257) (n : Fin 256)
  /-- SEMAPHORE_RELEASE. R263. -/
  | semaphoreRelease (owner : Fin 257) (n : Fin 256)
  /-- SEMAPHORE_BREAK. R265. -/
  | semaphoreBreak (n : Fin 256)
  /-- FORCED_BREAK. R265: a write to MBX_SEMFORCE. -/
  | forcedBreak (m : Master) (n : Fin 256)
  /-- MATRIX_REQUEST_ENTRY. R279. -/
  | matrixRequestEntry (m : Master) (id : BitVec 8) (qos : BitVec 4) (addr : BitVec 48) (acc : Access)
  /-- MATRIX_GRANT. R274. -/
  | matrixGrant (pt : ArbPoint)
  /-- DUST_SHEET_LIFT. R282. -/
  | dustSheetLift (p : SheetPart)
  /-- DEEP_STORE_GRANT. R230. -/
  | deepStoreGrant (i : Fin 32) (upset : BitVec 72)
  /-- TRAINING_COMPLETE. R217: training of interface `i` ends; `ok` = false after three failures. -/
  | trainingComplete (i : Fin 32) (ok : Bool)
  /-- RECENTRING. R218: the re-centring of a channel starts, or ends where it is under way. -/
  | recentring (i : Fin 32) (ch : Fin 2)
  /-- EDC_RETRY. R219: retry `attempt` of a burst; `sixteen` says that 16 bursts of the channel needed a retry within 1 ms. -/
  | edcRetry (i : Fin 32) (ch : Fin 2) (attempt : Fin 3) (ok : Bool) (sixteen : Bool)
  /-- RETRAIN_COMPLETE. R219. -/
  | retrainComplete (i : Fin 32) (ch : Fin 2) (ok : Bool)
  /-- OUTAGE_REMAP. R238 steps 3 and 4. -/
  | outageRemap
  /-- OUTAGE_END. R238 step 5. -/
  | outageEnd
  /-- REFRESH_OWED. R229. -/
  | refreshOwed (pb : Fin 1024)
  /-- REFRESH_ISSUE. R229. -/
  | refreshIssue (pb : Fin 1024)
  /-- DRAM_TEMPERATURE_READ. R215. -/
  | dramTemperatureRead (i : Fin 32) (celsius : Int)
  /-- RETRAIN. R214: a write of RETRAIN = 1 and RATE to DS_CTRL. -/
  | retrain (m : Master) (rate : BitVec 3)
  /-- WINDOW_ENABLE. R225: a write of `v` to DS_WINn. -/
  | windowEnable (m : Master) (n : Fin 16) (v : BitVec 64)
  /-- WINDOW_INIT. R225: a write of `v` with INIT to DS_WINn. -/
  | windowInit (m : Master) (n : Fin 16) (v : BitVec 64)
  /-- WINDOW_ZEROING_DONE. R225. -/
  | windowZeroingDone (n : Fin 16)
  /-- MIGRATION_START. R235 step 1. -/
  | migrationStart
  /-- MIGRATION_ROW_COPY. R235 steps 2 to 4. -/
  | migrationRowCopy
  /-- BANK_REPLACEMENT. R249, R256. -/
  | bankReplacement (b : SramBank)
  /-- ROW_REPAIR. R451. -/
  | rowRepair (b : SramBank) (row : Nat)
  /-- BLOCK_LOCK. R359, R361: what an unlocked receive side takes, up to the point where it has lock. -/
  | blockLock (x : LinkInput)
  /-- LOCK_LOSS. R359, R361: `x` is what a locked receive side takes from the start of a window of 64, up to the loss;
  `openFrame` is the part received of the frame open at that moment, from its header on (nothing: no frame is open). -/
  | lockLoss (x : LinkInput) (openFrame : Received)
  /-- FLP_FRAME. R358: the blocks of one frame, from its header block on. -/
  | flpFrame (l : Fin 128) (blocks : List Block66)
  /-- LEG8_FRAME. R361: the code groups of one frame, from K27.7 on. -/
  | leg8Frame (l : Fin 128) (groups : List CodeGroup)
  /-- ETH25_FRAME. R373: `bytes` run from destination address to FCS; `fecBad`: RS-FEC could not correct a codeword. -/
  | eth25Frame (l : Fin 128) (bytes : List (BitVec 8)) (fecBad : Bool)
  /-- RING_WP_ADVANCE. R370. -/
  | ringWpAdvance (n : Fin 16)
  /-- SADDLE_RELEASE. R367: a write of REL0 and REL1 to LG_SADs. -/
  | saddleRelease (m : Master) (n : Fin 16) (s : Fin 2) (rel0 : Bool) (rel1 : Bool)
  /-- RING_ENABLE. R371: a write of `v` to LG_RINGCTL. -/
  | ringEnable (m : Master) (n : Fin 16) (v : BitVec 64)
  /-- LINK_FAILURE. R380. -/
  | linkFailure (l : Fin 128)
  /-- LINK_FAIL_CLEAR. R380. -/
  | linkFailClear (l : Fin 128)
  /-- LINK_DEAD_MARKING. R380. -/
  | linkDeadMarking (l : Fin 128)
  /-- BLOCK0_TRANSMIT. R387. -/
  | block0Transmit (l : Fin 128)
  /-- EGRESS_ENTRY. R379. -/
  | egressEntry (n : Fin 16)
  /-- EGRESS_DATAGRAM. R378. -/
  | egressDatagram (n : Fin 16) (k : Fin 8)
  /-- COL_EVALUATION. R384. -/
  | colEvaluation
  /-- COL_DEADLINE. R384. -/
  | colDeadline
  /-- RESULT_DELIVERY. R391: `inCutoff` says that the result enters in the last 4 release-side cycles before the next release point. -/
  | resultDelivery (q : Fin 16) (tag : Option (BitVec 64)) (v : BitVec 64) (inCutoff : Bool)
  /-- RELEASE_POINT. R393. -/
  | releasePoint (q : Fin 16)
  /-- FAST_CHECK. R399: a run of 256 periods measured `run` units of 0.1 ns. -/
  | fastCheck (run : Nat)
  /-- BXC_ADVANCE. R404. -/
  | bxcAdvance
  /-- BUNCH_CLOCK_LOSS. R400. -/
  | bunchClockLoss
  /-- BUNCH_CLOCK_FAILOVER. R400. -/
  | bunchClockFailover
  /-- BUNCH_CLOCK_PRESENT. R400. -/
  | bunchClockPresent (inputB : Bool)
  /-- ORBIT_MARKER. R401. -/
  | orbitMarker
  /-- ORBIT_LOST. R401. -/
  | orbitLost
  /-- ARM. R401: a write of ARM = 1 to TMR_CLK. -/
  | arm (m : Master)
  /-- TIME_CODE_FRAME. R402: `part` is the frame's on-time edge or its end. -/
  | timeCodeFrame (part : TimeCodePart)
  /-- TIME_CODE_TIMEOUT. R402. -/
  | timeCodeTimeout
  /-- REFCLK_LOSS. R403. -/
  | refclkLoss
  /-- TIMER_COUNT_ENABLE. R405: a write of `v` to TMR_CFGc. -/
  | timerCountEnable (m : Master) (c : Fin 8) (v : BitVec 64)
  /-- TIMER_TICK. R405, R406: the next rising edges of a channel's source. -/
  | timerTick (x : SourceEdges)
  /-- TIMER_CMP_WRITE. R407: a write of `v` to TMR_CMPc. -/
  | timerCmpWrite (m : Master) (c : Fin 8) (v : BitVec 64)
  /-- TIMER_COMPARE_ENABLE. R407: a write of `v` to TMR_CFGc. -/
  | timerCompareEnable (m : Master) (c : Fin 8) (v : BitVec 64)
  /-- CAPTURE_RISE. R409. -/
  | captureRise (c : Fin 8)
  /-- CAPTURE_FALL. R409. -/
  | captureFall (c : Fin 8)
  /-- CAPTURE_READ. R409. -/
  | captureRead (m : Master) (c : Fin 8)
  /-- CHAIN_PORT_UP. R412: the upstream (`up`) or downstream port comes up. -/
  | chainPortUp (up : Bool)
  /-- CHAIN_PORT_DOWN. R412. -/
  | chainPortDown (up : Bool)
  /-- CHAIN_PACKET. R414: a packet received on the upstream (`up`) or downstream port. -/
  | chainPacket (up : Bool) (p : ChainPacket)
  /-- ENUM_START. R416. -/
  | enumStart
  /-- ENUM. R416: executes the ENUM request at the head of the request queue. -/
  | enum
  /-- IDENT. R422: executes the request of this name at the head of the request queue. -/
  | ident
  /-- READ. R423: executes the request of this name at the head of the request queue. -/
  | read
  /-- WRITE. R423: executes the request of this name at the head of the request queue. -/
  | write
  /-- TELEM. R424: executes the request of this name at the head of the request queue. -/
  | telem
  /-- TELEMETRY_SAMPLE. R424: the 10 ms sample of the measured points. -/
  | telemetrySample (p : Telemetry)
  /-- FOPEN. R425: executes the request of this name at the head of the request queue. -/
  | fopen
  /-- FDATA. R426: executes the request of this name at the head of the request queue. -/
  | fdata
  /-- FCLOSE. R426: executes the request of this name at the head of the request queue. -/
  | fclose
  /-- LOGREAD. R422: executes the request of this name at the head of the request queue. -/
  | logread
  /-- POWER. R485: executes the request of this name at the head of the request queue. -/
  | power
  /-- POWER_TRANSITION_COMPLETE. R485. -/
  | powerTransitionComplete
  /-- REBOOT. R422: executes the request of this name at the head of the request queue. -/
  | reboot
  /-- CHALLENGE. R448: executes the request of this name at the head of the request queue. -/
  | challenge
  /-- ATTEST. R439: executes the request of this name at the head of the request queue. -/
  | attest
  /-- IDPUB. R449: executes the request of this name at the head of the request queue. -/
  | idpub
  /-- CERTREAD. R449: executes the request of this name at the head of the request queue. -/
  | certread
  /-- CERTSTORE. R438: executes the request of this name at the head of the request queue. -/
  | certstore
  /-- LREAD. R449: executes the request of this name at the head of the request queue. -/
  | lread
  /-- LCLOSE. R442: executes the request of this name at the head of the request queue. -/
  | lclose
  /-- FWOPEN. R433: executes the request of this name at the head of the request queue. -/
  | fwopen
  /-- OPEN_DEBUG. R447: executes the AUTH request of this action at the head of the request queue. -/
  | openDebug
  /-- RETURN. R447: executes the AUTH request of this action at the head of the request queue; `blown` of its fuse positions verify before one does not (R444). -/
  | returnAction (blown : Nat)
  /-- LATH_SVN. R447: executes the AUTH request of this action at the head of the request queue; `blown` of its fuse positions verify before one does not (R444). -/
  | lathSvn (blown : Nat)
  /-- FW_SVN. R447: executes the AUTH request of this action at the head of the request queue; `blown` of its fuse positions verify before one does not (R444). -/
  | fwSvn (blown : Nat)
  /-- REVOKE. R447: executes the AUTH request of this action at the head of the request queue; `blown` of its fuse positions verify before one does not (R444). -/
  | revoke (blown : Nat)
  /-- CERT. R447: executes the AUTH request of this action at the head of the request queue. -/
  | cert
  /-- SCRAP. R447: executes the AUTH request of this action at the head of the request queue; `blown` of its fuse positions verify before one does not (R444). -/
  | scrap (blown : Nat)
  /-- ADDKEY. R447: executes the AUTH request of this action at the head of the request queue; `blown` of its fuse positions verify before one does not (R444). -/
  | addkey (blown : Nat)
  /-- TO_BLANK. R447: executes the AUTH request of this action at the head of the request queue; `blown` of its fuse positions verify before one does not (R444). -/
  | toBlank (blown : Nat)
  /-- PROVISION. R447: executes the AUTH request of this action at the head of the request queue; `blown` of its fuse positions verify before one does not (R444). -/
  | provision (blown : Nat)
  /-- REBLANK. R447: executes the AUTH request of this action at the head of the request queue; `blown` of its fuse positions verify before one does not (R444). -/
  | reblank (blown : Nat)
  /-- ERASURE_COMPLETE. R443. -/
  | erasureComplete
  /-- TURN_ON. R479. -/
  | turnOn (p : Pins)
  /-- SMC_BOOT. R431. -/
  | smcBoot
  /-- STANDBY_TO_IDLE. R485: `trained` says which interfaces train (R217). -/
  | standbyToIdle (trained : BitVec 32)
  /-- RETENTION_TIMEOUT. R483: 1 ms without an access of the channel table (`ct`) or the mailbox. -/
  | retentionTimeout (ct : Bool)
  /-- THERMAL_TRIP. R488: the highest readings in degrees C. -/
  | thermalTrip (domain : Int) (dram : Int) (plate : Int)
  /-- MRST. R493. -/
  | mrst
  /-- PFAIL. R472: PFAIL by level or by slope. -/
  | pfail (slope : Bool)
  /-- PFAIL_DRAIN_COMPLETE. R473 step 3. -/
  | pfailDrainComplete
  /-- PFAIL_RECOVERY. R473 step 4. -/
  | pfailRecovery
  /-- FULL_SITE_TEST. R452. -/
  | fullSiteTest (st : Fin 34)
  /-- SITE_TEST_DONE. R459. -/
  | siteTestDone (st : Fin 34) (ok : Bool)
  /-- LANE_ROTATION. R455. -/
  | laneRotation (st : Fin 34)
  /-- SLOT_TEST_DONE. R455. -/
  | slotTestDone (st : Fin 34) (slot : Fin 18) (ok : Bool)
  /-- SRAM_BORROW. R454. -/
  | sramBorrow (b : SramBank)
  /-- BORROW_TEST_DONE. R454: the borrowed bank passes, or row `row` fails. -/
  | borrowTestDone (ok : Bool) (row : Nat)
  /-- CONTROL_STORE_COMPARE. R456. -/
  | controlStoreCompare (g : RidgeId) (mismatch : Option ParityFail)
  /-- MEMORY_SCRUB. R456: scrub of the channel table (`ct`) or the mailbox data. -/
  | memoryScrub (ct : Bool)
  /-- WINDOW_SCRUB. R456. -/
  | windowScrub (n : Fin 16)
  /-- DEEP_STORE_BANK_TEST. R452. -/
  | deepStoreBankTest (pb : Fin 1024)
  /-- BANK_TEST_DONE. R235. -/
  | bankTestDone (pb : Fin 1024) (ok : Bool)
  /-- SWEEP_PROGRESS. R453. -/
  | sweepProgress
  /-- SWEEP_CYCLE_END. R453. -/
  | sweepCycleEnd
  /-- LANE_SWAP. R463. -/
  | laneSwap (g : RidgeId) (lane : Fin 16)
  /-- LANE_SWAP_EXECUTE. R463. -/
  | laneSwapExecute (g : RidgeId)
  /-- LANE_SWAP_ABANDON. R463. -/
  | laneSwapAbandon (g : RidgeId)
  /-- RIDGE_MOVE. R460: a faulty site makes ridge `g` move; `cause` is the case of R459. -/
  | ridgeMove (g : RidgeId) (cause : BitVec 8)
  /-- RIDGE_MOVE_COMPLETE. R460: readback and self-test end with `ok`; `lost` says that the old ledge could not be read. -/
  | ridgeMoveComplete (g : RidgeId) (ok : Bool) (lost : Bool)
  /-- RECORD_COMMIT. R469. -/
  | recordCommit
  /-- COMPACTION_COMPLETE. R470. -/
  | compactionComplete
  /-- CAIRN_APPEND. R471: a write of `v` to RPR_CLAPPEND. -/
  | cairnAppend (m : Master) (v : BitVec 64)
  /-- TXRANGE. R357: the active bunch clock runs at `khz` kHz. -/
  | txrange (l : Fin 128) (khz : Nat)
  /-- BUNCH_CLOCK_ABSENT. R400. -/
  | bunchClockAbsent (inputB : Bool)
  /-- SCAFFOLD_SLOT_TEST. R452. -/
  | scaffoldSlotTest (st : Fin 34) (slot : Fin 18)
  /-- SCAFFOLD_BANK_TEST. R452. -/
  | scaffoldBankTest (bankOf : ScaffoldOf) (ok : Bool)
  deriving DecidableEq, Repr

end Sys2Proof
end

