-- ==== Sys2Proof/Decode.lean ====
section
/-!
DEFINITION. The command a word spells by the opcode table. The table of this hardware gives no row any bits, so no word
spells a command; the 32-bit encoding of control-core instructions (R306) stands in `Machine/Isa.lean`.
-/

namespace Sys2Proof

/-- No row of the opcode table has bits. Choices: log entry 2. -/
def decodeTableWord (_nbits _w : Nat) : Option Instr := none

end Sys2Proof
end

