-- ==== Sys2Proof/Machine/Isa.lean ====
section
/-!
DEFINITION. The instruction words of the control core (R305 to R334): the encoder, written from the format and opcode
tables, and the decoder, which refuses every undefined or malformed word (R308). `t` is the thread whose instruction
the word is.
-/

namespace Sys2Proof.Machine

/-! ### Formats (R306) -/

/-- R306: format D3. -/
def d3 (opc : BitVec 6) (rd ra rb md : BitVec 5) (fn : BitVec 6) : BitVec 32 := opc ++ rd ++ ra ++ rb ++ md ++ fn
/-- R306: format DI. -/
def di (opc : BitVec 6) (rd ra : BitVec 5) (f : BitVec 2) (imm : BitVec 14) : BitVec 32 := opc ++ rd ++ ra ++ f ++ imm
/-- R306: format AM. -/
def am (opc : BitVec 6) (rt : BitVec 5) (ab : BitVec 4) (sz : BitVec 3) (disp : BitVec 14) : BitVec 32 :=
  opc ++ rt ++ ab ++ sz ++ disp
/-- R306: format BR. -/
def br (opc : BitVec 6) (rc : BitVec 5) (disp : BitVec 21) : BitVec 32 := opc ++ rc ++ disp
/-- R306: format SY. -/
def sy (opc : BitVec 6) (rd ra : BitVec 5) (s8 fn : BitVec 8) : BitVec 32 := opc ++ rd ++ ra ++ s8 ++ fn
/-- R311: MOD of the integer groups. -/
def alu (w : BitVec 2) (sat u : Bool) : BitVec 5 := w ++ BitVec.ofBool sat ++ BitVec.ofBool u ++ 0#1

/-- `x` where the encoding's conditions hold. -/
def optIf (c : Prop) [Decidable c] (x : Instr) : Option Instr := if c then some x else none

/-- The word of a control-core instruction; no other command has one. -/
def encode (i : Instr) : Option (BitVec 32) :=
  match i with
  | .add _ w sat u rd ra rb => some (d3 0x1#6 rd ra rb (alu w sat u) 0x0#6)
  | .sub _ w sat u rd ra rb => some (d3 0x1#6 rd ra rb (alu w sat u) 0x1#6)
  | .neg _ w sat rd ra => some (d3 0x1#6 rd ra 0 (alu w sat false) 0x2#6)
  | .abs _ w sat rd ra => some (d3 0x1#6 rd ra 0 (alu w sat false) 0x3#6)
  | .and _ w u rd ra rb => some (d3 0x1#6 rd ra rb (alu w false u) 0x8#6)
  | .or _ w u rd ra rb => some (d3 0x1#6 rd ra rb (alu w false u) 0x9#6)
  | .xor _ w u rd ra rb => some (d3 0x1#6 rd ra rb (alu w false u) 0xa#6)
  | .andn _ w u rd ra rb => some (d3 0x1#6 rd ra rb (alu w false u) 0xb#6)
  | .not _ w u rd ra => some (d3 0x1#6 rd ra 0 (alu w false u) 0xc#6)
  | .shl _ w sat u rd ra rb => some (d3 0x1#6 rd ra rb (alu w sat u) 0x10#6)
  | .shr _ w u rd ra rb => some (d3 0x1#6 rd ra rb (alu w false u) 0x11#6)
  | .sra _ w u rd ra rb => some (d3 0x1#6 rd ra rb (alu w false u) 0x12#6)
  | .rotl _ w u rd ra rb => some (d3 0x1#6 rd ra rb (alu w false u) 0x13#6)
  | .min _ w u rd ra rb => some (d3 0x1#6 rd ra rb (alu w false u) 0x18#6)
  | .max _ w u rd ra rb => some (d3 0x1#6 rd ra rb (alu w false u) 0x19#6)
  | .cmpeq _ w rd ra rb => some (d3 0x1#6 rd ra rb (alu w false false) 0x1a#6)
  | .cmplt _ w u rd ra rb => some (d3 0x1#6 rd ra rb (alu w false u) 0x1b#6)
  | .cmple _ w u rd ra rb => some (d3 0x1#6 rd ra rb (alu w false u) 0x1c#6)
  | .selnz _ w u rd ra rb => some (d3 0x1#6 rd ra rb (alu w false u) 0x1d#6)
  | .mov _ w u rd ra => some (d3 0x1#6 rd ra 0 (alu w false u) 0x20#6)
  | .popc _ w u rd ra => some (d3 0x1#6 rd ra 0 (alu w false u) 0x21#6)
  | .clz _ w u rd ra => some (d3 0x1#6 rd ra 0 (alu w false u) 0x22#6)
  | .mul _ w sat u rd ra rb => some (d3 0x2#6 rd ra rb (alu w sat u) 0x0#6)
  | .mulh _ w u rd ra rb => some (d3 0x2#6 rd ra rb (alu w false u) 0x1#6)
  | .div _ w sat u rd ra rb => some (d3 0x2#6 rd ra rb (alu w sat u) 0x4#6)
  | .divr _ w sat u rd ra rb => some (d3 0x2#6 rd ra rb (alu w sat u) 0x5#6)
  | .xmul _ w u xd ra rb => some (d3 0x2#6 (0#3 ++ xd) ra rb (alu w false u) 0x10#6)
  | .xmac _ w u xd ra rb => some (d3 0x2#6 (0#3 ++ xd) ra rb (alu w false u) 0x11#6)
  | .xmsu _ w u xd ra rb => some (d3 0x2#6 (0#3 ++ xd) ra rb (alu w false u) 0x12#6)
  | .xmov _ rd xs sh w sat u => some (0x2#6 ++ rd ++ xs ++ sh ++ w ++ BitVec.ofBool sat ++ BitVec.ofBool u ++ 0#2 ++ 0x18#6)
  | .fadd _ fw rd ra rb => some (d3 0x3#6 rd ra rb (fw ++ 0#3) 0x0#6)
  | .fsub _ fw rd ra rb => some (d3 0x3#6 rd ra rb (fw ++ 0#3) 0x1#6)
  | .fmul _ fw rd ra rb => some (d3 0x3#6 rd ra rb (fw ++ 0#3) 0x2#6)
  | .fdiv _ fw rd ra rb => some (d3 0x3#6 rd ra rb (fw ++ 0#3) 0x3#6)
  | .fsqrt _ fw rd ra => some (d3 0x3#6 rd ra 0 (fw ++ 0#3) 0x4#6)
  | .fmin _ fw rd ra rb => some (d3 0x3#6 rd ra rb (fw ++ 0#3) 0x8#6)
  | .fmax _ fw rd ra rb => some (d3 0x3#6 rd ra rb (fw ++ 0#3) 0x9#6)
  | .fminm _ fw rd ra rb => some (d3 0x3#6 rd ra rb (fw ++ 0#3) 0xa#6)
  | .fmaxm _ fw rd ra rb => some (d3 0x3#6 rd ra rb (fw ++ 0#3) 0xb#6)
  | .fabs _ fw rd ra => some (d3 0x3#6 rd ra 0 (fw ++ 0#3) 0xc#6)
  | .fneg _ fw rd ra => some (d3 0x3#6 rd ra 0 (fw ++ 0#3) 0xd#6)
  | .fcsgn _ fw rd ra rb => some (d3 0x3#6 rd ra rb (fw ++ 0#3) 0xe#6)
  | .frint _ fw rd ra => some (d3 0x3#6 rd ra 0 (fw ++ 0#3) 0x10#6)
  | .fcmpeq _ fw rd ra rb => some (d3 0x3#6 rd ra rb (fw ++ 0#3) 0x18#6)
  | .fcmplt _ fw rd ra rb => some (d3 0x3#6 rd ra rb (fw ++ 0#3) 0x19#6)
  | .fcmple _ fw rd ra rb => some (d3 0x3#6 rd ra rb (fw ++ 0#3) 0x1a#6)
  | .cvtff _ src dst rd ra => some (d3 0x3#6 rd ra 0 (src ++ dst ++ 0#1) 0x20#6)
  | .cvtfi _ fw w u rd ra => some (d3 0x3#6 rd ra 0 (fw ++ w ++ BitVec.ofBool u) 0x21#6)
  | .cvtif _ fw w u rd ra => some (d3 0x3#6 rd ra 0 (fw ++ w ++ BitVec.ofBool u) 0x22#6)
  | .fma _ fw rd ra rb rc => some (d3 0x4#6 rd ra rb rc (0#2 ++ 0x0#2 ++ fw))
  | .fms _ fw rd ra rb rc => some (d3 0x4#6 rd ra rb rc (0#2 ++ 0x1#2 ++ fw))
  | .fnma _ fw rd ra rb rc => some (d3 0x4#6 rd ra rb rc (0#2 ++ 0x2#2 ++ fw))
  | .fnms _ fw rd ra rb rc => some (d3 0x4#6 rd ra rb rc (0#2 ++ 0x3#2 ++ fw))
  | .bcdadd _ rd ra rb => some (d3 0x5#6 rd ra rb 0 0x0#6)
  | .bcdsub _ rd ra rb => some (d3 0x5#6 rd ra rb 0 0x1#6)
  | .movad _ ad ra => some (d3 0x6#6 (0#1 ++ ad) ra 0 0 0x0#6)
  | .movda _ rd aa => some (d3 0x6#6 rd (0#1 ++ aa) 0 0 0x1#6)
  | .cmpaeq _ rd aa ab => some (d3 0x6#6 rd (0#1 ++ aa) (0#1 ++ ab) 0 0x2#6)
  | .cmpaltu _ rd aa ab => some (d3 0x6#6 rd (0#1 ++ aa) (0#1 ++ ab) 0 0x3#6)
  | .adda _ ad aa imm => some (di 0xb#6 (0#1 ++ ad) (0#1 ++ aa) 0x0#2 imm)
  | .suba _ ad aa imm => some (di 0xb#6 (0#1 ++ ad) (0#1 ++ aa) 0x1#2 imm)
  | .addi _ rd ra imm => some (di 0x8#6 rd ra 0x0#2 imm)
  | .andi _ rd ra imm => some (di 0x8#6 rd ra 0x1#2 imm)
  | .ori _ rd ra imm => some (di 0x8#6 rd ra 0x2#2 imm)
  | .li _ rd imm => some (di 0x8#6 rd 0 3#2 imm)
  | .shli _ rd ra sh => some (di 0x9#6 rd ra 0x0#2 (0#8 ++ sh))
  | .shri _ rd ra sh => some (di 0x9#6 rd ra 0x1#2 (0#8 ++ sh))
  | .srai _ rd ra sh => some (di 0x9#6 rd ra 0x2#2 (0#8 ++ sh))
  | .rotli _ rd ra sh => some (di 0x9#6 rd ra 0x3#2 (0#8 ++ sh))
  | .cmpeqi _ rd ra imm => some (di 0xa#6 rd ra 0x0#2 imm)
  | .cmplti _ rd ra imm => some (di 0xa#6 rd ra 0x1#2 imm)
  | .cmpltui _ rd ra imm => some (di 0xa#6 rd ra 0x2#2 imm)
  | .ld _ rt ab sz disp => some (am 0x10#6 rt ab sz disp)
  | .lds _ rt ab sz disp => some (am 0x11#6 rt ab sz disp)
  | .st _ rt ab sz disp => some (am 0x12#6 rt ab sz disp)
  | .slaunch _ rt ab => some (am 0x13#6 rt ab 0 0)
  | .beqz _ rc disp => some (br 0x18#6 rc disp)
  | .bnez _ rc disp => some (br 0x19#6 rc disp)
  | .bltz _ rc disp => some (br 0x1a#6 rc disp)
  | .bgez _ rc disp => some (br 0x1b#6 rc disp)
  | .bra _ disp => some (br 0x1c#6 0 disp)
  | .bal _ rc disp => some (br 0x1d#6 rc disp)
  | .ja _ ab => some (br 0x1e#6 0 (ab ++ 0#17))
  | .jal _ rc ab => some (br 0x1f#6 rc (ab ++ 0#17))
  | .nop _ => some (sy 0x30#6 0 0 0 0x0#8)
  | .mfs _ rd s8 => some (sy 0x30#6 rd 0 s8 0x1#8)
  | .mts _ ra s8 => some (sy 0x30#6 0 ra s8 0x2#8)
  | .wfe _ rd vm => some (sy 0x30#6 rd 0 (vm ++ 0#5) 0x8#8)
  | .wtu _ rd ra vm => some (sy 0x30#6 rd ra (vm ++ 0#5) 0x9#8)
  | .sev _ ra ev => some (sy 0x30#6 0 ra ev 0xa#8)
  | .callg _ gate => some (sy 0x30#6 0 0 gate 0x10#8)
  | .retx _ => some (sy 0x30#6 0 0 0 0x11#8)
  | .fence _ => some (sy 0x30#6 0 0 0 0x18#8)
  | _ => none

/-! ### Decoding (R307, R308, R310) -/

/-- R312: the INT group. -/
def decodeInt (t : ThreadId) (w : BitVec 2) (sat u : Bool) (b0 : BitVec 1) (rd ra rb : BitVec 5) (fn : BitVec 6) : Option Instr :=
  if fn = 0x0#6 then optIf (b0 = 0) (.add t w sat u rd ra rb)
  else if fn = 0x1#6 then optIf (b0 = 0) (.sub t w sat u rd ra rb)
  else if fn = 0x2#6 then optIf (b0 = 0 ∧ rb = 0 ∧ u = false) (.neg t w sat rd ra)
  else if fn = 0x3#6 then optIf (b0 = 0 ∧ rb = 0 ∧ u = false) (.abs t w sat rd ra)
  else if fn = 0x8#6 then optIf (b0 = 0 ∧ sat = false) (.and t w u rd ra rb)
  else if fn = 0x9#6 then optIf (b0 = 0 ∧ sat = false) (.or t w u rd ra rb)
  else if fn = 0xa#6 then optIf (b0 = 0 ∧ sat = false) (.xor t w u rd ra rb)
  else if fn = 0xb#6 then optIf (b0 = 0 ∧ sat = false) (.andn t w u rd ra rb)
  else if fn = 0xc#6 then optIf (b0 = 0 ∧ rb = 0 ∧ sat = false) (.not t w u rd ra)
  else if fn = 0x10#6 then optIf (b0 = 0) (.shl t w sat u rd ra rb)
  else if fn = 0x11#6 then optIf (b0 = 0 ∧ sat = false) (.shr t w u rd ra rb)
  else if fn = 0x12#6 then optIf (b0 = 0 ∧ sat = false) (.sra t w u rd ra rb)
  else if fn = 0x13#6 then optIf (b0 = 0 ∧ sat = false) (.rotl t w u rd ra rb)
  else if fn = 0x18#6 then optIf (b0 = 0 ∧ sat = false) (.min t w u rd ra rb)
  else if fn = 0x19#6 then optIf (b0 = 0 ∧ sat = false) (.max t w u rd ra rb)
  else if fn = 0x1a#6 then optIf (b0 = 0 ∧ sat = false ∧ u = false) (.cmpeq t w rd ra rb)
  else if fn = 0x1b#6 then optIf (b0 = 0 ∧ sat = false) (.cmplt t w u rd ra rb)
  else if fn = 0x1c#6 then optIf (b0 = 0 ∧ sat = false) (.cmple t w u rd ra rb)
  else if fn = 0x1d#6 then optIf (b0 = 0 ∧ sat = false) (.selnz t w u rd ra rb)
  else if fn = 0x20#6 then optIf (b0 = 0 ∧ rb = 0 ∧ sat = false) (.mov t w u rd ra)
  else if fn = 0x21#6 then optIf (b0 = 0 ∧ rb = 0 ∧ sat = false) (.popc t w u rd ra)
  else if fn = 0x22#6 then optIf (b0 = 0 ∧ rb = 0 ∧ sat = false) (.clz t w u rd ra)
  else none

/-- R313: the MUL group but XMOV. -/
def decodeMul (t : ThreadId) (w : BitVec 2) (sat u : Bool) (b0 : BitVec 1) (rd ra rb : BitVec 5) (fn : BitVec 6) : Option Instr :=
  if fn = 0x0#6 then optIf (b0 = 0) (.mul t w sat u rd ra rb)
  else if fn = 0x1#6 then optIf (b0 = 0 ∧ sat = false) (.mulh t w u rd ra rb)
  else if fn = 0x4#6 then optIf (b0 = 0) (.div t w sat u rd ra rb)
  else if fn = 0x5#6 then optIf (b0 = 0 ∧ rd.getLsbD 0 = false) (.divr t w sat u rd ra rb)
  else if fn = 0x10#6 then optIf (b0 = 0 ∧ sat = false ∧ rd.extractLsb' 2 3 = 0) (.xmul t w u (rd.extractLsb' 0 2) ra rb)
  else if fn = 0x11#6 then optIf (b0 = 0 ∧ sat = false ∧ rd.extractLsb' 2 3 = 0) (.xmac t w u (rd.extractLsb' 0 2) ra rb)
  else if fn = 0x12#6 then optIf (b0 = 0 ∧ sat = false ∧ rd.extractLsb' 2 3 = 0) (.xmsu t w u (rd.extractLsb' 0 2) ra rb)
  else none

/-- R314: XMOV, from the whole word. -/
def decodeXmov (t : ThreadId) (x : BitVec 32) : Option Instr :=
  optIf (x.extractLsb' 6 2 = 0) (.xmov t (x.extractLsb' 21 5) (x.extractLsb' 19 2) (x.extractLsb' 12 7)
    (x.extractLsb' 10 2) (x.getLsbD 9) (x.getLsbD 8))

/-- R316, R317: the FP group; `w` and `u` are bits [8:7] and [6], together `low`. -/
def decodeFp (t : ThreadId) (fw w : BitVec 2) (u : Bool) (low : BitVec 3) (rd ra rb : BitVec 5) (fn : BitVec 6) : Option Instr :=
  if fn = 0x0#6 then optIf (fw ≠ 3 ∧ low = 0) (.fadd t fw rd ra rb)
  else if fn = 0x1#6 then optIf (fw ≠ 3 ∧ low = 0) (.fsub t fw rd ra rb)
  else if fn = 0x2#6 then optIf (fw ≠ 3 ∧ low = 0) (.fmul t fw rd ra rb)
  else if fn = 0x3#6 then optIf (fw ≠ 3 ∧ low = 0) (.fdiv t fw rd ra rb)
  else if fn = 0x4#6 then optIf (fw ≠ 3 ∧ low = 0 ∧ rb = 0) (.fsqrt t fw rd ra)
  else if fn = 0x8#6 then optIf (fw ≠ 3 ∧ low = 0) (.fmin t fw rd ra rb)
  else if fn = 0x9#6 then optIf (fw ≠ 3 ∧ low = 0) (.fmax t fw rd ra rb)
  else if fn = 0xa#6 then optIf (fw ≠ 3 ∧ low = 0) (.fminm t fw rd ra rb)
  else if fn = 0xb#6 then optIf (fw ≠ 3 ∧ low = 0) (.fmaxm t fw rd ra rb)
  else if fn = 0xc#6 then optIf (fw ≠ 3 ∧ low = 0 ∧ rb = 0) (.fabs t fw rd ra)
  else if fn = 0xd#6 then optIf (fw ≠ 3 ∧ low = 0 ∧ rb = 0) (.fneg t fw rd ra)
  else if fn = 0xe#6 then optIf (fw ≠ 3 ∧ low = 0) (.fcsgn t fw rd ra rb)
  else if fn = 0x10#6 then optIf (fw ≠ 3 ∧ low = 0 ∧ rb = 0) (.frint t fw rd ra)
  else if fn = 0x18#6 then optIf (fw ≠ 3 ∧ low = 0) (.fcmpeq t fw rd ra rb)
  else if fn = 0x19#6 then optIf (fw ≠ 3 ∧ low = 0) (.fcmplt t fw rd ra rb)
  else if fn = 0x1a#6 then optIf (fw ≠ 3 ∧ low = 0) (.fcmple t fw rd ra rb)
  else if fn = 0x20#6 then optIf (fw ≠ 3 ∧ w ≠ 3 ∧ fw ≠ w ∧ u = false ∧ rb = 0) (.cvtff t fw w rd ra)
  else if fn = 0x21#6 then optIf (fw ≠ 3 ∧ rb = 0) (.cvtfi t fw w u rd ra)
  else if fn = 0x22#6 then optIf (fw ≠ 3 ∧ rb = 0) (.cvtif t fw w u rd ra)
  else none

/-- R318: the FMA group. -/
def decodeFma (t : ThreadId) (fw sel hi : BitVec 2) (rd ra rb rc : BitVec 5) : Option Instr :=
  if sel = 0x0#2 then optIf (fw ≠ 3 ∧ hi = 0) (.fma t fw rd ra rb rc)
  else if sel = 0x1#2 then optIf (fw ≠ 3 ∧ hi = 0) (.fms t fw rd ra rb rc)
  else if sel = 0x2#2 then optIf (fw ≠ 3 ∧ hi = 0) (.fnma t fw rd ra rb rc)
  else if sel = 0x3#2 then optIf (fw ≠ 3 ∧ hi = 0) (.fnms t fw rd ra rb rc)
  else none

/-- R319: the BCD group. -/
def decodeBcd (t : ThreadId) (rd ra rb md : BitVec 5) (fn : BitVec 6) : Option Instr :=
  if fn = 0x0#6 then optIf (md = 0) (.bcdadd t rd ra rb)
  else if fn = 0x1#6 then optIf (md = 0) (.bcdsub t rd ra rb)
  else none

/-- R320: moves and compares of A registers. -/
def decodeAreg (t : ThreadId) (rd ra rb md : BitVec 5) (fn : BitVec 6) : Option Instr :=
  if fn = 0x0#6 then optIf (md = 0 ∧ rb = 0 ∧ rd.getLsbD 4 = false) (.movad t (rd.extractLsb' 0 4) ra)
  else if fn = 0x1#6 then optIf (md = 0 ∧ rb = 0 ∧ ra.getLsbD 4 = false) (.movda t rd (ra.extractLsb' 0 4))
  else if fn = 0x2#6 then optIf (md = 0 ∧ ra.getLsbD 4 = false ∧ rb.getLsbD 4 = false) (.cmpaeq t rd (ra.extractLsb' 0 4) (rb.extractLsb' 0 4))
  else if fn = 0x3#6 then optIf (md = 0 ∧ ra.getLsbD 4 = false ∧ rb.getLsbD 4 = false) (.cmpaltu t rd (ra.extractLsb' 0 4) (rb.extractLsb' 0 4))
  else none

/-- R320: ADDA and SUBA. -/
def decodeAddai (t : ThreadId) (rd ra : BitVec 5) (f : BitVec 2) (imm : BitVec 14) : Option Instr :=
  if f = 0x0#2 then optIf (rd.getLsbD 4 = false ∧ ra.getLsbD 4 = false) (.adda t (rd.extractLsb' 0 4) (ra.extractLsb' 0 4) imm)
  else if f = 0x1#2 then optIf (rd.getLsbD 4 = false ∧ ra.getLsbD 4 = false) (.suba t (rd.extractLsb' 0 4) (ra.extractLsb' 0 4) imm)
  else none

/-- R321: the ALUI group. -/
def decodeAlui (t : ThreadId) (rd ra : BitVec 5) (f : BitVec 2) (imm : BitVec 14) : Option Instr :=
  if f = 0x0#2 then some (.addi t rd ra imm)
  else if f = 0x1#2 then some (.andi t rd ra imm)
  else if f = 0x2#2 then some (.ori t rd ra imm)
  else if f = 3#2 then optIf (ra = 0) (.li t rd imm)
  else none

/-- R321: the SHI group. -/
def decodeShi (t : ThreadId) (rd ra : BitVec 5) (f : BitVec 2) (imm : BitVec 14) : Option Instr :=
  if f = 0x0#2 then optIf (imm.extractLsb' 6 8 = 0) (.shli t rd ra (imm.extractLsb' 0 6))
  else if f = 0x1#2 then optIf (imm.extractLsb' 6 8 = 0) (.shri t rd ra (imm.extractLsb' 0 6))
  else if f = 0x2#2 then optIf (imm.extractLsb' 6 8 = 0) (.srai t rd ra (imm.extractLsb' 0 6))
  else if f = 0x3#2 then optIf (imm.extractLsb' 6 8 = 0) (.rotli t rd ra (imm.extractLsb' 0 6))
  else none

/-- R321: the CMPI group. -/
def decodeCmpi (t : ThreadId) (rd ra : BitVec 5) (f : BitVec 2) (imm : BitVec 14) : Option Instr :=
  if f = 0x0#2 then some (.cmpeqi t rd ra imm)
  else if f = 0x1#2 then some (.cmplti t rd ra imm)
  else if f = 0x2#2 then some (.cmpltui t rd ra imm)
  else none

/-- R322: SZ is defined, and an access of 32 bytes names a V register. -/
def sizeOk (rt : BitVec 5) (sz : BitVec 3) : Bool := decide (sz ≤ 4) && (sz != 4 || rt.extractLsb' 3 2 == 0)

/-- R327: the SYS group. -/
def decodeSys (t : ThreadId) (rd ra : BitVec 5) (s8 fn : BitVec 8) : Option Instr :=
  if fn = 0x0#8 then optIf (rd = 0 ∧ ra = 0 ∧ s8 = 0) (.nop t)
  else if fn = 0x1#8 then optIf (ra = 0 ∧ s8 ≤ 8) (.mfs t rd s8)
  else if fn = 0x2#8 then optIf (rd = 0 ∧ s8 ≤ 7) (.mts t ra s8)
  else if fn = 0x8#8 then optIf (ra = 0 ∧ s8.extractLsb' 0 5 = 0) (.wfe t rd (s8.extractLsb' 5 3))
  else if fn = 0x9#8 then optIf (s8.extractLsb' 0 5 = 0) (.wtu t rd ra (s8.extractLsb' 5 3))
  else if fn = 0xa#8 then optIf (rd = 0) (.sev t ra s8)
  else if fn = 0x10#8 then optIf (rd = 0 ∧ ra = 0) (.callg t s8)
  else if fn = 0x11#8 then optIf (rd = 0 ∧ ra = 0 ∧ s8 = 0) (.retx t)
  else if fn = 0x18#8 then optIf (rd = 0 ∧ ra = 0 ∧ s8 = 0) (.fence t)
  else none

/-- R325: the branch group. -/
def decodeBr (t : ThreadId) (opc : BitVec 6) (rc : BitVec 5) (disp : BitVec 21) : Option Instr :=
  if opc = 0x18#6 then some (.beqz t rc disp)
  else if opc = 0x19#6 then some (.bnez t rc disp)
  else if opc = 0x1a#6 then some (.bltz t rc disp)
  else if opc = 0x1b#6 then some (.bgez t rc disp)
  else if opc = 0x1c#6 then optIf (rc = 0) (.bra t disp)
  else if opc = 0x1d#6 then some (.bal t rc disp)
  else if opc = 0x1e#6 then optIf (rc = 0 ∧ disp.extractLsb' 0 17 = 0) (.ja t (disp.extractLsb' 17 4))
  else if opc = 0x1f#6 then optIf (disp.extractLsb' 0 17 = 0) (.jal t rc (disp.extractLsb' 17 4))
  else none

/-- R322, R324: the AM group. -/
def decodeAm (t : ThreadId) (opc : BitVec 6) (rt : BitVec 5) (ab : BitVec 4) (sz : BitVec 3) (disp : BitVec 14) : Option Instr :=
  if opc = 0x10#6 then optIf (sizeOk rt sz) (.ld t rt ab sz disp)
  else if opc = 0x11#6 then optIf (sz ≤ 2) (.lds t rt ab sz disp)
  else if opc = 0x12#6 then optIf (sizeOk rt sz) (.st t rt ab sz disp)
  else if opc = 0x13#6 then optIf (sz = 0 ∧ disp = 0) (.slaunch t rt ab)
  else none

/-- R310: the instruction of a word, or none where R308 makes the word illegal by its own bits. -/
def decode (t : ThreadId) (x : BitVec 32) : Option Instr :=
  let opc := x.extractLsb' 26 6
  let rd := x.extractLsb' 21 5
  let ra := x.extractLsb' 16 5
  let rb := x.extractLsb' 11 5
  let md := x.extractLsb' 6 5
  let fn := x.extractLsb' 0 6
  let w := x.extractLsb' 9 2
  let f := x.extractLsb' 14 2
  let imm := x.extractLsb' 0 14
  if opc = 0x01#6 then decodeInt t w (x.getLsbD 8) (x.getLsbD 7) (x.extractLsb' 6 1) rd ra rb fn
  else if opc = 0x02#6 then
    (if fn = 0x18#6 then decodeXmov t x
     else decodeMul t w (x.getLsbD 8) (x.getLsbD 7) (x.extractLsb' 6 1) rd ra rb fn)
  else if opc = 0x03#6 then decodeFp t w (x.extractLsb' 7 2) (x.getLsbD 6) (x.extractLsb' 6 3) rd ra rb fn
  else if opc = 0x04#6 then decodeFma t (x.extractLsb' 0 2) (x.extractLsb' 2 2) (x.extractLsb' 4 2) rd ra rb md
  else if opc = 0x05#6 then decodeBcd t rd ra rb md fn
  else if opc = 0x06#6 then decodeAreg t rd ra rb md fn
  else if opc = 0x08#6 then decodeAlui t rd ra f imm
  else if opc = 0x09#6 then decodeShi t rd ra f imm
  else if opc = 0x0a#6 then decodeCmpi t rd ra f imm
  else if opc = 0x0b#6 then decodeAddai t rd ra f imm
  else if opc = 0x30#6 then decodeSys t rd ra (x.extractLsb' 8 8) (x.extractLsb' 0 8)
  else if 0x18#6 ≤ opc ∧ opc ≤ 0x1f#6 then decodeBr t opc rd (x.extractLsb' 0 21)
  else decodeAm t opc rd (x.extractLsb' 17 4) (x.extractLsb' 14 3) imm

/-! ### What placement rules look at (R301) -/

/-- Branches, CALLG and RETX may not stand in a delay slot. -/
def notInSlot (i : Instr) : Bool :=
  match i with
  | .beqz _ _ _ => true
  | .bnez _ _ _ => true
  | .bltz _ _ _ => true
  | .bgez _ _ _ => true
  | .bra _ _ => true
  | .bal _ _ _ => true
  | .ja _ _ => true
  | .jal _ _ _ => true
  | .callg _ _ => true
  | .retx _ => true
  | _ => false

/-- The D registers that an instruction writes; a V register counts as its four (R289). -/
def writesD (i : Instr) : List (BitVec 5) :=
  match i with
  | .slaunch _ rt _ => [rt]
  | .add _ _ _ _ rd _ _ => [rd]
  | .sub _ _ _ _ rd _ _ => [rd]
  | .neg _ _ _ rd _ => [rd]
  | .abs _ _ _ rd _ => [rd]
  | .and _ _ _ rd _ _ => [rd]
  | .or _ _ _ rd _ _ => [rd]
  | .xor _ _ _ rd _ _ => [rd]
  | .andn _ _ _ rd _ _ => [rd]
  | .not _ _ _ rd _ => [rd]
  | .shl _ _ _ _ rd _ _ => [rd]
  | .shr _ _ _ rd _ _ => [rd]
  | .sra _ _ _ rd _ _ => [rd]
  | .rotl _ _ _ rd _ _ => [rd]
  | .min _ _ _ rd _ _ => [rd]
  | .max _ _ _ rd _ _ => [rd]
  | .cmpeq _ _ rd _ _ => [rd]
  | .cmplt _ _ _ rd _ _ => [rd]
  | .cmple _ _ _ rd _ _ => [rd]
  | .selnz _ _ _ rd _ _ => [rd]
  | .mov _ _ _ rd _ => [rd]
  | .popc _ _ _ rd _ => [rd]
  | .clz _ _ _ rd _ => [rd]
  | .mul _ _ _ _ rd _ _ => [rd]
  | .mulh _ _ _ rd _ _ => [rd]
  | .div _ _ _ _ rd _ _ => [rd]
  | .divr _ _ _ _ rd _ _ => [rd, rd + 1]
  | .xmov _ rd _ _ _ _ _ => [rd]
  | .fadd _ _ rd _ _ => [rd]
  | .fsub _ _ rd _ _ => [rd]
  | .fmul _ _ rd _ _ => [rd]
  | .fdiv _ _ rd _ _ => [rd]
  | .fsqrt _ _ rd _ => [rd]
  | .fmin _ _ rd _ _ => [rd]
  | .fmax _ _ rd _ _ => [rd]
  | .fminm _ _ rd _ _ => [rd]
  | .fmaxm _ _ rd _ _ => [rd]
  | .fabs _ _ rd _ => [rd]
  | .fneg _ _ rd _ => [rd]
  | .fcsgn _ _ rd _ _ => [rd]
  | .frint _ _ rd _ => [rd]
  | .fcmpeq _ _ rd _ _ => [rd]
  | .fcmplt _ _ rd _ _ => [rd]
  | .fcmple _ _ rd _ _ => [rd]
  | .cvtff _ _ _ rd _ => [rd]
  | .cvtfi _ _ _ _ rd _ => [rd]
  | .cvtif _ _ _ _ rd _ => [rd]
  | .fma _ _ rd _ _ _ => [rd]
  | .fms _ _ rd _ _ _ => [rd]
  | .fnma _ _ rd _ _ _ => [rd]
  | .fnms _ _ rd _ _ _ => [rd]
  | .bcdadd _ rd _ _ => [rd]
  | .bcdsub _ rd _ _ => [rd]
  | .movda _ rd _ => [rd]
  | .cmpaeq _ rd _ _ => [rd]
  | .cmpaltu _ rd _ _ => [rd]
  | .addi _ rd _ _ => [rd]
  | .andi _ rd _ _ => [rd]
  | .ori _ rd _ _ => [rd]
  | .li _ rd _ => [rd]
  | .shli _ rd _ _ => [rd]
  | .shri _ rd _ _ => [rd]
  | .srai _ rd _ _ => [rd]
  | .rotli _ rd _ _ => [rd]
  | .cmpeqi _ rd _ _ => [rd]
  | .cmplti _ rd _ _ => [rd]
  | .cmpltui _ rd _ _ => [rd]
  | .ld _ rt _ sz _ => if sz = 4 then [4 * rt, 4 * rt + 1, 4 * rt + 2, 4 * rt + 3] else [rt]
  | .lds _ rt _ sz _ => if sz = 4 then [4 * rt, 4 * rt + 1, 4 * rt + 2, 4 * rt + 3] else [rt]
  | .bal _ rc _ => [rc]
  | .jal _ rc _ => [rc]
  | .mfs _ rd _ => [rd]
  | .wfe _ rd _ => [rd]
  | .wtu _ rd _ _ => [rd]
  | _ => []

/-- The A registers that an instruction writes. -/
def writesA (i : Instr) : List (BitVec 4) :=
  match i with
  | .movad _ ad _ => [ad]
  | .adda _ ad _ _ => [ad]
  | .suba _ ad _ _ => [ad]
  | _ => []

end Sys2Proof.Machine
end

