-- ==== Sys2Proof/Machine/Bits.lean ====
section
/-!
DEFINITION. Bit fields, sign extension and byte order: the helpers every meaning shares. All multi-byte quantities are
little-endian (R7).
-/

namespace Sys2Proof.Machine

/-- Bits `lo + width - 1 : lo` of `v`. -/
def field (v lo width : Nat) : Nat := v / 2 ^ lo % 2 ^ width

/-- Bit `i` of `v`. -/
def bitOf (v i : Nat) : Bool := v / 2 ^ i % 2 == 1

/-- `v` with bits `lo + width - 1 : lo` replaced by `x mod 2 ^ width`. -/
def setField (v lo width x : Nat) : Nat :=
  v - field v lo width * 2 ^ lo + x % 2 ^ width * 2 ^ lo

/-- A flag as a number. -/
def b2n (b : Bool) : Nat := if b then 1 else 0

/-- The low `w` bits of `v` as a two's complement number. -/
def toSigned (w v : Nat) : Int :=
  let u := v % 2 ^ w
  if w = 0 then 0 else if u < 2 ^ (w - 1) then (u : Int) else (u : Int) - 2 ^ w

/-- The low `w` bits of `v` read as signed or unsigned. -/
def toInt (signed : Bool) (w v : Nat) : Int :=
  if signed then toSigned w v else ((v % 2 ^ w : Nat) : Int)

/-- `x` modulo 2 ^ w. -/
def wrapNat (w : Nat) (x : Int) : Nat := (x % (2 ^ w : Int)).toNat

/-- The little-endian value of a list of bytes. -/
def leNat (bs : List Byte) : Nat :=
  match bs with
  | [] => 0
  | b :: rest => b.toNat + 256 * leNat rest

/-- The `n` low bytes of `v`, lowest first. -/
def leBytes (n v : Nat) : List Byte :=
  match n with
  | 0 => []
  | n + 1 => BitVec.ofNat 8 v :: leBytes n (v / 256)

/-- The big-endian value of a list of bytes. -/
def beNat (bs : List Byte) : Nat := bs.foldl (fun acc b => 256 * acc + b.toNat) 0

/-- The `n` low bytes of `v`, highest first. -/
def beBytes (n v : Nat) : List Byte := (leBytes n v).reverse

/-- `n` bytes of the list from position `off`. -/
def slice (bs : List Byte) (off n : Nat) : List Byte := (bs.drop off).take n

/-- The little-endian number in `n` bytes from position `off`. -/
def leAt (bs : List Byte) (off n : Nat) : Nat := leNat (slice bs off n)

/-- Element `i` of a list, or `d` beyond its end. -/
def nth {α : Type} (d : α) (l : List α) (i : Nat) : α := (l.drop i).headD d

/-- R362, R366: the one crossing E with E mod 2^w = t and b + 15 - (2^w - 1) <= E <= b + 15, modulo 2^64. -/
def extendTag (w b t : Nat) : Nat :=
  wrapNat 64 ((b : Int) + 15 - ((b : Int) + 15 - (t : Int)) % (2 ^ w : Int))

/-- How far crossing `a` lies ahead of crossing `b`; counters wrap at 2^64. -/
def crossingDiff (a b : Nat) : Int := toSigned 64 (wrapNat 64 ((a : Int) - (b : Int)))

/-- The number of ones in the low `w` bits of `v`. -/
def popCount (w v : Nat) : Nat := ((List.range w).filter (bitOf v)).length

/-- The number of bits needed for `v`: 0 for 0, otherwise floor(log2 v) + 1. -/
def bitLen (v : Nat) : Nat := if v = 0 then 0 else Nat.log2 v + 1

/-- `v` counted up by `n`, stopping at the maximum of `width` bits. -/
def satAdd (width v n : Nat) : Nat := if v + n < 2 ^ width then v + n else 2 ^ width - 1

end Sys2Proof.Machine
end

