-- ==== Sys2Proof/Machine/Flags.lean ====
section
/-!
DEFINITION. The arithmetic flags (R172, R180), the rounding modes of R85 and the fields of TS (R290, R172).
-/

namespace Sys2Proof.Machine

/-- A set of flags in FLAGS order: bit 0 invalid, 1 division by zero, 2 overflow, 3 underflow, 4 inexact,
5 integer saturation. -/
abbrev Flags := BitVec 6

/-- Invalid (V). -/
def flagV : Flags := 1
/-- Division by zero (Z). -/
def flagZ : Flags := 2
/-- Overflow (O). -/
def flagO : Flags := 4
/-- Underflow (U). -/
def flagU : Flags := 8
/-- Inexact (X). -/
def flagX : Flags := 16
/-- Integer saturation (Q). -/
def flagQ : Flags := 32

/-- `f` when `c` holds, otherwise no flag. -/
def flagIf (c : Bool) (f : Flags) : Flags := if c then f else 0

/-- The five rounding modes of R85. -/
inductive Rounding where
  | tiesEven
  | towardZero
  | towardPositive
  | towardNegative
  | tiesAway
  deriving DecidableEq, Repr

/-- R85: the mode of an RND or TS.RM code; reserved codes never reach an operation (R89, R173). -/
def Rounding.ofCode (c : Nat) : Rounding :=
  if c = 1 then .towardZero else if c = 2 then .towardPositive else if c = 3 then .towardNegative
  else if c = 4 then .tiesAway else .tiesEven

/-- Whether magnitude `r` of sign `neg` rounds away from zero, when the discarded part compares with one half as
`vsHalf` says and is nonzero when `inexact` holds. -/
def Rounding.up (rm : Rounding) (neg : Bool) (r : Nat) (vsHalf : Ordering) (inexact : Bool) : Bool :=
  match rm with
  | .tiesEven => vsHalf == .gt || (vsHalf == .eq && r % 2 == 1)
  | .towardZero => false
  | .towardPositive => inexact && !neg
  | .towardNegative => inexact && neg
  | .tiesAway => vsHalf != .lt

/-! ### The fields of TS -/

/-- TS.RING (R290). -/
def tsRing (ts : Word) : Nat := field ts.toNat 0 2
/-- TS.GM (R290). -/
def tsGM (ts : Word) : Bool := bitOf ts.toNat 2
/-- TS.RM (R172). -/
def tsRM (ts : Word) : Rounding := Rounding.ofCode (field ts.toNat 16 4)
/-- TS.FLG (R172). -/
def tsFlg (ts : Word) : Flags := BitVec.extractLsb' 20 6 ts
/-- TS.TEN (R172). -/
def tsTen (ts : Word) : Flags := BitVec.extractLsb' 26 6 ts

/-- R180: `ts` with flags ORed into TS.FLG. -/
def tsOrFlags (ts : Word) (f : Flags) : Word := ts ||| (f.zeroExtend 64 <<< 20)

/-- R290: a reserved bit of TS is set. -/
def tsReserved (ts : Word) : Bool := field ts.toNat 3 13 != 0 || field ts.toNat 32 32 != 0

/-- R173: RM holds 0x5 to 0xF. -/
def tsRmReserved (ts : Word) : Bool := decide (4 < field ts.toNat 16 4)

/-- R181: a raised flag whose trap is enabled. -/
def traps (ts : Word) (f : Flags) : Bool := (f &&& tsTen ts) != 0

end Sys2Proof.Machine
end

