-- ==== Sys2Proof/Machine/Fp.lean ====
section
/-!
DEFINITION. The one floating-point arithmetic of lanes and cores: binary16, binary32 and binary64 under R166 to R183.
Operands and results are bit patterns of the format's width; every rounded result rounds the exact value once.
-/

namespace Sys2Proof.Machine

/-- An IEEE 754 format by the widths of its exponent and fraction fields. -/
structure FpFmt where
  eb : Nat
  fb : Nat
  deriving DecidableEq, Repr

/-- binary16. -/
def fp16 : FpFmt := ⟨5, 10⟩
/-- binary32. -/
def fp32 : FpFmt := ⟨8, 23⟩
/-- binary64. -/
def fp64 : FpFmt := ⟨11, 52⟩

/-- The format of a width of 16, 32 or 64 bits. -/
def fpOfWidth (w : Nat) : FpFmt := if w = 16 then fp16 else if w = 32 then fp32 else fp64

/-- Width of the format. -/
def FpFmt.width (f : FpFmt) : Nat := 1 + f.eb + f.fb
/-- Exponent bias. -/
def FpFmt.bias (f : FpFmt) : Nat := 2 ^ (f.eb - 1) - 1
/-- The exponent field of infinities and NaNs. -/
def FpFmt.emax (f : FpFmt) : Nat := 2 ^ f.eb - 1
/-- The pattern of sign, exponent field and fraction. -/
def FpFmt.pack (f : FpFmt) (neg : Bool) (e frac : Nat) : Nat :=
  b2n neg * 2 ^ (f.eb + f.fb) + e * 2 ^ f.fb + frac
/-- Infinity. -/
def FpFmt.inf (f : FpFmt) (neg : Bool) : Nat := f.pack neg f.emax 0
/-- R170: the default NaN. -/
def FpFmt.defaultNaN (f : FpFmt) : Nat := f.pack false f.emax (2 ^ (f.fb - 1))
/-- R170: the largest finite value, M. -/
def FpFmt.largest (f : FpFmt) (neg : Bool) : Nat := f.pack neg (f.emax - 1) (2 ^ f.fb - 1)
/-- A zero. -/
def FpFmt.zero (f : FpFmt) (neg : Bool) : Nat := f.pack neg 0 0

/-- A value read from a pattern: a NaN, an infinity, or the finite number ± m × 2^e. -/
inductive FpVal where
  | nan (signalling : Bool)
  | inf (neg : Bool)
  | fin (neg : Bool) (m : Nat) (e : Int)
  deriving DecidableEq, Repr

/-- The value of a pattern. -/
def FpFmt.unpack (f : FpFmt) (v : Nat) : FpVal :=
  let neg := bitOf v (f.eb + f.fb)
  let e := field v f.fb f.eb
  let frac := v % 2 ^ f.fb
  if e = f.emax then
    (if frac = 0 then .inf neg else .nan (!bitOf v (f.fb - 1)))
  else if e = 0 then .fin neg frac (1 - (f.bias : Int) - f.fb)
  else .fin neg (2 ^ f.fb + frac) ((e : Int) - f.bias - f.fb)

/-- Whether the pattern is a NaN. -/
def FpFmt.isNaN (f : FpFmt) (v : Nat) : Bool :=
  match f.unpack v with
  | .nan _ => true
  | _ => false

/-- Whether the pattern is a signalling NaN. -/
def FpFmt.isSNaN (f : FpFmt) (v : Nat) : Bool :=
  match f.unpack v with
  | .nan s => s
  | _ => false

/-- R177: a NaN with its quiet bit set. -/
def FpFmt.quiet (f : FpFmt) (v : Nat) : Nat := setField v (f.fb - 1) 1 1

/-- `m × 2^e` (plus a nonzero part below when `sticky`) rounded to a multiple of 2^q: the multiple and whether it is
inexact. -/
def roundAt (rm : Rounding) (neg : Bool) (m : Nat) (e q : Int) (sticky : Bool) : Nat × Bool :=
  if q ≤ e then (m * 2 ^ (e - q).toNat, sticky)
  else
    let sh := (q - e).toNat
    let r := m / 2 ^ sh
    let rem := m % 2 ^ sh
    let inexact := rem != 0 || sticky
    let vsHalf : Ordering :=
      if 2 * rem < 2 ^ sh then .lt else if 2 * rem = 2 ^ sh && !sticky then .eq else .gt
    (if rm.up neg r vsHalf inexact then r + 1 else r, inexact)

/-- R183: overflow of sign `neg`: the infinity or the largest value, by mode. -/
def FpFmt.overflow (f : FpFmt) (rm : Rounding) (neg : Bool) : Nat :=
  match rm with
  | .towardZero => f.largest neg
  | .towardPositive => if neg then f.largest neg else f.inf neg
  | .towardNegative => if neg then f.inf neg else f.largest neg
  | _ => f.inf neg

/-- R171, R175, R180: the exact value ± m × 2^e (plus a nonzero part below when `sticky`), m nonzero, rounded once.
Choices: log entry 60. -/
def FpFmt.round (f : FpFmt) (rm : Rounding) (neg : Bool) (m : Nat) (e : Int) (sticky : Bool) : Nat × Flags :=
  let p := f.fb + 1
  let qFree := e + bitLen m - p
  let qMin := 1 - (f.bias : Int) - f.fb
  let free := (roundAt rm neg m e qFree sticky).1
  let tiny := decide ((bitLen free : Int) - 1 + qFree < 1 - (f.bias : Int))
  let q := max qFree qMin
  let r := roundAt rm neg m e q sticky
  let (n, q) := if bitLen r.1 = p + 1 then (r.1 / 2, q + 1) else (r.1, q)
  if (f.bias : Int) < (bitLen n : Int) - 1 + q then (f.overflow rm neg, flagO ||| flagX)
  else
    let flags := flagIf r.2 flagX ||| flagIf (tiny && r.2) flagU
    if n < 2 ^ f.fb then (f.pack neg 0 n, flags)
    else (f.pack neg (q + f.fb + f.bias).toNat (n - 2 ^ f.fb), flags)

/-- R177: the first NaN of the operands, quieted, with V when any is signalling. -/
def FpFmt.propagate (f : FpFmt) (ops : List Nat) : Option (Nat × Flags) :=
  match ops.find? f.isNaN with
  | some n => some (f.quiet n, flagIf (ops.any f.isSNaN) flagV)
  | none => none

/-- R178: an invalid operation on operands that are no NaNs. -/
def FpFmt.invalid (f : FpFmt) : Nat × Flags := (f.defaultNaN, flagV)

/-- R176: the sum of two finite numbers. -/
def FpFmt.sumFin (f : FpFmt) (rm : Rounding) (na : Bool) (ma : Nat) (ea : Int) (nb : Bool) (mb : Nat) (eb : Int) :
    Nat × Flags :=
  if ma = 0 ∧ mb = 0 then
    (f.zero (if na = nb then na else rm == .towardNegative), 0)
  else
    let e := min ea eb
    let a : Int := ma * 2 ^ (ea - e).toNat
    let b : Int := mb * 2 ^ (eb - e).toNat
    let t : Int := (if na then -a else a) + (if nb then -b else b)
    if t = 0 then (f.zero (rm == .towardNegative), 0)
    else f.round rm (decide (t < 0)) t.natAbs e false

/-- a + b. -/
def FpFmt.add (f : FpFmt) (rm : Rounding) (a b : Nat) : Nat × Flags :=
  match f.propagate [a, b] with
  | some r => r
  | none =>
    match f.unpack a, f.unpack b with
    | .inf na, .inf nb => if na = nb then (f.inf na, 0) else f.invalid
    | .inf na, _ => (f.inf na, 0)
    | _, .inf nb => (f.inf nb, 0)
    | .fin na ma ea, .fin nb mb eb => f.sumFin rm na ma ea nb mb eb
    | _, _ => f.invalid

/-- The pattern with its sign inverted. -/
def FpFmt.neg (f : FpFmt) (v : Nat) : Nat :=
  setField v (f.eb + f.fb) 1 (1 - field v (f.eb + f.fb) 1)

/-- a − b: a NaN operand keeps its own sign (R177). -/
def FpFmt.sub (f : FpFmt) (rm : Rounding) (a b : Nat) : Nat × Flags :=
  match f.propagate [a, b] with
  | some r => r
  | none => f.add rm a (f.neg b)

/-- ± (a × b) ± c with one rounding (R144, R318); `np` negates the product and `nc` the addend. -/
def FpFmt.fma (f : FpFmt) (rm : Rounding) (np nc : Bool) (a b c : Nat) : Nat × Flags :=
  match f.propagate [a, b, c] with
  | some r => r
  | none =>
    match f.unpack a, f.unpack b, f.unpack c with
    | .fin na ma ea, .fin nb mb eb, .fin ncs mc ec =>
      f.sumFin rm ((na != nb) != np) (ma * mb) (ea + eb) (ncs != nc) mc ec
    | .fin _ _ _, .fin _ _ _, .inf s => (f.inf (s != nc), 0)
    | ua, ub, uc =>
      let sgn (u : FpVal) : Bool :=
        match u with
        | .inf s => s
        | .fin s _ _ => s
        | .nan _ => false
      let isZero (u : FpVal) : Bool :=
        match u with
        | .fin _ 0 _ => true
        | _ => false
      if isZero ua || isZero ub then f.invalid
      else
        let ps := (sgn ua != sgn ub) != np
        match uc with
        | .inf s => if (s != nc) = ps then (f.inf ps, 0) else f.invalid
        | _ => (f.inf ps, 0)

/-- a × b. -/
def FpFmt.mul (f : FpFmt) (rm : Rounding) (a b : Nat) : Nat × Flags :=
  match f.propagate [a, b] with
  | some r => r
  | none =>
    match f.unpack a, f.unpack b with
    | .fin na ma ea, .fin nb mb eb =>
      if ma * mb = 0 then (f.zero (na != nb), 0) else f.round rm (na != nb) (ma * mb) (ea + eb) false
    | .fin na ma _, .inf nb => if ma = 0 then f.invalid else (f.inf (na != nb), 0)
    | .inf na, .fin nb mb _ => if mb = 0 then f.invalid else (f.inf (na != nb), 0)
    | .inf na, .inf nb => (f.inf (na != nb), 0)
    | _, _ => f.invalid

/-- a / b (core only): a finite nonzero dividend over zero gives infinity and Z. -/
def FpFmt.div (f : FpFmt) (rm : Rounding) (a b : Nat) : Nat × Flags :=
  match f.propagate [a, b] with
  | some r => r
  | none =>
    match f.unpack a, f.unpack b with
    | .fin na ma ea, .fin nb mb eb =>
      if mb = 0 then (if ma = 0 then f.invalid else (f.inf (na != nb), flagZ))
      else if ma = 0 then (f.zero (na != nb), 0)
      else
        let k := f.fb + 3 + bitLen mb
        let n := ma * 2 ^ k
        f.round rm (na != nb) (n / mb) (ea - eb - k) (n % mb != 0)
    | .fin na _ _, .inf nb => (f.zero (na != nb), 0)
    | .inf na, .fin nb _ _ => (f.inf (na != nb), 0)
    | _, _ => f.invalid

/-- One bit of the integer square root: `r` is the root of the bits above, tried with bit `2 ^ i`. -/
def sqrtBits (n : Nat) : Nat → Nat → Nat
  | 0, r => r
  | i + 1, r => if (r + 2 ^ i) * (r + 2 ^ i) ≤ n then sqrtBits n i (r + 2 ^ i) else sqrtBits n i r

/-- The floor of the square root. -/
def isqrt (n : Nat) : Nat := sqrtBits n (bitLen n / 2 + 1) 0

/-- The square root of a (core only). -/
def FpFmt.sqrt (f : FpFmt) (rm : Rounding) (a : Nat) : Nat × Flags :=
  match f.propagate [a] with
  | some r => r
  | none =>
    match f.unpack a with
    | .fin neg m e =>
      if m = 0 then (f.zero neg, 0)
      else if neg then f.invalid
      else
        let k := 2 * (f.fb + 4) + (if e % 2 = 0 then 0 else 1)
        let n := m * 2 ^ k
        f.round rm false (isqrt n) ((e - k) / 2) (isqrt n * isqrt n != n)
    | .inf false => (f.inf false, 0)
    | _ => f.invalid

/-- The order of two patterns that are no NaNs; −0 equals +0. -/
def FpFmt.cmp (f : FpFmt) (a b : Nat) : Ordering :=
  match f.unpack a, f.unpack b with
  | .inf true, .inf true => .eq
  | .inf false, .inf false => .eq
  | .inf true, _ => .lt
  | _, .inf true => .gt
  | .inf false, _ => .gt
  | _, .inf false => .lt
  | .fin na ma ea, .fin nb mb eb =>
    let e := min ea eb
    let x : Int := ma * 2 ^ (ea - e).toNat
    let y : Int := mb * 2 ^ (eb - e).toNat
    compare (if na then -x else x) (if nb then -y else y)
  | _, _ => .eq

/-- Whether a is below b with −0 below +0 (R144, R151). -/
def FpFmt.totalLt (f : FpFmt) (a b : Nat) : Bool :=
  match f.cmp a b with
  | .lt => true
  | .gt => false
  | .eq => bitOf a (f.eb + f.fb) && !bitOf b (f.eb + f.fb)

/-- R144: minimum or maximum of two patterns; `number` selects minimumNumber and maximumNumber, which prefer a number
to a NaN. -/
def FpFmt.minMax (f : FpFmt) (wantMax number : Bool) (a b : Nat) : Nat × Flags :=
  let v := flagIf (f.isSNaN a || f.isSNaN b) flagV
  let pick := if wantMax then (if f.totalLt a b then b else a) else (if f.totalLt b a then b else a)
  match f.isNaN a, f.isNaN b with
  | false, false => (pick, 0)
  | true, false => if number then (b, v) else (f.quiet a, v)
  | false, true => if number then (a, v) else (f.quiet b, v)
  | true, true => (f.quiet a, v)

/-- The pattern with its sign cleared. -/
def FpFmt.abs (f : FpFmt) (v : Nat) : Nat := setField v (f.eb + f.fb) 1 0

/-- R144: the magnitude of a with the sign of b. -/
def FpFmt.copySign (f : FpFmt) (a b : Nat) : Nat := setField a (f.eb + f.fb) 1 (field b (f.eb + f.fb) 1)

/-- R144: roundToIntegralExact. -/
def FpFmt.rint (f : FpFmt) (rm : Rounding) (a : Nat) : Nat × Flags :=
  match f.propagate [a] with
  | some r => r
  | none =>
    match f.unpack a with
    | .fin neg m e =>
      if m = 0 then (a, 0)
      else
        let r := roundAt rm neg m e 0 false
        if e ≥ 0 then (a, 0)
        else if r.1 = 0 then (f.zero neg, flagIf r.2 flagX)
        else ((f.round rm neg r.1 0 false).1, flagIf r.2 flagX)
    | _ => (a, 0)

/-- The four comparisons the codes build on (R147, R316). -/
inductive FpCmp where
  | eq
  | lt
  | le
  deriving DecidableEq, Repr

/-- R147: a comparison is false on a NaN; equality raises V on a signalling NaN only, the others on any NaN. -/
def FpFmt.compare (f : FpFmt) (c : FpCmp) (a b : Nat) : Bool × Flags :=
  if f.isNaN a || f.isNaN b then
    (false, flagIf (c != .eq || f.isSNaN a || f.isSNaN b) flagV)
  else
    match c with
    | .eq => (f.cmp a b == .eq, 0)
    | .lt => (f.cmp a b == .lt, 0)
    | .le => (f.cmp a b != .gt, 0)

/-- R179: conversion between floating-point widths. -/
def fpConvert (src dst : FpFmt) (rm : Rounding) (a : Nat) : Nat × Flags :=
  match src.unpack a with
  | .nan s =>
    let frac := a % 2 ^ src.fb
    let frac' := if src.fb ≤ dst.fb then frac * 2 ^ (dst.fb - src.fb) else frac / 2 ^ (src.fb - dst.fb)
    (dst.quiet (dst.pack (bitOf a (src.eb + src.fb)) dst.emax frac'), flagIf s flagV)
  | .inf neg => (dst.inf neg, 0)
  | .fin neg m e => if m = 0 then (dst.zero neg, 0) else dst.round rm neg m e false

/-- Limits of an integer type of `w` bits (R167). -/
def intMin (signed : Bool) (w : Nat) : Int := if signed then -(2 ^ (w - 1) : Int) else 0
/-- Limits of an integer type of `w` bits (R167). -/
def intMax (signed : Bool) (w : Nat) : Int := if signed then 2 ^ (w - 1) - 1 else 2 ^ w - 1

/-- R146: conversion to an integer of `w` bits. -/
def fpToInt (f : FpFmt) (rm : Rounding) (signed : Bool) (w : Nat) (a : Nat) : Int × Flags :=
  match f.unpack a with
  | .nan _ => (0, flagV)
  | .inf neg => (if neg then intMin signed w else intMax signed w, flagV)
  | .fin neg m e =>
    let r := roundAt rm neg m e 0 false
    let x : Int := if neg then -(r.1 : Int) else r.1
    if x < intMin signed w then (intMin signed w, flagV)
    else if intMax signed w < x then (intMax signed w, flagV)
    else (x, flagIf r.2 flagX)

/-- Conversion of an integer, rounded once. -/
def intToFp (f : FpFmt) (rm : Rounding) (x : Int) : Nat × Flags :=
  if x = 0 then (f.zero false, 0) else f.round rm (decide (x < 0)) x.natAbs 0 false

end Sys2Proof.Machine
end

