-- ==== Sys2Proof/Machine/Arith.lean ====
section
/-!
DEFINITION. The one integer arithmetic of lanes and cores (R139, R141, R142, R167 to R169) and packed decimal (R184,
R185). Operands are the low `w` bits of the pattern given; results are patterns of `w` bits.
-/

namespace Sys2Proof.Machine

/-- R139: an exact result reduced to `w` bits: wrapped, or clamped with Q when the clamp changes it. -/
def reduce (sat signed : Bool) (w : Nat) (x : Int) : Nat × Flags :=
  if sat then
    let y := max (intMin signed w) (min (intMax signed w) x)
    (wrapNat w y, flagIf (y != x) flagQ)
  else (wrapNat w x, 0)

/-- The two-operand integer operations that lanes and cores share (R141, R312). -/
inductive IntOp where
  | add
  | sub
  | neg
  | abs
  | absDiff
  | avg
  | and
  | or
  | xor
  | andn
  | not
  | shl
  | shr
  | sra
  | rotl
  | mul
  | mulh
  | min
  | max
  | selnz
  deriving DecidableEq, Repr

/-- R142: SHL loses a bit that differs from the result's sign (signed) or any 1 bit (unsigned) exactly when the exact
product by a power of two leaves the range; the clamp takes the sign of the operand. -/
def shiftLeft (sat signed : Bool) (w a sh : Nat) : Nat × Flags :=
  reduce sat signed w (toInt signed w a * 2 ^ sh)

/-- R141, R312: the result at width `w` and its flags. `b` is read whole by shifts and rotates (R312). -/
def IntOp.eval (op : IntOp) (sat signed : Bool) (w a b : Nat) : Nat × Flags :=
  let x := toInt signed w a
  let y := toInt signed w b
  let ua := a % 2 ^ w
  let ub := b % 2 ^ w
  let sh := b % w
  match op with
  | .add => reduce sat signed w (x + y)
  | .sub => reduce sat signed w (x - y)
  | .neg => reduce sat signed w (-x)
  | .abs => reduce sat signed w (x.natAbs : Int)
  | .absDiff => reduce sat signed w ((x - y).natAbs : Int)
  | .avg => (wrapNat w ((x + y) / 2), 0)
  | .and => (ua &&& ub, 0)
  | .or => (ua ||| ub, 0)
  | .xor => (ua ^^^ ub, 0)
  | .andn => (ua &&& (2 ^ w - 1 - ub), 0)
  | .not => (2 ^ w - 1 - ua, 0)
  | .shl => shiftLeft sat signed w a sh
  | .shr => (ua / 2 ^ sh, 0)
  | .sra => (wrapNat w (toSigned w a / 2 ^ sh), 0)
  | .rotl => ((ua * 2 ^ sh) % 2 ^ w + ua / 2 ^ (w - sh), 0)
  | .mul => reduce sat signed w (x * y)
  | .mulh => (wrapNat w (x * y / 2 ^ w), 0)
  | .min => (if x ≤ y then ua else ub, 0)
  | .max => (if x ≤ y then ub else ua, 0)
  | .selnz => (if ua ≠ 0 then ua else ub, 0)

/-- The integer comparisons (R147, R312). -/
def intCompare (c : FpCmp) (signed : Bool) (w a b : Nat) : Bool :=
  match c with
  | .eq => a % 2 ^ w == b % 2 ^ w
  | .lt => decide (toInt signed w a < toInt signed w b)
  | .le => decide (toInt signed w a ≤ toInt signed w b)

/-- The number of leading zeros of the low `w` bits. -/
def leadingZeros (w v : Nat) : Nat := w - bitLen (v % 2 ^ w)

/-- R168: quotient, remainder and flags of an integer division at width `w`. -/
def divide (sat signed : Bool) (w a b : Nat) : Nat × Nat × Flags :=
  let x := toInt signed w a
  let y := toInt signed w b
  if y = 0 then (0, a % 2 ^ w, flagZ)
  else
    let q := reduce sat signed w (x.tdiv y)
    (q.1, wrapNat w (x.tmod y), q.2)

/-- R169: the accumulator `acc` (128 bits, signed) shifted right by `sh`, rounded, and reduced to `w` bits. -/
def xmovValue (rm : Rounding) (sat signed : Bool) (w acc sh : Nat) : Nat × Flags :=
  let x := toSigned 128 acc
  let r := roundAt rm (decide (x < 0)) x.natAbs 0 sh false
  reduce sat signed w (if x < 0 then -(r.1 : Int) else r.1)

/-- Extension of a `w`-bit result to 64 bits (R311). -/
def extend (signed : Bool) (w v : Nat) : Word := BitVec.ofInt 64 (toInt signed w v)

/-- A comparison result: all ones or zero (R312). -/
def boolWord (b : Bool) : Word := if b then BitVec.allOnes 64 else 0

/-- R184: every nibble of the 16 is a decimal digit. -/
def bcdValid (v : Nat) : Bool := (List.range 16).all fun i => decide (field v (4 * i) 4 ≤ 9)

/-- R185: the decimal integer of 16 digits. -/
def bcdNat (v : Nat) : Nat := (List.range 16).foldr (fun i acc => field v (4 * i) 4 + 10 * acc) 0

/-- The 16 digits of a decimal integer. -/
def bcdDigits (n : Nat) : Nat := (List.range 16).foldr (fun i acc => n / 10 ^ i % 10 + 16 * acc) 0

/-- R184, R185: BCDADD (`sub` = false) and BCDSUB. -/
def bcdOp (sub : Bool) (a b : Nat) : Nat × Flags :=
  if bcdValid a && bcdValid b then
    let x := bcdNat a
    let y := bcdNat b
    if sub then (bcdDigits ((x + 10 ^ 16 - y) % 10 ^ 16), flagIf (decide (x < y)) flagO)
    else (bcdDigits ((x + y) % 10 ^ 16), flagIf (decide (10 ^ 16 ≤ x + y)) flagO)
  else (2 ^ 64 - 1, flagV)

end Sys2Proof.Machine
end

