-- ==== Sys2Proof/Machine/Ecc.lean ====
section
/-!
DEFINITION. The (72,64) SEC-DED code of R224, CRC-32C of the lath, links and firmware, and the CRC-16 of the chain.
-/

namespace Sys2Proof.Machine

/-- R224: codeword positions of the 64 data bits, the integers from 3 to 71 that are no power of two. -/
def eccPositions : List Nat :=
  (List.range 72).filter fun p => decide (3 ≤ p) && p != 4 && p != 8 && p != 16 && p != 32 && p != 64

/-- R224: check bits 0 to 6 of a data word: the XOR of the positions of its ones. -/
def eccSyndromeBits (data : Nat) : Nat :=
  ((List.range 64).zip eccPositions).foldl (fun acc ip => if bitOf data ip.1 then acc ^^^ ip.2 else acc) 0

/-- R224: the check byte of a data word. -/
def eccCheck (data : Nat) : Nat :=
  let low := eccSyndromeBits data
  low + 128 * ((popCount 64 data + popCount 7 low) % 2)

/-- R224: what a read finds. -/
inductive EccClass where
  | clean
  | checkBit
  | corrected (pos : Nat)
  | uncorrectable
  deriving DecidableEq, Repr

/-- R224: the class of a stored word from its syndrome and its overall parity. -/
def eccClassify (syndrome : Nat) (odd : Bool) : EccClass :=
  if syndrome = 0 then (if odd then .checkBit else .clean)
  else if odd && decide (syndrome ≤ 71) then .corrected syndrome
  else .uncorrectable

/-- R224: the class of data and check byte as stored. -/
def eccClass (data check : Nat) : EccClass :=
  eccClassify ((check % 128) ^^^ eccSyndromeBits data) ((popCount 64 data + popCount 8 check) % 2 == 1)

/-- The number of a data bit from its codeword position, if that position holds data. -/
def eccDataBit (pos : Nat) : Option Nat := eccPositions.findIdx? (· == pos)

/-- R224: the data a read of class `c` returns from the stored data (an uncorrectable word has none of its own). -/
def eccCorrect (c : EccClass) (data : Nat) : Nat :=
  match c with
  | .corrected pos =>
    match eccDataBit pos with
    | some i => data ^^^ 2 ^ i
    | none => data
  | _ => data

/-- Whether a class counts as a correction. -/
def EccClass.counted (c : EccClass) : Bool :=
  match c with
  | .checkBit => true
  | .corrected _ => true
  | _ => false

/-- One bit step of a reflected CRC with polynomial `poly`. -/
def crcStep (poly v : Nat) : Nat := if v % 2 = 1 then (v / 2) ^^^ poly else v / 2

/-- Eight bit steps. -/
def crcByte (poly v : Nat) (b : Byte) : Nat :=
  (List.range 8).foldl (fun acc _ => crcStep poly acc) (v ^^^ b.toNat)

/-- CRC-32C (reflected polynomial 0x82F63B78, initial and final value all ones). Choices: log entry 60. -/
def crc32c (bs : List Byte) : Nat := (bs.foldl (crcByte 0x82F63B78) 0xFFFFFFFF) ^^^ 0xFFFFFFFF

/-- One bit step of a CRC-16 with polynomial 0x1021, most significant bit first. -/
def crc16Step (v : Nat) : Nat := if 0x8000 ≤ v then ((v * 2) % 65536) ^^^ 0x1021 else v * 2

/-- The CRC-16 of R414: polynomial 0x1021, initial value 0xFFFF, most significant bit first. -/
def crc16 (bs : List Byte) : Nat :=
  bs.foldl (fun acc b => (List.range 8).foldl (fun a _ => crc16Step a) (acc ^^^ (b.toNat * 256))) 0xFFFF

end Sys2Proof.Machine
end

