-- ==== Sys2Proof/Config.lean ====
section
/-!
DEFINITION. The values the spec leaves open. Each is a constant without a body: nothing in Lean can evaluate it, so
whatever is proved holds for every value. `fresh` arguments come from the counter `State.fresh`, which each use
advances (log entries 3 to 8 and 14).
-/

namespace Sys2Proof.Config

/-- R476: the unspecified value of deep-store byte `a` since power-up, entry to IDLE or outage number `epoch`.
It does not change until a master writes the byte. -/
opaque deepByte (epoch a : Nat) : BitVec 8

/-- R103: whether active element `i` above or below the fault of an ORDER = 0 stream was committed. -/
opaque orderZeroCommits (fresh i : Nat) : Bool

/-- R103: whether the engine, having found a fault of an ORDER = 0 stream, ends the stream now or goes on. -/
opaque orderZeroStops (fresh : Nat) : Bool

/-- R103: which of the faults of an ORDER = 0 stream is the lowest one that the engine has found. -/
opaque orderZeroFound (fresh : Nat) : Nat

/-- R100: which of the values that byte `a` had since a stream began its own read for element `i` returns, where the
stream itself has overwritten the byte. -/
opaque overlapVersion (fresh i a : Nat) : Nat

/-- R99: the container of the inactive placeholder that a member with operation code `op` forwards for an element whose
supplied operands are `a` and `b` and whose operation would give `v`; the spec gives it no value, and R138 lets it
depend on nothing else. -/
opaque placeholder (op a b v : Nat) : BitVec 64

/-- R208: microword number `k` of a vendor scalar routine of kind `kind`, and the nano-word issued with it: the vendor
library's content is not in the spec. -/
opaque vendorMicroword (kind k : Nat) : BitVec 32

/-- R192: CIMM of the nano-word issued with that microword. -/
opaque vendorCimm (kind k : Nat) : BitVec 13

/-- R191: the condition latches after that microword: the vendor routine's datapath writes them. -/
opaque vendorLatches (kind k : Nat) (before : BitVec 8) : BitVec 8

/-- R282: byte `k` of what a read returns whose target has left the address map since it entered the matrix. -/
opaque goneByte (fresh k : Nat) : BitVec 8

/-- R225: how many bytes of a window were zeroed when its zeroing was stopped. -/
opaque zeroedBytes (fresh : Nat) : Nat

/-- R449: the nonce of the root block's generator. -/
opaque nonce (fresh : Nat) : BitVec 384

/-- FIPS 186-5 (R428): the per-signature secret number of an ECDSA signature. -/
opaque signatureNonce (fresh : Nat) : Nat

/-- R425: what an abandoned transfer session leaves at byte `off` of its target. -/
opaque abandonedByte (fresh off : Nat) : BitVec 8

/-- R468: the body of a record that the device writes, from the items the rule names: their encoding is open. -/
opaque recordBody (typ : Nat) (items : List Nat) : List (BitVec 8)

/-- R369: byte `k` of the padding of an event-ring record. -/
opaque ringPadding (fresh k : Nat) : BitVec 8

/-- R404: the bunch periods between the two 32-bit reads of a 64-bit read of TMR_BXC. -/
opaque bxcReadGap (fresh : Nat) : BitVec 32

/-- R387: TAG and decision bits of block 0 on a transmit side that has sent no crossing yet. -/
opaque blockZero (fresh : Nat) : BitVec 20

/-- R413, R416: ADDR and TAG of an ENUM request that a module sends downstream. -/
opaque enumHeader : BitVec 8 × BitVec 8

/-- R444: the response STATUS of an action that ends because a fuse position does not verify. -/
opaque fuseFailStatus : BitVec 8

/-- R438, R449: the response STATUS of a CERTSTORE whose certificate is not accepted. -/
opaque refusedCertStatus : BitVec 8

/-- R57: the RESULT, other than success, of a partial re-lath whose ridge does not run with the new content. -/
opaque relathFailed : Fin 255

end Sys2Proof.Config
end

