-- ==== Sys2Proof/Machine/Regs.lean ====
section
/-!
DEFINITION. Every configuration register of the register tables (R9 to R14): fields with their access codes, reset
values, reserved encodings, and what one write or read does to a register's own bits. Fields that repeat other state
are filled in by `Machine/Ops.lean` when read.
-/

namespace Sys2Proof.Machine

/-- The access codes of R10. -/
inductive AccessCode where
  | ro
  | rw
  | wo
  | w1c
  | w1s
  | rc
  deriving DecidableEq, Repr

/-- A field: its lowest and highest bit, its access code and the values that are no reserved encoding. -/
structure Field where
  lo : Nat
  hi : Nat
  acc : AccessCode
  ok : Nat → Bool := fun _ => true

/-- A register: reset value, fields, whether only lath records write it (R30), and the fields, as (lowest, width),
that a reserved combination of values in a new content makes keep their values (R13). -/
structure Reg where
  reset : Nat := 0
  fields : List Field
  lathOnly : Bool := false
  keep : Nat → Nat → List (Nat × Nat) := fun _ _ => []

/-- Width of a field. -/
def Field.width (f : Field) : Nat := f.hi + 1 - f.lo

/-- The bits of a field. -/
def Field.mask (f : Field) : Nat := (2 ^ f.width - 1) * 2 ^ f.lo

/-- The bits of a register that belong to no field. -/
def Reg.reserved (r : Reg) : Nat := r.fields.foldl (fun acc f => acc ^^^ f.mask) (2 ^ 64 - 1)

/-- What a write does: the new content, the bits written to WO fields, and whether it sets CFGERR. -/
structure WriteResult where
  new : Nat
  acts : Nat
  err : Bool
  deriving DecidableEq, Repr

/-- One field of a write of `v` where `mask` marks the bits written; a lath record gives every field of a lath-only
register its value. Choices: log entry 29. -/
def Field.write (f : Field) (whole : Bool) (v mask : Nat) (r : WriteResult) : WriteResult :=
  let acc := if whole && f.acc == .ro then AccessCode.rw else f.acc
  let old := field r.new f.lo f.width
  let m := field mask f.lo f.width
  let x := field v f.lo f.width
  let merged := (old - (old &&& m)) + (x &&& m)
  match acc with
  | .rw => if m = 0 then r else if f.ok merged then { r with new := setField r.new f.lo f.width merged } else { r with err := true }
  | .wo =>
    if x &&& m = 0 then r
    else if f.ok (x &&& m) then { r with acts := setField r.acts f.lo f.width (x &&& m) }
    else { r with err := true }
  | .w1c => { r with new := setField r.new f.lo f.width (old - (old &&& x &&& m)) }
  | .w1s => { r with new := setField r.new f.lo f.width (old ||| (x &&& m)) }
  | .ro => r
  | .rc => r

/-- R10, R12, R13, R30: a write of `v` (bits marked by `mask`) to a register holding `old`. Choices: log entry 29. -/
def Reg.write (r : Reg) (lath : Bool) (old v mask : Nat) : WriteResult :=
  if r.lathOnly && !lath then ⟨old, 0, true⟩
  else
    let start : WriteResult := ⟨old, 0, (v &&& mask &&& r.reserved) != 0⟩
    let w := r.fields.foldl (fun acc f => f.write (r.lathOnly && lath) v mask acc) start
    let kept := r.keep old w.new
    { w with
      new := kept.foldl (fun acc k => setField acc k.1 k.2 (field old k.1 k.2)) w.new
      err := w.err || !kept.isEmpty }

/-- R11: the content after a read that returned the bits of `mask`: its RC fields lose them. -/
def Reg.afterRead (r : Reg) (old mask : Nat) : Nat :=
  r.fields.foldl (fun acc f => if f.acc == .rc then acc - (acc &&& f.mask &&& mask) else acc) old

/-! ### Helpers of the tables -/

/-- A field of access code `acc`. -/
def fld (lo hi : Nat) (acc : AccessCode) : Field := ⟨lo, hi, acc, fun _ => true⟩
/-- A field with reserved encodings. -/
def fldOk (lo hi : Nat) (acc : AccessCode) (ok : Nat → Bool) : Field := ⟨lo, hi, acc, ok⟩
/-- `n` with `base + stride * n = off`, below `count`. -/
def regIndex (base stride count off : Nat) : Option Nat :=
  if base ≤ off ∧ (off - base) % stride = 0 ∧ (off - base) / stride < count then some ((off - base) / stride) else none
/-- A STATUS register whose only field is CFGERR (R14). -/
def cfgerrOnly : Reg := { fields := [fld 0 0 .w1c] }

/-! ### The blocks -/

/-- SYS: SYS_ID (its SPEED field is filled in when read), SYS_STATUS, SYS_LATHSTAT, SYS_LATHID, SYS_LATHGEN. -/
def sysReg (off : Nat) : Option Reg :=
  if off = 0x00 then some { reset := 0x0000004824108128, fields := [fld 0 15 .ro, fld 16 19 .ro, fld 20 27 .ro, fld 28 31 .ro, fld 32 39 .ro] }
  else if off = 0x08 then some cfgerrOnly
  else if off = 0x40 then some { fields := [fld 0 7 .ro, fld 8 15 .ro, fld 16 19 .ro, fld 20 20 .ro, fld 21 21 .ro, fld 22 22 .ro, fld 23 23 .ro, fld 24 24 .ro, fld 32 63 .ro] }
  else if off = 0x48 then some { fields := [fld 0 63 .ro] }
  else if off = 0x50 then some { fields := [fld 0 31 .ro, fld 32 47 .ro] }
  else none

/-- LC: LC_STATUS, LC_STATE, LC_UID. -/
def lcReg (off : Nat) : Option Reg :=
  if off = 0x08 then some cfgerrOnly
  else if off = 0x10 then some { fields := [fld 0 3 .ro, fld 4 5 .ro, fld 8 11 .ro, fld 12 12 .ro, fld 16 19 .ro, fld 20 23 .ro, fld 24 24 .ro, fld 25 25 .ro] }
  else if off = 0x18 then some { fields := [fld 0 63 .ro] }
  else none

/-- SEC: SEC_STATUS, SEC_SVN, SEC_AUTHSTAT. -/
def secReg (off : Nat) : Option Reg :=
  if off = 0x08 then some { fields := [fld 0 0 .w1c, fld 1 1 .ro, fld 2 2 .ro, fld 3 3 .ro] }
  else if off = 0x10 then some { fields := [fld 0 31 .ro, fld 32 38 .ro, fld 40 47 .ro] }
  else if off = 0x18 then some { fields := [fld 0 7 .ro, fld 8 15 .ro, fld 16 16 .rc] }
  else none

/-- RSV: RSV_STATUS, RSV_CTRL, RSV_SHORTLOG, RSV_DOMn. -/
def rsvReg (off : Nat) : Option Reg :=
  if off = 0x08 then some { fields := [fld 0 0 .w1c, fld 1 1 .ro, fld 2 2 .ro, fld 3 3 .w1c, fld 4 4 .ro, fld 5 5 .w1c] }
  else if off = 0x10 then some { reset := 0xC80, fields := [fldOk 0 1 .rw (· != 3), fldOk 4 11 .rw fun v => decide (155 ≤ v ∧ v ≤ 220)] }
  else if off = 0x20 then some { fields := [fld 0 15 .rc, fld 16 63 .rc] }
  else
    match regIndex 0x100 8 35 off with
    | some _ => some { reset := 0x64, fields := [fld 0 6 .ro, fldOk 8 14 .rw (fun v => decide (v = 0 ∨ (8 ≤ v ∧ v ≤ 120))), fld 16 27 .ro, fld 28 35 .ro, fld 36 36 .ro, fld 37 37 .ro, fld 38 38 .ro] }
    | none => none

/-- SM_FARn: a valid entry that names a neighbour, the ridge itself or the same ridge as another valid entry is a
reserved encoding of the fields that name it. -/
def farKeep (n : Nat) (_old new : Nat) : List (Nat × Nat) :=
  let far (k : Nat) : Nat := field new (16 * k) 5
  let valid (k : Nat) : Bool := bitOf new (16 * k + 8)
  (List.range 4).flatMap fun k =>
    if valid k && (far k == n || far k == (n + 31) % 32 || far k == (n + 1) % 32
        || (List.range 4).any (fun j => j != k && valid j && far j == far k))
    then [(16 * k, 5), (16 * k + 8, 1)] else []

/-- SM_MQOSm: the reset value of a master, none for stream ports and undefined numbers. -/
def mqosReset (m : Nat) : Option Nat :=
  if m < 0x80 then (if m % 4 = 3 then some 0xA else none)
  else if m < 0x90 then some 0xE
  else if m < 0xA0 then some 0x6
  else if m = 0xA0 then some 0x9
  else if m = 0xA1 then some 0x3
  else none

/-- SM: SM_STATUS, SM_HOLDS, SM_LGOPT, SM_FARn, SM_TBURSTt, SM_MQOSm. -/
def smReg (off : Nat) : Option Reg :=
  if off = 0x08 then some cfgerrOnly
  else if off = 0x10 then some { fields := [fld 0 31 .rc, fld 32 63 .rc] }
  else if off = 0x20 then some { fields := [fld 0 31 .ro], lathOnly := true }
  else
    match regIndex 0x100 8 32 off, regIndex 0x300 8 37 off, regIndex 0x800 8 0xA2 off with
    | some n, _, _ =>
      some { fields := [fld 0 4 .ro, fld 8 8 .ro, fld 16 20 .ro, fld 24 24 .ro, fld 32 36 .ro, fld 40 40 .ro, fld 48 52 .ro, fld 56 56 .ro], lathOnly := true, keep := farKeep n }
    | none, some _, _ => some { reset := 0x1F07, fields := [fld 0 5 .rw, fld 8 13 .rw] }
    | none, none, some m =>
      match mqosReset m with
      | some r => some { reset := r, fields := [fld 0 3 .rw] }
      | none => none
    | none, none, none => none

/-- CT: CT_STATUS, CT_ERR. -/
def ctReg (off : Nat) : Option Reg :=
  if off = 0x08 then some cfgerrOnly
  else if off = 0x10 then some { fields := [fld 0 15 .rc, fld 16 31 .rc, fld 32 52 .ro, fld 63 63 .rc] }
  else none

/-- MBX: MBX_STATUS, MBX_ERR, MBX_SEMFORCE. -/
def mbxReg (off : Nat) : Option Reg :=
  if off = 0x08 then some { fields := [fld 0 0 .w1c, fld 1 1 .w1c, fld 2 2 .w1c] }
  else if off = 0x10 then some { fields := [fld 0 15 .rc, fld 16 31 .rc, fld 32 49 .ro] }
  else if off = 0x18 then some { fields := [fld 0 7 .wo] }
  else none

/-- TMR: the registers of the timer block and of its eight channels. -/
def tmrReg (off : Nat) : Option Reg :=
  if off = 0x08 then some { fields := [fld 0 0 .w1c, fld 1 1 .ro, fld 2 2 .ro, fld 3 3 .ro, fld 4 4 .ro, fld 5 5 .ro, fld 6 6 .ro, fld 7 7 .ro, fld 8 8 .ro, fld 16 23 .rc, fld 24 39 .rc, fld 40 55 .rc] }
  else if off = 0x10 then some { reset := 2, fields := [fld 0 0 .rw, fld 1 1 .rw, fld 2 2 .rw, fld 3 3 .w1s] }
  else if off = 0x18 then some { reset := 0x0000100000000000, fields := [fld 0 31 .ro, fldOk 32 55 .rw (· != 0)] }
  else if off = 0x20 then some { fields := [fld 0 63 .ro] }
  else if off = 0x28 then some { fields := [fld 0 7 .ro, fld 8 15 .ro, fld 16 23 .ro, fld 24 35 .ro, fld 36 43 .ro] }
  else if off = 0x30 then some { fields := [fld 0 63 .ro] }
  else if 0x100 ≤ off ∧ off < 0x300 then
    let o := (off - 0x100) % 0x40
    if o = 0x00 then some { fields := [fldOk 0 2 .rw (· != 3), fld 3 4 .rw, fld 5 5 .rw, fld 6 6 .rw, fld 7 7 .rw, fld 8 8 .rw, fld 9 9 .rw, fld 10 10 .rw, fld 12 19 .rw, fldOk 20 28 .rw (fun v => decide (v ≤ 256)), fld 32 32 .w1c, fld 33 33 .w1c, fld 34 34 .ro, fld 35 35 .w1c] }
    else if o = 0x08 then some { reset := 0x10000, fields := [fldOk 0 31 .rw (fun v => decide (0x10000 ≤ v)), fld 32 63 .rw] }
    else if o = 0x10 then some { fields := [fld 0 31 .ro, fld 32 63 .ro] }
    else if o = 0x18 then some { fields := [fld 0 31 .rw, fld 32 63 .rw] }
    else if o = 0x20 then some { fields := [fld 0 31 .ro, fld 32 63 .ro] }
    else none
  else none

/-- COL_LINKj: FLO + FW above 31 is a reserved encoding. -/
def colLinkKeep (_old new : Nat) : List (Nat × Nat) :=
  if 31 < field new 0 5 + field new 5 4 then [(0, 5), (5, 4)] else []

/-- COL: the registers of the col path. -/
def colReg (off : Nat) : Option Reg :=
  if off = 0x08 then some { reset := 2, fields := [fld 0 0 .w1c, fld 1 1 .ro, fld 16 31 .rc, fld 32 47 .rc] }
  else if off = 0x10 then some { reset := 8, fields := [fldOk 0 7 .ro (· != 0), fld 8 12 .ro, fld 16 28 .ro], lathOnly := true }
  else if off = 0x700 then some { fields := [fld 0 63 .wo], lathOnly := true }
  else
    match regIndex 0x40 8 16 off, regIndex 0xC0 8 16 off, regIndex 0x200 8 128 off, regIndex 0x600 8 8 off with
    | some _, _, _, _ => some { fields := [fld 0 7 .ro, fld 8 9 .ro], lathOnly := true }
    | none, some _, _, _ => some { reset := 0xFFFFFFFFFFFFFFFF, fields := [fld 0 15 .rw, fld 16 31 .rw, fld 32 47 .rw, fld 48 63 .rw] }
    | none, none, some _, _ => some { reset := 0x1001E0, fields := [fld 0 4 .rw, fld 5 8 .rw, fld 16 23 .rw, fld 32 47 .rw], keep := colLinkKeep }
    | none, none, none, some _ => some { fields := [fld 0 47 .ro], lathOnly := true }
    | none, none, none, none => none

/-- ALN_Qq: the reserved encodings of an enabled queue (POLICY 0, L 0, A above L − 1, SLOT outside 1 to 30). -/
def alnKeep (_old new : Nat) : List (Nat × Nat) :=
  let en := bitOf new 0
  let l := field new 4 13
  (if en && field new 1 2 == 0 then [(0, 1), (1, 2)] else [])
    ++ (if en && (l == 0 || decide (l ≤ field new 17 13)) then [(4, 13), (17, 13)] else [])
    ++ (if en && (field new 37 5 == 0 || field new 37 5 == 31) then [(37, 5)] else [])

/-- ALN: ALN_STATUS, ALN_CFG, ALN_Qq, ALN_QCNTq. -/
def alnReg (off : Nat) : Option Reg :=
  if off = 0x08 then some { fields := [fld 0 0 .w1c, fld 1 1 .ro, fld 2 2 .w1c, fld 3 3 .ro] }
  else if off = 0x10 then some { reset := 0x3E8, fields := [fldOk 0 9 .ro fun v => decide (40 ≤ v ∧ v ≤ 1000)], lathOnly := true }
  else
    match regIndex 0x100 8 16 off, regIndex 0x200 8 16 off with
    | some _, _ => some { fields := [fld 0 0 .ro, fld 1 2 .ro, fld 3 3 .ro, fld 4 16 .ro, fld 17 29 .ro, fld 30 36 .ro, fld 37 41 .ro], lathOnly := true, keep := alnKeep }
    | none, some _ => some { fields := [fld 0 31 .rc, fld 32 47 .rc] }
    | none, none => none

/-- MGT: MGT_STATUS, MGT_ERRCNT. -/
def mgtReg (off : Nat) : Option Reg :=
  if off = 0x08 then some { reset := 0xFF00, fields := [fld 0 0 .w1c, fld 1 1 .ro, fld 2 2 .ro, fld 3 3 .ro, fld 4 4 .w1c, fld 5 5 .ro, fld 8 15 .ro, fld 16 23 .ro] }
  else if off = 0x10 then some { fields := [fld 0 15 .rc, fld 16 31 .rc, fld 32 47 .rc, fld 48 63 .rc] }
  else none

/-- SWP: SWP_STATUS, SWP_CTRL. -/
def swpReg (off : Nat) : Option Reg :=
  if off = 0x08 then some { fields := [fld 0 0 .w1c, fld 1 1 .ro, fld 2 2 .w1c, fld 3 3 .w1c, fld 4 7 .ro, fld 16 31 .rc, fld 32 63 .ro] }
  else if off = 0x10 then some { reset := 0x1803, fields := [fld 0 0 .rw, fld 1 1 .rw, fldOk 8 15 .rw fun v => decide (24 ≤ v ∧ v ≤ 168)] }
  else none

/-- RPR: RPR_STATUS, RPR_RIDGEMAPk, RPR_SITEs, RPR_LANEMAPs_h, RPR_CLAPPEND, RPR_PFAIL. -/
def rprReg (off : Nat) : Option Reg :=
  if off = 0x08 then some { fields := [fld 0 0 .w1c, fld 1 1 .ro, fld 2 2 .ro, fld 3 3 .ro, fld 4 4 .ro, fld 16 19 .ro, fld 20 20 .w1c, fld 21 21 .ro, fld 32 63 .ro] }
  else if off = 0x600 then some { fields := [fld 0 17 .wo, fld 32 46 .wo, fld 48 55 .wo] }
  else if off = 0x608 then some { reset := 0x14, fields := [fldOk 0 7 .rw (· != 0)] }
  else
    match regIndex 0x40 8 4 off, regIndex 0x100 8 34 off, regIndex 0x300 8 68 off with
    | some _, _, _ => some { fields := (List.range 8).map fun i => fld (8 * i) (8 * i + 5) .ro }
    | none, some _, _ => some { fields := [fld 0 1 .ro, fld 8 12 .ro, fld 16 33 .ro] }
    | none, none, some _ => some { fields := (List.range 8).map fun i => fld (8 * i) (8 * i + 4) .ro }
    | none, none, none => none

/-- DS00 to DS31 (R239): interface `i`; the governing registers exist in DS00 only. -/
def dsReg (i off : Nat) : Option Reg :=
  if off = 0x08 then some { fields := [fld 0 0 .w1c, fld 1 1 .ro, fld 2 2 .ro, fld 3 3 .ro, fld 4 4 .ro, fld 5 5 .w1c] }
  else if off = 0x10 then some { reset := 0x1F07, fields := [fld 0 5 .rw, fld 8 13 .rw] }
  else if off = 0x18 then some { fields := [fld 0 15 .rc, fld 16 31 .rc, fld 32 47 .rc, fld 48 55 .rc] }
  else if off = 0x20 then some { fields := [fld 0 47 .ro, fld 48 57 .ro, fld 63 63 .rc] }
  else if i ≠ 0 then none
  else if off = 0x40 then some { reset := 6, fields := [fldOk 0 2 .rw (· != 7), fld 8 8 .wo] }
  else if off = 0x48 then some { reset := 0x303FD, fields := [fld 0 10 .ro, fld 16 25 .ro, fld 32 41 .ro, fld 48 53 .ro] }
  else if off = 0x50 then some { fields := [fld 0 0 .ro, fld 1 1 .ro, fld 8 17 .ro, fld 20 29 .ro, fld 32 48 .ro] }
  else
    match regIndex 0x100 8 16 off, regIndex 0x2000 8 1024 off with
    | some _, _ => some { fields := [fld 0 20 .rw, fldOk 24 44 .rw (fun v => decide (v ≤ 2091008)), fld 48 48 .rw, fld 49 49 .wo, fld 50 50 .ro, fld 51 51 .w1c] }
    | none, some _ => some { fields := [fld 0 9 .ro, fld 10 11 .ro] }
    | none, none => none

/-- LG_LINKk: the reserved combinations of its table. Positions: RXMODE 0, TXMODE 3, FEC 6, RXRATE 8, M 25,
SADDLE 39, PAYLEN 41. -/
def linkKeep (_old new : Nat) : List (Nat × Nat) :=
  let rx := field new 0 3
  let tx := field new 3 3
  let rate := field new 8 17
  let m := field new 25 5
  let sad := field new 39 2
  let rateBad := (rx == 1 && (decide (rate < 5000) || decide (112500 < rate))) ||
    (rx == 3 && (decide (rate < 5000) || decide (25000 < rate)))
  (if (rx == 2 && tx != 2) || (tx == 2 && rx != 2 && rx != 0) then [(0, 3), (3, 3)] else [])
    ++ (if bitOf new 6 && rx != 2 && tx != 2 then [(6, 1), (0, 3), (3, 3)] else [])
    ++ (if sad != 0 && (field new 41 12 == 0 || rx == 2) then [(39, 2), (41, 12), (0, 3)] else [])
    ++ (if rateBad then [(0, 3), (8, 17)] else [])
    ++ (if (tx == 1 || tx == 4) && m == 0 then [(3, 3), (25, 5)] else [])

/-- LG_CHANk: CHBASE + CHCOUNT above 2,097,152 is reserved. -/
def chanKeep (_old new : Nat) : List (Nat × Nat) :=
  if 2097152 < field new 0 21 + field new 21 22 then [(0, 21), (21, 22)] else []

/-- LG_EGCTL: changing SIZE or BASE while EN = 1 is a reserved encoding. -/
def egctlKeep (old new : Nat) : List (Nat × Nat) :=
  if bitOf old 4 && (field old 0 4 != field new 0 4 || field old 12 36 != field new 12 36) then [(0, 4), (12, 36)] else []

/-- LG00 to LG15: the registers of a link group. -/
def lgReg (off : Nat) : Option Reg :=
  if off = 0x08 then some { fields := [fld 0 0 .w1c, fld 1 1 .ro, fld 8 15 .ro] }
  else if off = 0x200 ∨ off = 0x208 then some { fields := [fldOk 0 8 .rw (fun v => decide (v ≤ 256)), fld 16 23 .rw, fld 24 24 .rw, fld 25 25 .wo, fld 26 26 .wo, fld 27 27 .ro, fld 28 28 .ro, fld 29 29 .ro, fld 31 40 .ro, fld 41 56 .rc] }
  else if off = 0x220 then some { fields := [fldOk 0 4 .rw (fun v => decide (v ≤ 25)), fld 5 5 .rw, fld 12 47 .rw] }
  else if off = 0x228 then some { fields := [fld 0 31 .ro, fld 32 47 .rc, fld 48 48 .w1c] }
  else if off = 0x230 then some { fields := [fld 0 31 .rw, fldOk 32 40 .rw (fun v => decide (v ≤ 256)), fld 48 55 .rw, fld 56 56 .rw] }
  else if off = 0x240 then some { fields := [fldOk 0 3 .rw (fun v => decide (v ≤ 8)), fld 4 4 .rw, fld 12 47 .rw], keep := egctlKeep }
  else if off = 0x248 then some { reset := 0x0000002D00000000, fields := [fld 0 15 .rw, fld 16 31 .ro, fldOk 32 40 .rw (fun v => decide (1 ≤ v ∧ v ≤ 298)), fld 41 48 .rw, fldOk 49 57 .rw (fun v => decide (v ≤ 256))] }
  else
    match regIndex 0x100 8 8 off, regIndex 0x140 8 8 off, regIndex 0x180 8 8 off with
    | some _, _, _ =>
      some { fields := [fldOk 0 2 .ro (fun v => decide (v ≤ 3)), fldOk 3 5 .ro (fun v => decide (v ≤ 4) && v != 3), fld 6 6 .ro, fld 8 24 .ro, fld 25 29 .ro, fld 30 37 .ro, fld 38 38 .ro, fldOk 39 40 .ro (· != 3), fldOk 41 52 .ro fun v => decide (v ≤ 2048)], lathOnly := true, keep := linkKeep }
    | none, some _, _ => some { fields := [fld 0 20 .rw, fldOk 21 42 .rw fun v => decide (v ≤ 2097152)], keep := chanKeep }
    | none, none, some _ => some { fields := [fld 0 0 .ro, fld 1 1 .ro, fld 2 2 .w1c, fld 3 3 .ro, fld 16 31 .rc, fld 32 47 .rc] }
    | none, none, none => none

/-- SE_CHAINn: CREDITS and TIMEOUT agree with OUT and MEMBERS. -/
def chainKeep (_old new : Nat) : List (Nat × Nat) :=
  let out := field new 2 2
  let credits := field new 8 7
  (if (decide (2 ≤ out) && !(decide (1 ≤ credits ∧ credits ≤ 64))) || (decide (out < 2) && credits != 0) then [(2, 2), (8, 7)] else [])
    ++ (if (field new 4 3 != 0) != (field new 16 12 != 0) then [(4, 3), (16, 12)] else [])

/-- LD_PART: a sum of counts above 32, or a nonzero count with MODE = 0. -/
def partKeep (_old new : Nat) : List (Nat × Nat) :=
  let sum := field new 8 6 + field new 16 6 + field new 24 6
  if 32 < sum ∨ (sum ≠ 0 ∧ !bitOf new 0) then [(0, 1), (8, 6), (16, 6), (24, 6)] else []

/-- RG00 to RG31: the registers of a ridge. -/
def rgReg (off : Nat) : Option Reg :=
  if off = 0x08 then some cfgerrOnly
  else if off = 0x1008 then some { fields := [fld 0 47 .rw] }
  else if off = 0x1010 then some { reset := 0x1FE000, fields := [fld 13 20 .rw] }
  else if off = 0x1018 then some { fields := [fld 0 4 .ro, fld 8 55 .ro] }
  else if off = 0x1200 then some { fields := [fld 0 31 .rc, fld 32 63 .rc] }
  else if off = 0x1300 then some { fields := [fld 0 11 .rc, fld 12 23 .rc, fld 24 36 .ro, fld 37 46 .ro, fld 47 50 .ro, fld 51 51 .ro, fld 52 52 .ro] }
  else if off = 0x1400 then some { fields := [fld 0 0 .ro, fldOk 8 13 .ro (fun v => decide (v ≤ 32)), fldOk 16 21 .ro (fun v => decide (v ≤ 32)), fldOk 24 29 .ro (fun v => decide (v ≤ 32))], lathOnly := true, keep := partKeep }
  else if off = 0x1408 then some { fields := [fld 0 0 .rw, fld 1 1 .ro, fld 2 2 .ro] }
  else if off = 0x1410 then some { fields := [fld 0 15 .rc, fld 16 31 .rc, fld 32 53 .ro, fld 54 54 .w1c] }
  else if 0x1800 ≤ off ∧ off < 0x2000 then
    let o := (off - 0x1800) % 0x100
    if o % 16 = 0 then some { reset := if o = 0 then 0x8049000000000000 else 0, fields := [fld 0 47 .rw, fldOk 48 50 .rw (fun v => decide (v ≤ 4)), fldOk 51 53 .rw (fun v => decide (v ≤ 4)), fldOk 54 56 .rw (fun v => decide (v ≤ 4)), fld 63 63 .rw] }
    else if o % 16 = 8 then some { reset := if o = 8 then 0xFFFFFFFFFFFF else 0, fields := [fld 0 47 .rw] }
    else none
  else
    match regIndex 0x1100 8 16 off, regIndex 0x1500 8 8 off, regIndex 0x1540 8 32 off, regIndex 0x1640 8 8 off with
    | some _, _, _, _ =>
      some { fields := [fldOk 0 1 .ro (· != 1), fldOk 2 3 .ro (· != 1), fldOk 4 6 .ro (fun v => decide (v ≤ 4)), fldOk 8 14 .ro (fun v => decide (v ≤ 64)), fld 16 27 .ro], lathOnly := true, keep := chainKeep }
    | none, some _, _, _ => some { fields := [fld 0 47 .rw, fld 48 48 .wo, fld 49 49 .wo, fld 50 51 .ro] }
    | none, none, some _, _ => some { fields := [fld 0 63 .rw] }
    | none, none, none, some _ => some { fields := [fld 0 31 .rw, fld 32 32 .wo, fld 33 33 .ro] }
    | none, none, none, none => none

/-- The defined block numbers of R15. -/
def blockDefined (blk : Nat) : Bool :=
  decide (blk ≤ 0x0C) || decide (0x10 ≤ blk ∧ blk ≤ 0x3F) || decide (0x80 ≤ blk ∧ blk ≤ 0xA1) || decide (0xC0 ≤ blk ∧ blk ≤ 0xDF)

/-- The register at offset `off` of block `blk`. Blocks ST00 to ST33 stand for the block of the ridge their site
carries (`Machine/Ops.lean`); a site that carries none has its own status register only (RG_STATUS). -/
def regDesc (blk off : Nat) : Option Reg :=
  if off % 8 ≠ 0 then none
  else if blk = 0x00 then sysReg off
  else if blk = 0x01 then lcReg off
  else if blk = 0x02 then secReg off
  else if blk = 0x03 then rsvReg off
  else if blk = 0x04 then smReg off
  else if blk = 0x05 then ctReg off
  else if blk = 0x06 then mbxReg off
  else if blk = 0x07 then tmrReg off
  else if blk = 0x08 then colReg off
  else if blk = 0x09 then alnReg off
  else if blk = 0x0A then mgtReg off
  else if blk = 0x0B then swpReg off
  else if blk = 0x0C then rprReg off
  else if 0x10 ≤ blk ∧ blk ≤ 0x2F then dsReg (blk - 0x10) off
  else if 0x30 ≤ blk ∧ blk ≤ 0x3F then lgReg off
  else if 0x80 ≤ blk ∧ blk ≤ 0xA1 then (if off = 0x08 then some cfgerrOnly else none)
  else if 0xC0 ≤ blk ∧ blk ≤ 0xDF then rgReg off
  else none

/-- The key of a register in `State.regs`. -/
def regKey (blk off : Nat) : Nat := blk * 65536 + off

/-- The reset value of the register of a key (DS_CTRL on the HF8128-20). Choices: log entry 22. -/
def regResetOf (key : Nat) : Nat :=
  match regDesc (key / 65536) (key % 65536) with
  | some r => r.reset
  | none => 0

end Sys2Proof.Machine
end

