-- ==== Sys2Proof/Machine/Sparse.lean ====
section
/-!
DEFINITION. Sparse maps as lists of (key, value) pairs in one canonical form: keys strictly rising, and no value equal
to what an unlisted key reads as. `Machine/State.lean` keeps registers and memories so.
-/

namespace Sys2Proof.Machine

/-- The value of key `k`, or `d` where the list has none. -/
def Sparse.get {α : Type} (d : α) (m : List (Nat × α)) (k : Nat) : α :=
  match m with
  | [] => d
  | (k', v) :: rest => if k' = k then v else Sparse.get d rest k

/-- `m` without key `k`. -/
def Sparse.erase {α : Type} (m : List (Nat × α)) (k : Nat) : List (Nat × α) :=
  match m with
  | [] => []
  | (k', v) :: rest => if k' = k then Sparse.erase rest k else (k', v) :: Sparse.erase rest k

/-- `m` with the pair `(k, v)` put before the first larger key. -/
def Sparse.insert {α : Type} (m : List (Nat × α)) (k : Nat) (v : α) : List (Nat × α) :=
  match m with
  | [] => [(k, v)]
  | (k', v') :: rest => if k < k' then (k, v) :: (k', v') :: rest else (k', v') :: Sparse.insert rest k v

/-- `m` with key `k` at `v`; a value equal to the default `d` removes the key. -/
def Sparse.set {α : Type} [DecidableEq α] (d : α) (m : List (Nat × α)) (k : Nat) (v : α) : List (Nat × α) :=
  if v = d then Sparse.erase m k else Sparse.insert (Sparse.erase m k) k v

/-- The canonical form, key by key: each key is above `low`, the next above it, and no value is its key's default. -/
def Sparse.wfFrom {α : Type} [DecidableEq α] (d : Nat → α) (low : Option Nat) (m : List (Nat × α)) : Bool :=
  match m with
  | [] => true
  | (k, v) :: rest =>
    (match low with
      | none => true
      | some l => decide (l < k)) && decide (v ≠ d k) && Sparse.wfFrom d (some k) rest

/-- The canonical form of a sparse map whose key `k` reads as `d k` when unlisted. -/
def Sparse.wf {α : Type} [DecidableEq α] (d : Nat → α) (m : List (Nat × α)) : Bool := Sparse.wfFrom d none m

/-- The entries of a map listed anew at the key that `f` gives for theirs; none drops the entry. -/
def Sparse.rekey {α : Type} [DecidableEq α] (d : Nat → α) (f : Nat → Option Nat) (m : List (Nat × α)) : List (Nat × α) :=
  m.foldl (fun acc c => match f c.1 with
    | some k => Sparse.set (d k) acc k c.2
    | none => acc) []

end Sys2Proof.Machine
end

