-- ==== Sys2Proof/Machine/Vector.lean ====
section
/-!
DEFINITION. The basic vector codes (R136 to R164): which codes are defined for which types, the operation of one
element container, reductions, hit records, cluster records and the operations that reach other elements.
-/

namespace Sys2Proof.Machine

/-! ### Types (R84, R121) -/

/-- Width in bits of an ETYPE. -/
def etBits (et : Nat) : Nat := if et = 8 then 16 else if et = 9 then 32 else if et = 10 then 64 else 8 * 2 ^ (et / 2)
/-- The ETYPE is floating point. -/
def etFp (et : Nat) : Bool := decide (8 ≤ et ∧ et ≤ 10)
/-- The ETYPE is an integer type. -/
def etInt (et : Nat) : Bool := decide (et < 8)
/-- The ETYPE is a signed integer type. -/
def etSigned (et : Nat) : Bool := decide (et < 8) && et % 2 == 1
/-- R83: sub-words per element by PACK. -/
def packN (pack : Nat) : Nat := 2 ^ pack
/-- R84: PACK allowed for an ETYPE. -/
def packAllowed (et pack : Nat) : Bool := pack == 0 || etBits et * packN pack == 64

/-- What steers an element operation: ETYPE, sub-words per element, SAT and the rounding mode. -/
structure VTy where
  et : Nat
  n : Nat
  sat : Bool
  rm : Rounding
  deriving DecidableEq, Repr

/-- Sub-word width in bits. -/
def VTy.w (ty : VTy) : Nat := etBits ty.et
/-- R86: bytes per element. -/
def VTy.esize (ty : VTy) : Nat := ty.n * ty.w / 8
/-- The floating-point format. -/
def VTy.fmt (ty : VTy) : FpFmt := fpOfWidth ty.w
/-- Signedness of the ETYPE. -/
def VTy.signed (ty : VTy) : Bool := etSigned ty.et

/-- Sub-word `j` of width `w` of a container (R121). -/
def subw (w v j : Nat) : Nat := v / 2 ^ (w * j) % 2 ^ w

/-- A container of sub-words of width `w`, the first lowest. -/
def joinSub (w : Nat) (xs : List Nat) : Nat :=
  match xs with
  | [] => 0
  | x :: rest => x % 2 ^ w + 2 ^ w * joinSub w rest

/-- The sub-words of a container. -/
def splitSub (w n v : Nat) : List Nat := (List.range n).map (subw w v)

/-- A container formed sub-word by sub-word, with the OR of the flags (R121). -/
def eachSub (n dw : Nat) (f : Nat → Nat × Flags) : Nat × Flags :=
  let rs := (List.range n).map f
  (joinSub dw (rs.map fun r => r.1), rs.foldl (fun acc r => acc ||| r.2) 0)

/-! ### Sub-word operations (R141 to R147) -/

/-- R141, R147: the integer operation of a code. -/
def intOpOf (code : Nat) : Option IntOp :=
  if code = 0x000 then some .add
  else if code = 0x001 then some .sub
  else if code = 0x002 then some .neg
  else if code = 0x003 then some .abs
  else if code = 0x004 then some .absDiff
  else if code = 0x005 then some .avg
  else if code = 0x008 then some .and
  else if code = 0x009 then some .or
  else if code = 0x00A then some .xor
  else if code = 0x00B then some .andn
  else if code = 0x00C then some .not
  else if code = 0x010 then some .shl
  else if code = 0x011 then some .shr
  else if code = 0x012 then some .sra
  else if code = 0x013 then some .rotl
  else if code = 0x020 then some .mul
  else if code = 0x021 then some .mulh
  else if code = 0x030 then some .min
  else if code = 0x031 then some .max
  else if code = 0x208 then some .selnz
  else none

/-- R147: the comparison of a code (0x200 to 0x205) on sub-words. -/
def compareOp (code : Nat) (ty : VTy) (a b : Nat) : Bool × Flags :=
  let c : FpCmp := if code ≤ 0x201 then .eq else if code = 0x202 ∨ code = 0x204 then .lt else .le
  let x := if 0x204 ≤ code then b else a
  let y := if 0x204 ≤ code then a else b
  let r := if etFp ty.et then ty.fmt.compare c x y else (intCompare c ty.signed ty.w x y, 0)
  if code = 0x201 then (!r.1, r.2) else r

/-- R145, R146: one sub-word converted from ETYPE `src` to ETYPE `ty.et`. -/
def convertOp (src : Nat) (ty : VTy) (a : Nat) : Nat × Flags :=
  if etFp src then
    if etFp ty.et then fpConvert (fpOfWidth (etBits src)) ty.fmt ty.rm a
    else
      let r := fpToInt (fpOfWidth (etBits src)) ty.rm ty.signed ty.w a
      (wrapNat ty.w r.1, r.2)
  else intToFp ty.fmt ty.rm (toInt (etSigned src) (etBits src) a)

/-- R141, R144, R147: the result of a code at one sub-word; `c` is the addend of a pair or fused operation (R143). -/
def subOp (code : Nat) (ty : VTy) (a b c : Nat) : Nat × Flags :=
  match intOpOf code with
  | some op => op.eval ty.sat ty.signed ty.w a b
  | none =>
    let f := ty.fmt
    if code = 0x022 then
      reduce ty.sat ty.signed ty.w (toInt ty.signed ty.w a * toInt ty.signed ty.w b + toInt ty.signed ty.w c)
    else if code = 0x100 then f.add ty.rm a b
    else if code = 0x101 then f.sub ty.rm a b
    else if code = 0x102 then f.mul ty.rm a b
    else if code = 0x103 then f.fma ty.rm false false a b c
    else if code = 0x104 then f.fma ty.rm true false a b c
    else if code = 0x108 then f.minMax false true a b
    else if code = 0x109 then f.minMax true true a b
    else if code = 0x10A then f.minMax false false a b
    else if code = 0x10B then f.minMax true false a b
    else if code = 0x10C then (f.abs a, 0)
    else if code = 0x10D then (f.neg a, 0)
    else if code = 0x10E then (f.copySign a b, 0)
    else if code = 0x110 then f.rint ty.rm a
    else if 0x140 ≤ code ∧ code ≤ 0x14A then convertOp (code - 0x140) ty a
    else if 0x200 ≤ code ∧ code ≤ 0x205 then
      let r := compareOp code ty a b
      (if r.1 then 2 ^ ty.w - 1 else 0, r.2)
    else (a, 0)

/-- R163: a field of sub-word `a`, at bit `p` of length `len` as the doubleword `b` gives them. -/
def fieldOp (ty : VTy) (a b : Nat) : Nat :=
  let p := field b 0 6 % ty.w
  let len := if field b 8 6 = 0 then ty.w else field b 8 6
  wrapNat ty.w (toInt ty.signed len (a % 2 ^ ty.w / 2 ^ p))

/-- The bytes of a sub-word reversed (BSWAP). -/
def swapBytes (w v : Nat) : Nat := beNat (leBytes (w / 8) v)

/-- The result container of a code whose result for an element depends on that element alone; `a`, `b` and `c` are
source containers at their own sizes. -/
def containerOp (code : Nat) (ty : VTy) (a b c : Nat) : Nat × Flags :=
  let w := ty.w
  let n := ty.n
  if 0x140 ≤ code ∧ code ≤ 0x14A then eachSub n w fun j => subOp code ty (subw (etBits (code - 0x140)) a j) 0 0
  else if code = 0x601 then eachSub n w fun j => (swapBytes w (subw w a j), 0)
  else if code = 0x610 then
    eachSub n w fun j =>
      let src := if j < n / 2 then subw (2 * w) a j else subw (2 * w) b (j - n / 2)
      reduce ty.sat ty.signed w (toInt ty.signed (2 * w) src)
  else if code = 0x611 then eachSub n w fun j => (wrapNat w (toInt ty.signed (w / 2) (subw (w / 2) a j)), 0)
  else if code = 0x612 then eachSub n w fun j => (wrapNat w (toInt ty.signed (w / 2) (subw (w / 2) a (n + j))), 0)
  else if code = 0x620 then eachSub n w fun j => (fieldOp ty (subw w a j) b, 0)
  else if code = 0x210 then (b2n (a % 2 ^ (w * n) != 0), 0)
  else if code = 0x211 then (if a % 2 = 1 then 2 ^ (w * n) - 1 else 0, 0)
  else eachSub n w fun j => subOp code ty (subw w a j) (subw w b j) (subw w c j)

/-! ### Which codes exist (R136, R137) -/

/-- What an operand position takes, beyond the address modes of R88. -/
inductive Use where
  | unused
  | vector
  | pair
  | doubleword
  | taps
  | threshold
  | weight
  | channel
  deriving DecidableEq, Repr

/-- How a code works through its elements. -/
inductive OpKind where
  | map
  | maskPack
  | reduction
  | fir (t : Nat)
  | peak
  | compact (records : Bool)
  | coinc (w : Nat)
  | hist
  | cmerge
  | channel
  | transpose
  | custom
  deriving DecidableEq, Repr

/-- The kind of a basic code. -/
def kindOf (code : Nat) : OpKind :=
  if code = 0x210 then .maskPack
  else if 0x300 ≤ code ∧ code ≤ 0x309 then .reduction
  else if 0x400 ≤ code ∧ code ≤ 0x40F then .fir (code - 0x400 + 1)
  else if code = 0x410 then .peak
  else if code = 0x420 then .compact true
  else if code = 0x421 then .compact false
  else if 0x430 ≤ code ∧ code ≤ 0x438 then .coinc (code - 0x430)
  else if code = 0x440 then .hist
  else if code = 0x450 then .cmerge
  else if 0x500 ≤ code ∧ code ≤ 0x505 then .channel
  else if code = 0x630 then .transpose
  else if 0x800 ≤ code then .custom
  else .map

/-- R136: a basic code is defined with an ETYPE. -/
def basicType (code et : Nat) : Bool :=
  let int := etInt et
  let sint := etSigned et
  let fp := etFp et
  if code = 0x002 ∨ code = 0x003 ∨ code = 0x012 then sint
  else if (intOpOf code).isSome then int
  else if code = 0x022 then int
  else if (0x100 ≤ code ∧ code ≤ 0x104) ∨ (0x108 ≤ code ∧ code ≤ 0x10E) ∨ code = 0x110 then fp
  else if 0x140 ≤ code ∧ code ≤ 0x14A then (int || fp) && code - 0x140 != et && (fp || etFp (code - 0x140))
  else if 0x200 ≤ code ∧ code ≤ 0x205 then int || fp
  else if code = 0x210 ∨ code = 0x211 then int
  else if code = 0x300 ∨ code = 0x301 ∨ code = 0x302 ∨ code = 0x308 ∨ code = 0x309 then int || fp
  else if code = 0x303 ∨ code = 0x304 ∨ code = 0x305 then int
  else if 0x400 ≤ code ∧ code ≤ 0x40F then decide (2 ≤ et ∧ et ≤ 5) || fp
  else if code = 0x410 then int || fp
  else if code = 0x420 then decide (et ≤ 5) || et == 8 || et == 9
  else if code = 0x421 then int || fp
  else if 0x430 ≤ code ∧ code ≤ 0x438 then int
  else if code = 0x440 then int
  else if code = 0x450 then et == 6
  else if code = 0x500 then int
  else if code = 0x501 then et == 8 || et == 9
  else if code = 0x502 then et == 4
  else if code = 0x503 ∨ code = 0x504 then et == 0
  else if code = 0x505 then et == 6
  else if code = 0x600 then int || fp
  else if code = 0x601 then int
  else if code = 0x610 then decide (et ≤ 5)
  else if code = 0x611 ∨ code = 0x612 then decide (2 ≤ et ∧ et ≤ 7)
  else if code = 0x620 then int
  else if code = 0x630 then decide (et ≤ 1)
  else false

/-- R136: a PACK that the code's entry excludes. -/
def basicPack (code pack : Nat) : Bool :=
  if code = 0x421 ∨ code = 0x450 ∨ code = 0x505 then pack == 0
  else if code = 0x610 then pack != 0
  else if code = 0x630 then pack == 3
  else true

/-- Operand A of a basic code. -/
def useA (code : Nat) : Use := if 0x502 ≤ code ∧ code ≤ 0x505 then .unused else .vector

/-- Operand B of a basic code. -/
def useB (code : Nat) : Use :=
  if code = 0x022 ∨ code = 0x103 ∨ code = 0x104 then .pair
  else if code = 0x620 then .doubleword
  else if 0x400 ≤ code ∧ code ≤ 0x40F then .taps
  else if code = 0x420 ∨ code = 0x421 then .threshold
  else if code = 0x440 then .weight
  else if 0x500 ≤ code ∧ code ≤ 0x505 then .channel
  else if code = 0x002 ∨ code = 0x003 ∨ code = 0x00C ∨ code = 0x10C ∨ code = 0x10D ∨ code = 0x110
      ∨ (0x140 ≤ code ∧ code ≤ 0x14A) ∨ code = 0x210 ∨ code = 0x211 ∨ (0x300 ≤ code ∧ code ≤ 0x309)
      ∨ code = 0x410 ∨ code = 0x450 ∨ code = 0x600 ∨ code = 0x601 ∨ code = 0x611 ∨ code = 0x612 ∨ code = 0x630 then .unused
  else .vector

/-- The code produces one scalar (R149). -/
def scalarResult (code : Nat) : Bool := kindOf code == .reduction

/-- R133: the code may give a chain output. -/
def givesChain (code : Nat) : Bool :=
  match kindOf code with
  | .reduction => false
  | .compact _ => false
  | .hist => false
  | _ => true

/-- R153, R128: the history of a basic code in elements. -/
def basicHistory (code n : Nat) : Nat :=
  match kindOf code with
  | .fir t => (t - 1 + n - 1) / n
  | .peak => 1
  | .coinc _ => 1
  | .cmerge => 1
  | _ => 0

/-- R126, R153: a look-ahead code. -/
def lookAhead (code : Nat) : Bool :=
  match kindOf code with
  | .peak => true
  | .cmerge => true
  | _ => false

/-- Bytes of one element of operand A (R86, R145, R163). -/
def aSize (code : Nat) (ty : VTy) : Nat :=
  if 0x140 ≤ code ∧ code ≤ 0x14A then ty.n * etBits (code - 0x140) / 8
  else if code = 0x610 ∨ code = 0x611 ∨ code = 0x612 then 8
  else if code = 0x211 then 1
  else ty.esize

/-- Bytes of one element of operand B (R86, R160, R163). -/
def bSize (code : Nat) (ty : VTy) : Nat :=
  match useB code with
  | .channel => 4 * ty.n
  | .doubleword => 8
  | .vector => if code = 0x610 then 8 else ty.esize
  | _ => ty.esize

/-- R149: bytes of a reduction's result. -/
def resultSize (code : Nat) (ty : VTy) : Nat :=
  if code = 0x308 ∨ code = 0x309 then 16
  else if code = 0x305 ∨ (code = 0x300 ∧ etInt ty.et) then 8
  else ty.w / 8

/-- Bytes of one destination element (R86, R156, R158). -/
def dSize (code : Nat) (ty : VTy) : Nat :=
  match kindOf code with
  | .reduction => resultSize code ty
  | .compact records => if records then 8 else ty.esize
  | .hist => 4
  | .maskPack => 1
  | _ => ty.esize

/-! ### Reductions (R149 to R151) -/

/-- One partial of a reduction (R150): an exact integer or a floating-point pattern, and the sample it came from. -/
structure Partial where
  v : Option Int
  s : Nat
  deriving DecidableEq, Repr

/-- The value of a sub-word as a reduction takes it (R150, R151): a signalling NaN is quieted and raises V. -/
def reduceTake (code : Nat) (ty : VTy) (s x : Nat) : Partial × Flags :=
  if code = 0x305 then (⟨some (b2n (x % 2 ^ ty.w != 0) : Nat), s⟩, 0)
  else if etFp ty.et then
    (⟨some (if ty.fmt.isSNaN x then ty.fmt.quiet x else x : Nat), s⟩, flagIf (ty.fmt.isSNaN x) flagV)
  else if code = 0x303 ∨ code = 0x304 then (⟨some (x % 2 ^ ty.w : Nat), s⟩, 0)
  else (⟨some (toInt ty.signed ty.w x), s⟩, 0)

/-- The order of values in a minimum or maximum (R151): −0 below +0. -/
def valueLt (ty : VTy) (x y : Int) : Bool :=
  if etFp ty.et then ty.fmt.totalLt x.toNat y.toNat else decide (x < y)

/-- The partial of the lower sample. -/
def earlier (x y : Partial) : Partial := if y.s < x.s then y else x

/-- R151: the better of two present partials of a minimum or maximum: NaNs are ignored, equal values and all-NaN pairs
keep the lower sample. -/
def better (wantMax : Bool) (ty : VTy) (x y : Partial) : Partial :=
  let a := x.v.getD 0
  let b := y.v.getD 0
  let nan (v : Int) : Bool := etFp ty.et && ty.fmt.isNaN v.toNat
  match nan a, nan b with
  | true, true => earlier x y
  | true, false => y
  | false, true => x
  | false, false =>
    if (if wantMax then valueLt ty a b else valueLt ty b a) then y
    else if (if wantMax then valueLt ty b a else valueLt ty a b) then x
    else earlier x y

/-- R150: two partials combined, the left operand first; an absent partial leaves the other unchanged. -/
def combine (code : Nat) (ty : VTy) (x y : Partial) : Partial × Flags :=
  match x.v, y.v with
  | none, _ => (y, 0)
  | some _, none => (x, 0)
  | some a, some b =>
    if code = 0x300 then
      if etFp ty.et then
        let r := ty.fmt.add ty.rm a.toNat b.toNat
        (⟨some (r.1 : Nat), x.s⟩, r.2)
      else (⟨some (a + b), x.s⟩, 0)
    else if code = 0x305 then (⟨some (a + b), x.s⟩, 0)
    else if code = 0x303 then (⟨some (a.toNat ||| b.toNat : Nat), x.s⟩, 0)
    else if code = 0x304 then (⟨some (a.toNat &&& b.toNat : Nat), x.s⟩, 0)
    else (better (code == 0x302 || code == 0x308) ty x y, 0)

/-- One level of the pairwise tree of R150. -/
def combineLevel (code : Nat) (ty : VTy) (ps : List Partial) : List Partial × Flags :=
  match ps with
  | x :: y :: rest =>
    let r := combine code ty x y
    let q := combineLevel code ty rest
    (r.1 :: q.1, r.2 ||| q.2)
  | ps => (ps, 0)

/-- `k` levels of the tree. -/
def combineTree (k : Nat) (code : Nat) (ty : VTy) (ps : List Partial) : List Partial × Flags :=
  match k with
  | 0 => (ps, 0)
  | k + 1 =>
    let r := combineLevel code ty ps
    let q := combineTree k code ty r.1
    (q.1, r.2 ||| q.2)

/-- R151: the value of a reduction without active sub-words. -/
def reduceIdentity (code : Nat) (ty : VTy) : Nat :=
  let top : Nat := if etFp ty.et then ty.fmt.inf false else wrapNat ty.w (intMax ty.signed ty.w)
  let bottom : Nat := if etFp ty.et then ty.fmt.inf true else wrapNat ty.w (intMin ty.signed ty.w)
  if code = 0x301 ∨ code = 0x309 then top
  else if code = 0x302 ∨ code = 0x308 then bottom
  else if code = 0x304 then 2 ^ ty.w - 1
  else 0

/-- R149 to R151: the bytes of the result and the flags that forming it raises. -/
def reduceResult (code : Nat) (ty : VTy) (ps : List Partial) : List Byte × Flags :=
  let t := combineTree (4 + Nat.log2 ty.n) code ty ps
  let p := t.1.headD ⟨none, 0⟩
  let value : Nat × Flags :=
    match p.v with
    | none => (reduceIdentity code ty, 0)
    | some v =>
      if code = 0x300 ∧ etInt ty.et then reduce ty.sat ty.signed 64 v
      else if code = 0x305 then (wrapNat 64 v, 0)
      else if etFp ty.et then (v.toNat, 0)
      else (wrapNat ty.w v, 0)
  let index : Nat := if p.v.isSome then p.s else 2 ^ 64 - 1
  if code = 0x308 ∨ code = 0x309 then (leBytes 8 value.1 ++ leBytes 8 index, t.2 ||| value.2)
  else (leBytes (resultSize code ty) value.1, t.2 ||| value.2)

/-! ### Sieve and trigger operations (R152 to R159) -/

/-- R152: a hit record of sub-word value `v` at sample `s` with tag `tag`. -/
def hitRecord (ty : VTy) (v s : Nat) (tag : Option Word) : Nat :=
  let value := if etFp ty.et then v % 2 ^ ty.w else wrapNat 32 (toInt ty.signed ty.w v)
  let t := match tag with
    | some e => e.toNat % 2 ^ 12
    | none => 0
  value % 2 ^ 32 + s % 2 ^ 20 * 2 ^ 32 + t * 2 ^ 52

/-- A comparison `a < b` that is false on a NaN and raises V on a signalling NaN only (R155, R156). -/
def quietLt (ty : VTy) (a b : Nat) : Bool × Flags :=
  if etFp ty.et then
    let v := flagIf (ty.fmt.isSNaN a || ty.fmt.isSNaN b) flagV
    if ty.fmt.isNaN a || ty.fmt.isNaN b then (false, v) else (ty.fmt.cmp a b == .lt, v)
  else (intCompare .lt ty.signed ty.w a b, 0)

/-- The same for `a ≤ b`. -/
def quietLe (ty : VTy) (a b : Nat) : Bool × Flags :=
  if etFp ty.et then
    let v := flagIf (ty.fmt.isSNaN a || ty.fmt.isSNaN b) flagV
    if ty.fmt.isNaN a || ty.fmt.isNaN b then (false, v) else (ty.fmt.cmp a b != .gt, v)
  else (intCompare .le ty.signed ty.w a b, 0)

/-- R155: PEAK of the container `x` between the containers before and after it. -/
def peakOp (ty : VTy) (before x after : Nat) : Nat × Flags :=
  eachSub ty.n ty.w fun j =>
    let v := subw ty.w x j
    let p := if j = 0 then subw ty.w before (ty.n - 1) else subw ty.w x (j - 1)
    let q := if j + 1 = ty.n then subw ty.w after 0 else subw ty.w x (j + 1)
    let lo := quietLt ty p v
    let hi := quietLe ty q v
    (if lo.1 && hi.1 then v else 0, lo.2 ||| hi.2)

/-- R154: one addition into an accumulator field of `fw` bits. -/
def fieldAdd (sat : Bool) (fw : Nat) (acc x : Int) : Int × Flags :=
  let y := acc + x
  if sat then
    let z := max (intMin true fw) (min (intMax true fw) y)
    (z, flagIf (z != y) flagQ)
  else (toSigned fw (wrapNat fw y), 0)

/-- R154: FIR at one sample: `xs` are x(s), x(s − 1), ... and `cs` the taps c(0), c(1), ...; `f` is the shift F. -/
def firSample (ty : VTy) (f : Nat) (xs cs : List Nat) : Nat × Flags :=
  if etFp ty.et then
    match xs, cs with
    | x :: xs, c :: cs =>
      (xs.zip cs).foldl (fun (acc : Nat × Flags) p =>
        let r := ty.fmt.fma ty.rm false false p.1 p.2 acc.1
        (r.1, acc.2 ||| r.2)) (ty.fmt.mul ty.rm x c)
    | _, _ => (0, 0)
  else
    let fw := 128 / ty.n
    let acc := (xs.zip cs).foldl (fun (acc : Int × Flags) p =>
      let r := fieldAdd ty.sat fw acc.1 (toInt ty.signed ty.w p.1 * toInt ty.signed ty.w p.2)
      (r.1, acc.2 ||| r.2)) (0, 0)
    let r := reduce ty.sat ty.signed ty.w (acc.1 / 2 ^ (f % fw))
    (r.1, acc.2 ||| r.2)

/-- R154: FIR of a container; `xs` are the containers of this element and of those before it, newest first. -/
def firOp (ty : VTy) (f : Nat) (taps : List Nat) (xs : List Nat) : Nat × Flags :=
  eachSub ty.n ty.w fun j =>
    let sample (t : Nat) : Nat :=
      let back := (t + ty.n - 1 - j) / ty.n
      subw ty.w (nth 0 xs back) (j + back * ty.n - t)
    firSample ty f ((List.range taps.length).map sample) taps

/-- R157: COINC of containers `a` and `b` with window `w`; `before` is the container of b before this element. -/
def coincOp (ty : VTy) (w a b before : Nat) : Nat × Flags :=
  eachSub ty.n ty.w fun j =>
    let hits := (List.range (w + 1)).foldl (fun acc k =>
      acc ||| (if k ≤ j then subw ty.w b (j - k) else subw ty.w before (j + ty.n - k))) 0
    (popCount ty.w (subw ty.w a j &&& hits), 0)

/-- R159: two hit records, the second after the first, are adjacent. -/
def adjacent (x y : Nat) : Bool :=
  x != 0 && y != 0 && field x 52 12 == field y 52 12 && field y 32 20 == field x 32 20 + 1

/-- R159: CMERGE of record `x` between its neighbours. -/
def mergeOp (ty : VTy) (before x after : Nat) : Nat × Flags :=
  let v := field x 0 32
  let l := adjacent before x
  let r := adjacent x after
  let peak := x != 0 && (!l || decide (field before 0 32 < v)) && (!r || decide (field after 0 32 ≤ v))
  if peak then
    let sum := v + (if l then field before 0 32 else 0) + (if r then field after 0 32 else 0)
    let q := reduce ty.sat false 32 sum
    (setField x 0 32 q.1, q.2)
  else (0, 0)

/-- R164: the 8 × 8 byte transpose: byte j of element r from byte r of element j. -/
def transpose8 (xs : List Nat) : List Nat :=
  (List.range 8).map fun r => joinSub 8 ((List.range 8).map fun j => subw 8 (nth 0 xs j) r)

/-! ### Channel-table codes (R160 to R162) -/

/-- R161: the result of a channel-table code at one sub-word, from the entry and the sub-word of operand A. -/
def channelOp (code : Nat) (ty : VTy) (entry a : Nat) : Nat × Flags :=
  let ped : Int := field entry 0 16
  let diff (x : Int) : Int := if bitOf entry 55 then ped - x else x - ped
  let suppressed := bitOf entry 52 || bitOf entry 54
  if code = 0x500 then
    if suppressed then (0, 0) else reduce ty.sat ty.signed ty.w (diff (toInt ty.signed ty.w a))
  else if code = 0x501 then
    if suppressed then (0, 0)
    else
      let t := intToFp ty.fmt ty.rm (diff (a % 2 ^ ty.w : Nat))
      let gain := if ty.w = 16 then (field entry 16 16, 0) else fpConvert fp16 ty.fmt ty.rm (field entry 16 16)
      let v := flagIf (fp16.isSNaN (field entry 16 16)) flagV
      let r := ty.fmt.mul ty.rm t.1 gain.1
      (r.1, t.2 ||| v ||| r.2)
  else if code = 0x502 then (if suppressed then 0 else field entry 32 20, 0)
  else if code = 0x503 then (field entry 52 4, 0)
  else if code = 0x504 then (field entry 56 8, 0)
  else (entry, 0)

/-- R162: the entry suppresses the sub-word for this code. -/
def channelSuppresses (code entry : Nat) : Bool :=
  (code == 0x500 || code == 0x501 || code == 0x502) && (bitOf entry 52 || bitOf entry 54)

/-! ### Unit classes (R133, R201) -/

/-- The units of a lane (R113). -/
inductive VUnit where
  | a
  | m
  | s
  | k
  deriving DecidableEq, Repr

/-- R201, R133: FUNC is a unit function of the unit at an ETYPE. -/
def unitFunction (u : VUnit) (code et : Nat) : Bool :=
  basicType code et &&
    (match u with
      | .a =>
        (decide (code ≤ 0x013) && (intOpOf code).isSome) || code == 0x208 || (decide (0x200 ≤ code ∧ code ≤ 0x205) && etInt et)
          || code == 0x210 || code == 0x211 || code == 0x601 || code == 0x610 || code == 0x611 || code == 0x612 || code == 0x620
      | .m => code == 0x020 || code == 0x021 || code == 0x022 || code == 0x102 || code == 0x103 || code == 0x104
      | .s =>
        code == 0x030 || code == 0x031 || code == 0x100 || code == 0x101 || decide (0x108 ≤ code ∧ code ≤ 0x10E) || code == 0x110
          || (decide (0x140 ≤ code ∧ code ≤ 0x14A) && etBits (code - 0x140) == etBits et)
          || (decide (0x200 ≤ code ∧ code ≤ 0x205) && etFp et)
      | .k => code == 0x410 || code == 0x420 || code == 0x421 || decide (0x430 ≤ code ∧ code ≤ 0x438))

end Sys2Proof.Machine
end

