-- ==== Sys2Proof/Machine/State.lean ====
section
/-!
DEFINITION. The state of the HF8128 as plain data: everything the spec names that a command can change. Fixed-size
families are vectors, sparse ones are lists of (key, value) pairs in the canonical form of `Machine/Sparse.lean`.
Configuration registers live in `regs`, keyed `block * 65536 + offset`, absent when at their reset value; fields that
repeat other state (queue fill, PC, site maps) are computed from it when read and are not stored twice.
-/

namespace Sys2Proof.Machine

/-- Why a step can stop with a fault. No rule of the spec stops the block on a command, so no meaning raises one. -/
inductive Fault where
  /-- Raised by no meaning: every command of the spec has an effect or comes about nowhere. Safe. -/
  | none
  deriving DecidableEq, Repr

/-- Why a step can refuse a command. -/
inductive Refusal where
  /-- Raised by `exec` alone, for a row whose meaning is not written. Safe: the model stops. -/
  | notModelled (mnemonic : String)
  deriving DecidableEq, Repr

/-! ### The control core (R284 to R304) -/

/-- A register view that a delayed write reaches (R291, R292): an A register as a base, an accumulator as XMOV reads
it, a D register or TS. -/
inductive RegDst where
  | d (n : BitVec 5)
  | aBase (n : BitVec 4)
  | xMov (n : BitVec 2)
  | ts
  deriving DecidableEq, Repr

/-- A write that has not taken effect: `left` further instructions of the thread read the old value (R291). -/
structure PendWrite where
  left : Nat
  dst : RegDst
  val : BitVec 128
  deriving DecidableEq, Repr

/-- The four states of CC_THREADt.STATE. -/
inductive ThreadState where
  | reset
  | running
  | parked
  | halted
  deriving DecidableEq, Repr

/-- A queued stream descriptor (R90, R91) with everything SLAUNCH samples: ring, mask base, V registers named by
operands A, B and D, and TS.RM. `dispatched` once it has a stream slot. -/
structure QEntry where
  seq : BitVec 32
  dw : Vector Word 8
  addr : Addr
  ring : BitVec 2
  maskBase : Addr
  va : BitVec 256
  vb : BitVec 256
  vd : BitVec 256
  rm : BitVec 4
  dispatched : Bool
  deriving DecidableEq, Repr

/-- A store-buffer entry (R296): the address, an alias address included, and the bytes. -/
structure StoreEntry where
  addr : Addr
  bytes : List Byte
  deriving DecidableEq, Repr

/-- What a parked thread waits for (R285): a load (R295) with the stores that were buffered at its issue (R297) and the
bytes that have come back, by address; a free queue entry (R91) with the descriptor already read,
WFE and WTU with their sampled masks (R328, R329), or FENCE (R332). -/
inductive Park where
  | load (addr : Addr) (signed : Bool) (rt : BitVec 5) (sz : BitVec 3) (fwd : List StoreEntry) (got : List (Nat × Byte))
  | queue (rt : BitVec 5) (e : QEntry)
  | wfe (rd : BitVec 5) (mask : BitVec 256)
  | wtu (rd : BitVec 5) (limit : Word) (mask : BitVec 256)
  | fence
  deriving DecidableEq, Repr

/-- A fixed-distance load, store or SEV that waits to issue (R275, R278): the instruction and its arbitration point. -/
structure HeldAccess where
  i : Instr
  pt : ArbPoint
  deriving DecidableEq, Repr

/-- What the visible writes of a scalar routine are (R208): a result with its flags; a quotient and a remainder; a
gate entry; a return. -/
inductive RoutineKind where
  | result (rd : BitVec 5) (val : Word) (flags : BitVec 6) (len : Nat)
  | divide (rd : BitVec 5) (quot : Word) (rem : Option Word) (flags : BitVec 6) (len : Nat)
  | gate (target : Addr) (ring : BitVec 2)
  | retx
  deriving DecidableEq, Repr

/-- A scalar routine in progress (R197): `done` microwords have issued; its context's counters and latches. -/
structure Routine where
  kind : RoutineKind
  done : Nat
  c0 : BitVec 13
  c1 : BitVec 13
  c2 : BitVec 13
  cl : BitVec 8
  deriving DecidableEq, Repr

/-- The delay slot of a branch (R301): the branch's address, where the thread goes after the slot, and the registers
the branch reads. -/
structure Slot where
  branch : Addr
  target : Addr
  readsD : Option (BitVec 5)
  readsA : Option (BitVec 4)
  deriving DecidableEq, Repr

/-- A pending asynchronous machine check (R346, R211): XINFO and XADDR as entry writes them. -/
structure MCheck where
  info : Word
  addr : Addr
  deriving DecidableEq, Repr

/-- The registers of a thread (R288): `a` and `x` as adds, compares and accumulations read them, `aBase` and `xMov` as
bases and XMOV read them (R292). -/
structure CoreRegs where
  d : Vector Word 32
  a : Vector (BitVec 48) 16
  aBase : Vector (BitVec 48) 16
  x : Vector (BitVec 128) 4
  xMov : Vector (BitVec 128) 4
  ts : Word
  xpc : Word
  xts : Word
  xcause : Word
  xinfo : Word
  xaddr : Word
  tv : Word
  gtb : Word
  deriving DecidableEq, Repr

/-- One thread of a control core (R284 to R304). -/
structure Thread where
  r : CoreRegs
  pc : Addr
  st : ThreadState
  slot : Option Slot
  pend : List PendWrite
  park : Option Park
  held : Option HeldAccess
  routine : Option Routine
  stores : List StoreEntry
  events : BitVec 256
  mchecks : List MCheck
  warnPending : Bool
  wdCount : Nat
  seqNo : BitVec 32
  dq : List QEntry
  deriving DecidableEq, Repr

/-! ### Streams (R83 to R165) -/

/-- A failed check of R101: its order there, its code and the address of the failing access. -/
structure SFault where
  order : Nat
  code : Byte
  addr : Addr
  deriving DecidableEq, Repr

/-- An element on a chain (R122, R123, R131): its index, activity bit, bunch tag and container; `bad` marks an element
without a result (R127). -/
structure Elem where
  i : Nat
  act : Bool
  tag : Option Word
  v : Word
  bad : Option SFault
  deriving DecidableEq, Repr

/-- An element at the input of a member: its operands, its destination address, its failed checks: on operands, a
result missing upstream included (`bad`), and on the destination (`dbad`), and whether an operand of it was fetched or
arrived on a chain (`got`, R117). -/
structure Operands where
  i : Nat
  act : Bool
  tag : Option Word
  a : Nat
  b : Nat
  d : Nat
  bad : Option SFault
  dbad : Option SFault
  got : Bool
  deriving DecidableEq, Repr

/-- An element that a member has decided: its container `v`, what a compaction or HIST writes for it (`picks`), its flags,
the check that failed for it (`fault`), and `bad` when it has no result. -/
structure Decided where
  i : Nat
  act : Bool
  tag : Option Word
  v : Nat
  picks : List (Int × Int)
  d : Nat
  flags : BitVec 6
  fault : Option SFault
  bad : Option SFault
  deriving DecidableEq, Repr

/-- What committing an element does (R93, R98, R158, R391). -/
inductive CommitAct where
  | mem (addr : Addr) (bytes : List Byte)
  | queue (q : Fin 16) (tag : Option Word) (v : Word)
  | vreg (off : Nat) (bytes : List Byte)
  | count (addr : Addr) (weight : Int) (sat : Bool)
  | scalar (bytes : List Byte)
  deriving DecidableEq, Repr

/-- An element that passed its checks and is not yet committed (R109). -/
structure HeldCommit where
  i : Nat
  acts : List CommitAct
  flags : BitVec 6
  written : Nat
  deriving DecidableEq, Repr

/-- What an operation carries from element to element: containers of the elements before, newest first; the undecided
element of a look-ahead operation; partials (R150); the elements of an unfinished block; the taps of the row; decided
elements that a look-ahead operation forwards after the next row (R126). -/
structure OpState where
  hist : List Nat
  pend : Option Operands
  parts : List Partial
  block : List Operands
  taps : List Nat
  queue : List Decided
  deriving DecidableEq, Repr

/-- How a stream ends: CODE, INDEX and ADDR of its status record (R96). -/
structure StreamEnd where
  code : Byte
  index : Nat
  addr : Addr
  deriving DecidableEq, Repr

/-- A stream in a slot (R92 to R104). `pos` is its place among the members on its ridge, `first` the first element it
processes (history included), `next` the next one, `passed` the first element it has not decided; `sa`, `sb` and `sb1`
are the values read once at dispatch; `vw` and `scal` what a V-register or scalar result will hold; `before` the bytes the
stream has overwritten, oldest first (R100); `fault` the lowest fault noted, `found` all of them (R103). -/
structure Stream where
  slot : Fin 16
  th : Fin 8
  e : QEntry
  chid : Option (Fin 16)
  pos : Nat
  first : Nat
  next : Nat
  passed : Nat
  fault : Option (Nat × SFault)
  found : List (Nat × SFault)
  launchBad : Bool
  finished : Option StreamEnd
  flags : BitVec 6
  j : Nat
  written : Nat
  held : List HeldCommit
  os : OpState
  sa : Nat
  sb : Nat
  sb1 : Nat
  vw : List (Nat × Byte)
  scal : List Byte
  before : List (Nat × Byte)
  deriving DecidableEq, Repr

/-- A row on a ridgeline hop (R131): the elements it holds, with activity bits and tags. -/
abbrev Row := List Elem

/-- The ridgeline ends of one CHID on one ridge (R107, R131): rows in flight to and arrived at its input; at its output
free credits, credits on their way back, elements of the row being formed and rows waiting for a credit. -/
structure ChainPort where
  inFlight : List Row
  arrived : List Row
  credits : Nat
  creditsBack : Nat
  forming : List Elem
  outRows : List Row
  deriving DecidableEq, Repr

/-- A chain instance (R107 to R110), one per CHID: `active` from the first dispatch, `closed` once admitted or aborted,
the tail's safe index and the stop K. -/
structure ChainInst where
  active : Bool
  closed : Bool
  admitted : Bool
  safe : Nat
  stop : Option Nat
  deriving DecidableEq, Repr

/-- One lane of a row inside the units (R195): the element it holds (index, activity, tag), whether an operand of it was
fetched or arrived on a chain (R117), the container and a failed check its value rests on. -/
structure Lane where
  el : Option (Nat × Bool × Option Word)
  got : Bool
  v : Word
  bad : Option SFault
  deriving DecidableEq, Repr

/-- A routine context (R194, R196): its next microword, whether it has issued END in this row, the elements of its row,
which operands were fetched for them, the chain row that reached it last, rows that wait for it (an empty one is the
drain row), whether a row is in progress, is the first, the last or the drain, its index, and result rows that a
look-ahead code hands on after the next row (R126). A member with a basic code has a context that never runs. -/
structure MicroCtx where
  pc : BitVec 13
  ended : Bool
  ops : List Operands
  gotA : Bool
  gotB : Bool
  link : List Lane
  rows : List (List Elem)
  inRow : Bool
  firstRow : Bool
  lastRow : Bool
  drain : Bool
  row : Nat
  later : List (List Lane)
  deriving DecidableEq, Repr

/-- The micro-sequencer state of a step group that runs custom codes (R195, R196): counters, latches, unit result
registers, shift-network output, L-port source, accumulators, edge register, one context for each member in member
order, and flags by context and element. -/
structure GroupState where
  c0 : BitVec 13
  c1 : BitVec 13
  c2 : BitVec 13
  cl : BitVec 8
  ua : List Lane
  um : List Lane
  us : List Lane
  uk : List Lane
  sh : List Lane
  lp : List Lane
  acc : List (BitVec 128)
  edge : List Word
  ctxs : List MicroCtx
  eflags : List (Nat × Nat × BitVec 6)
  deriving DecidableEq, Repr

/-- A ridge (R16, R83 to R212) other than its registers and ledge contents. A microword is held with its parity bit, a
nano-word with the four parity bits the loader generates (R190, R198); `rewrite` lists the words that failed parity and
wait for their rewrite (R207); `rrLower` and `rrUpper` are the CHIDs whose rows the two ridgeline ports sent last. -/
structure Ridge where
  streams : List Stream
  ports : Vector ChainPort 16
  groups : List (Nat × GroupState)
  rrThread : Nat
  rrSlot : Nat
  rrLower : Nat
  rrUpper : Nat
  micro : List (Nat × BitVec 32)
  nano : List (Nat × BitVec 260)
  failedWords : List (Bool × Nat)
  rewrite : List (Bool × Nat)
  draining : Bool
  relath : Bool
  offline : Bool
  moving : Bool
  swap : Option (Fin 16)
  sweepQueued : Bool
  siteFaulty : Bool
  deriving DecidableEq, Repr

/-! ### Memories (R213 to R265) -/

/-- A bank-map entry (R221): physical bank and STATE. -/
structure MapEntry where
  pb : BitVec 10
  st : BitVec 2
  deriving DecidableEq, Repr

/-- A grant at a deep-store interface or a matrix arbitration point (R230, R274): its owner while it runs, its QoS, the
count of what it issued, its burst limit as it was given, and the last owner. -/
structure Grant where
  owner : Option Master
  qos : BitVec 4
  count : Nat
  limit : Nat
  last : Option Master
  deriving DecidableEq, Repr

/-- The deep store (R213 to R239): bytes written since `epoch` began, ranges that zeroing left at zero, the bank map where it differs from the default,
refresh debts, grants, channels under retrain and when each was retrained last (ms since power-up), channels being
re-centred, banks whose refresh was the last command issued on their channel, check granules in the window logic's cache
(latest first), corrections by bank and hour, the migration queue (bank and cause, 0 for a sweep test; the head is the one that
runs), the outage phase (1 draining, 2 remapped) with the interfaces lost in it, and the scaffold banks past and under
test. -/
structure Dram where
  deep : List Host.Cell
  zeros : List (Nat × Nat)
  epoch : Nat
  map : List (Nat × MapEntry)
  owed : List (Nat × Nat)
  grants : List (Nat × Grant)
  retraining : List (Fin 32 × Fin 2)
  retrained : List (Fin 32 × Fin 2 × Nat)
  recentring : List (Fin 32 × Fin 2)
  refreshed : List (Fin 32 × Fin 2)
  checkCache : List Nat
  corrections : List (Nat × Nat)
  migQueue : List (Nat × Nat)
  outage : Nat
  lostNow : List (Fin 32)
  passed : List Nat
  testing : List Nat
  recordedBad : List Nat
  deriving DecidableEq, Repr

/-- The tag word of a 128-byte saddle word (R365). -/
structure TagWord where
  tag16 : BitVec 16
  tv : Bool
  bad : Bool
  deriving DecidableEq, Repr

/-- A borrow of an SRAM bank (R300, R454). -/
structure Borrow where
  bank : SramBank
  redirected : Bool
  deriving DecidableEq, Repr

/-- A semaphore (R263 to R265): its holder, its broken mark, and a break on its way to the mailbox. -/
structure Sem where
  holder : Option (Fin 257)
  broken : Bool
  breaking : Bool
  deriving DecidableEq, Repr

/-- The on-die memories (R240 to R265): bytes of ledges, channel table and mailbox where they differ from what an
unlisted address reads as, the disturbance of stored ECC words (stored codeword XOR valid codeword), words waiting
for write-back, saddle tag words, semaphores, borrow, replaced and lost banks, banks to leave out from the next
power-up, repaired rows, and the scaffold banks that passed and that failed their test. -/
structure Sram where
  mem : List Host.Cell
  flips : List (Nat × BitVec 72)
  writeback : List Nat
  tags : List (Nat × TagWord)
  sems : Vector Sem 256
  borrow : Option Borrow
  replaced : List SramBank
  lost : List SramBank
  recordedBad : List SramBank
  rows : List (SramBank × Nat)
  scaffoldPassed : List ScaffoldOf
  scaffoldRetired : List ScaffoldOf
  deriving DecidableEq, Repr

/-- R223: where an address of the deep-store range goes. -/
inductive DeepPlace where
  | raw (raw : Nat)
  | windowed (win : Nat) (raw check : Nat)
  | checkRange
  deriving DecidableEq, Repr

/-- A transaction of the stream matrix (R272, R277): the stream slot it belongs to, if any; number and address of the
access it is a piece of; the place of a deep-store address as it was when the transaction entered (R225); and, for a
transaction that the window logic makes on its own, the raw address of its granule (R226). -/
structure Txn where
  m : Master
  id : BitVec 8
  qos : BitVec 4
  addr : Addr
  acc : Access
  covered : Bool
  slot : Option (Fin 16)
  no : Nat
  base : Addr
  place : Option DeepPlace
  aux : Option Nat
  deriving DecidableEq, Repr

/-- The stream matrix (R266 to R283): input queues in order of arrival, transactions in flight, grants and the last
ridge granted a reservation by arbitration point, the points whose last reservation still keeps the next one back (R276),
registered reservation requests in order, dust sheets, and the number of the next access. -/
structure Matrix where
  waiting : List Txn
  flight : List Txn
  grants : List (ArbPoint × Grant)
  lastRidge : List (ArbPoint × Nat)
  granted : List ArbPoint
  requests : List (ThreadId × ArbPoint)
  sheets : List SheetPart
  nextNo : Nat
  deriving DecidableEq, Repr

/-! ### Links, col path, alignment, time (R356 to R410) -/

/-- An egress entry taken (R379), with its template; `status` is zero until the entry is done. -/
structure Egress where
  idx : Nat
  link : Fin 8
  addr : Addr
  len : Nat
  tmpl : List Byte
  post : Bool
  tag : Word
  recid : BitVec 32
  sent : Nat
  status : Byte
  deriving DecidableEq, Repr

/-- R370: a record of the event ring that WP has not passed: the WP after it, and its writes (address, bytes) as far as
they still wait for the deep store. -/
structure RingRecord where
  wp : Nat
  writes : List (Nat × List Byte)
  deriving DecidableEq, Repr

/-- A link group (R356 to R381) other than its registers: event-ring records not yet acknowledged, in order, the write
position, the next SEQ, egress progress and the IPv4 identification counters. -/
structure LinkGroup where
  ringW : Nat
  ringSeq : BitVec 32
  ringPend : List RingRecord
  eg : List Egress
  egNext : Nat
  ident : Vector (BitVec 16) 8
  lastDatagram : List Byte
  deriving DecidableEq, Repr

/-- A DEC slot's last content (R374, R396). -/
inductive SlotOut where
  | idle
  | result (v : Word)
  | placeholder (bits : BitVec 24)
  deriving DecidableEq, Repr

/-- The col side of one link (R384) and its transmit side (R387): the latest crossing handed over, unsent crossings
with their decisions, the crossing sent last, what block 0 and the DEC slots carried last, electrical idle, and
whether the channel-table entries of a failure still wait for their DEAD flags (R380). -/
structure LinkSide where
  seen : Option Word
  unsent : List (Word × Byte)
  last : Option (Word × Byte)
  block0 : Option (BitVec 24)
  slots : List SlotOut
  electricalIdle : Bool
  deadDue : Bool
  deriving DecidableEq, Repr

/-- The col units and the summit tree (R382 to R390): the headers handed over for crossings not yet evaluated
(crossing, link, SUMMARY), the group sums of the crossings evaluated last (newest first), the next crossing to
evaluate, the summit tables, whether the image in effect has a col and summit section, and whether the path waits for
an orbit marker. -/
structure Col where
  heads : List (Word × Fin 128 × BitVec 32)
  sums : List (List Nat)
  next : Word
  lut : List (Nat × BitVec 2)
  hasSection : Bool
  waitMarker : Bool
  deriving DecidableEq, Repr

/-- A result on its way to the release side (R391): tag, value and the stream that delivered it. -/
structure Entering where
  tag : Option Word
  v : Word
  g : RidgeId
  slot : Fin 16
  deriving DecidableEq, Repr

/-- An alignment queue (R391 to R398): results on their way in, its live point, results held, crossings remembered, waiting sparse
placeholders (crossing, and BXC when the late result entered), the last release period and what its slot carried last. -/
structure AlnQueue where
  entering : List Entering
  live : Option Word
  results : List (Word × Word)
  seen : List Word
  waiting : List (Word × Word)
  released : Option Word
  slot : SlotOut
  deriving DecidableEq, Repr

/-- A timer channel beside its registers (R405, R409). -/
structure TimerCh where
  acc : Nat
  rise : Option (BitVec 32)
  deriving DecidableEq, Repr

/-- The timer block beside its registers (R400 to R410): presence of the two inputs, a failover in progress, the
effects the next marker has, the ORBLEN the next check uses, and the BXC of the on-time edges of the time-code frames that
have not ended, oldest first (R402). -/
structure Timer where
  ch : Vector TimerCh 8
  presentA : Bool
  presentB : Bool
  failing : Bool
  zeroNext : Bool
  resync : Bool
  orblen : BitVec 24
  onTime : List Word
  deriving DecidableEq, Repr

/-! ### Management, boot, life cycle (R411 to R449) -/

/-- A request addressed to this module (R413, R418): command code, tag, STATUS byte, CRC, broadcast or not, payload. -/
structure Request where
  cmd : Byte
  tag : Byte
  status : Byte
  crc : BitVec 16
  bcast : Bool
  flashFails : Bool
  payload : List Byte
  deriving DecidableEq, Repr

/-- The target of a transfer session (R425, R433). -/
inductive Target where
  | slotA
  | slotB
  | ctStore
  | staging
  | firmware (half : Bool)
  deriving DecidableEq, Repr

/-- A transfer session (R425, R426): the bytes written so far. -/
structure Session where
  target : Target
  len : Nat
  data : List Host.Cell
  deriving DecidableEq, Repr

/-- The Roluljor chain beside its registers (R411 to R427): queued requests, ENUM requests received (addressed to this
module or not, payload), the last 8 executed with their responses, own and passed-up packets ready for the upstream port
(R414), packets sent on the two ports (oldest first), the session, the bytes of a closed staging session, and a request
whose response waits. -/
structure Mgt where
  queue : List Request
  enums : List (Bool × Byte)
  memo : List (Byte × BitVec 16 × List Byte)
  upOwn : List (List Byte)
  upPassed : List (List Byte)
  upOut : List (List Byte)
  downOut : List (List Byte)
  session : Option Session
  staged : Option (List Byte)
  waiting : Option Request
  deriving DecidableEq, Repr

/-- The source of a lath operation (R497): slot A, slot B, partial push. -/
inductive LathSource where
  | slotA
  | slotB
  | push
  deriving DecidableEq, Repr

/-- The phase of a lath operation (R43, R51, R56); `failed` is a re-lath whose self-test failed and whose ridge moves
(R57). -/
inductive LathPhase where
  | checking
  | applying
  | draining
  | testing
  | failed
  deriving DecidableEq, Repr

/-- A lath operation in progress: its source, phase, whether it is the boot load with the second slot still to try,
whether FALLBACK will be set, the ridge a partial image targets, and the image once it has passed its checks. -/
structure LathOp where
  src : LathSource
  phase : LathPhase
  bootRetry : Bool
  fallback : Bool
  ridge : RidgeId
  image : List Byte
  deriving DecidableEq, Repr

/-- A timing-budget entry in effect (R38). -/
structure Budget where
  algId : BitVec 16
  queue : Byte
  bound : BitVec 32
  mask : BitVec 32
  digest : BitVec 128
  deriving DecidableEq, Repr

/-- The SMC (R43 to R59, R430 to R449): firmware running or ROM recovery, flash contents (absent bytes read 0xFF),
the length of the stored channel-table image, the stored preference, the lath operation, the full image in effect and its records, partial images in effect,
the certificate, debug, challenge and when it was made (ms since power-up), erasure of R443 in progress, the boot load
of R48 still to start, an erasure that comes before any command but IDENT, and what waits for the SMC's threads. -/
structure Smc where
  running : Bool
  recovery : Bool
  fwSvn : Nat
  fwBytes : List Byte
  slotA : List Host.Cell
  slotB : List Host.Cell
  ctStore : List Host.Cell
  ctLen : Nat
  fw0 : List Host.Cell
  fw1 : List Host.Cell
  prefB : Bool
  op : Option LathOp
  image : Option (List Byte)
  imageSlotB : Bool
  budget : List Budget
  partials : List (Nat × List Byte)
  cert : Option (List Byte)
  debug : Bool
  challenge : Option (BitVec 384 × Nat)
  erasing : Bool
  bootLoad : Bool
  eraseFirst : Bool
  events : BitVec 256
  mchecks : List MCheck
  deriving DecidableEq, Repr

/-- An owner-key slot (R434). -/
structure KeySlot where
  hash : BitVec 384
  programmed : Bool
  revoked : Bool
  deriving DecidableEq, Repr

/-- The fuse and root block (R2, R428 to R444). -/
structure Fuses where
  speed20 : Bool
  vendorHash : BitVec 384
  slots : Vector KeySlot 16
  secret : BitVec 256
  uid : Word
  count : Nat
  scrap : Bool
  fwSvnMin : Nat
  lathSvnMin : Nat
  deriving DecidableEq, Repr

/-! ### Repair, log, power (R450 to R493) -/

/-- A cairn-log record (R467); `items` are what the body of a record of the device holds (R468). -/
structure Record where
  seq : Nat
  typ : BitVec 16
  boot : BitVec 32
  ms : BitVec 32
  tod : Word
  bxc : Word
  body : List Byte
  items : List Nat
  deriving DecidableEq, Repr

/-- The cairn log (R466 to R471): both segments (oldest first), the active one, queued records, records waiting for
an entry, the next SEQ, the power-up count, LOGSTOP and a compaction in progress. -/
structure Cairn where
  seg0 : List Record
  seg1 : List Record
  active1 : Bool
  queue : List Record
  waiting : List (BitVec 16 × List Byte × List Nat)
  nextSeq : Nat
  boot : Nat
  compacting : Bool
  deriving DecidableEq, Repr

/-- A site (R459, R477): RPR_SITEs.STATE, retired slots, slots that passed their test since power-up. -/
structure Site where
  st : BitVec 2
  retired : BitVec 18
  passed : BitVec 18
  deriving DecidableEq, Repr

/-- A sweep item (R452). -/
inductive Item where
  | site (s : SiteId)
  | slot (s : SiteId) (k : Fin 18)
  | sram (b : SramBank)
  | store (g : RidgeId)
  | scrub (ct : Bool)
  | window (n : Fin 16)
  | bank (pb : Fin 1024)
  deriving DecidableEq, Repr

/-- The repair controller and the sweep (R450 to R463): ridge map (none: offline), lane maps where they differ from
lane k on slot k, sites, queued moves, lane swaps that wait for a lath operation to end (R53), the move in progress with its new site, the items in progress, postponed items,
slots in order of their last test (least recent first) with its time (ms since power-up), hours since power-up, items done, failures found, the deep-store
slot whose bank is tested next. -/
structure Repair where
  siteOf : Vector (Option SiteId) 32
  lanes : List (Nat × Nat)
  sites : Vector Site 34
  moveQueue : List (RidgeId × Byte)
  swapQueue : List (RidgeId × Fin 16)
  move : Option (RidgeId × SiteId)
  items : List Item
  postponed : List Item
  tested : List (SiteId × Fin 18 × Nat)
  hours : Nat
  itemIndex : Nat
  failures : Nat
  nextSlot : Nat
  deriving DecidableEq, Repr

/-- The power states of R483. -/
inductive PowerState where
  | off
  | standby
  | idle
  | run
  deriving DecidableEq, Repr

/-- The cause of a PFAIL (R472, R488, R493). -/
inductive PfailCause where
  | level
  | slope
  | thermal
  deriving DecidableEq, Repr

/-- Power (R472, R473, R479 to R488): the state, a transition's target, PFAIL with its cause and whether its records
have drained, sampled pins and whether REFCLK_EXT is in use, IDLE entered from STANDBY, retention of channel table and mailbox, the last thermal
readings after a trip, the last sample of the 12 telemetry points and the time since power-up in ms. -/
structure Power where
  st : PowerState
  target : Option PowerState
  pfail : Option PfailCause
  drained : Bool
  holdStby : Bool
  head : Bool
  refext : Bool
  idleFromStandby : Bool
  ctRetained : Bool
  mbxRetained : Bool
  thermal : Bool
  domainT : Int
  dramT : Int
  plateT : Int
  telem : List Nat
  uptimeMs : Nat
  deriving DecidableEq, Repr

/-- The rate servo beside its registers (R70, R72), one per domain 0 to 34: consecutive good updates in alarm and
consecutive updates settled. -/
structure Servo where
  good : Nat
  settled : Nat
  deriving DecidableEq, Repr

/-! ### The machine -/

/-- The machine. `fresh` counts the free values taken; `readData` holds what the latest read command returned. -/
structure State where
  pending : List Instr
  fresh : Nat
  readData : List Byte
  regs : List (Nat × Word)
  sram : Sram
  dram : Dram
  threads : Vector Thread 264
  ridges : Vector Ridge 32
  chains : Vector ChainInst 16
  matrix : Matrix
  groups : Vector LinkGroup 16
  sides : Vector LinkSide 128
  col : Col
  queues : Vector AlnQueue 16
  timer : Timer
  servo : Vector Servo 35
  mgt : Mgt
  smc : Smc
  fuses : Fuses
  cairn : Cairn
  repair : Repair
  power : Power
  deriving DecidableEq, Repr

/-! ### Reset values -/

/-- R303: the register file of a thread in the reset state. -/
def CoreRegs.reset : CoreRegs where
  d := Vector.replicate 32 0
  a := Vector.replicate 16 0
  aBase := Vector.replicate 16 0
  x := Vector.replicate 4 0
  xMov := Vector.replicate 4 0
  ts := 0x5
  xpc := 0
  xts := 0
  xcause := 0
  xinfo := 0
  xaddr := 0
  tv := 0
  gtb := 0

/-- R303: a thread in the reset state. Choices: log entry 22. -/
def Thread.reset : Thread where
  r := CoreRegs.reset
  pc := 0
  st := .reset
  slot := none
  pend := []
  park := none
  held := none
  routine := none
  stores := []
  events := 0
  mchecks := []
  warnPending := false
  wdCount := 0
  seqNo := 0
  dq := []

/-- An idle ridgeline end. -/
def ChainPort.reset : ChainPort := ⟨[], [], 0, 0, [], []⟩

/-- A ridge after a reset: no stream, no chain activity; `micro` and `nano` list what differs from the fill of R34.
Choices: log entry 22. -/
def Ridge.reset : Ridge where
  streams := []
  ports := Vector.replicate 16 ChainPort.reset
  groups := []
  rrThread := 0
  rrSlot := 0
  rrLower := 0
  rrUpper := 0
  micro := []
  nano := []
  failedWords := []
  rewrite := []
  draining := false
  relath := false
  offline := false
  moving := false
  swap := none
  sweepQueued := false
  siteFaulty := false

/-- A chain with no instance. -/
def ChainInst.reset : ChainInst := ⟨false, false, false, 0, none⟩

/-- The deep store at power-up under the default map (R221, R476). Choices: log entry 22. -/
def Dram.reset : Dram where
  deep := []
  zeros := []
  epoch := 0
  map := []
  owed := []
  grants := []
  retraining := []
  retrained := []
  recentring := []
  refreshed := []
  checkCache := []
  corrections := []
  migQueue := []
  outage := 0
  lostNow := []
  passed := []
  testing := []
  recordedBad := []

/-- A free semaphore. -/
def Sem.reset : Sem := ⟨none, false, false⟩

/-- The on-die memories at power-up (R37, R476). Choices: log entry 22. -/
def Sram.reset : Sram where
  mem := []
  flips := []
  writeback := []
  tags := []
  sems := Vector.replicate 256 Sem.reset
  borrow := none
  replaced := []
  lost := []
  recordedBad := []
  rows := []
  scaffoldPassed := []
  scaffoldRetired := []

/-- A matrix without transactions. Choices: log entry 22. -/
def Matrix.reset : Matrix := ⟨[], [], [], [], [], [], [], 0⟩

/-- A link group after a reset (R381). -/
def LinkGroup.reset : LinkGroup := ⟨0, 0, [], [], 0, Vector.replicate 8 0, []⟩

/-- A link after a reset. -/
def LinkSide.reset : LinkSide := ⟨none, [], none, none, [], false, false⟩

/-- The col path at power-up (R385, R390). -/
def Col.reset : Col := ⟨[], [], 0, [], false, true⟩

/-- A flushed alignment queue (R397). -/
def AlnQueue.reset : AlnQueue := ⟨[], none, [], [], [], none, .idle⟩

/-- The timer block at power-up: no input present, the next marker zeroes BXC (R401). Choices: log entry 22. -/
def Timer.reset : Timer where
  ch := Vector.replicate 8 ⟨0, none⟩
  presentA := false
  presentB := false
  failing := false
  zeroNext := true
  resync := false
  orblen := 0x001000
  onTime := []

/-- The chain at power-up. Choices: log entry 22. -/
def Mgt.reset : Mgt := ⟨[], [], [], [], [], [], [], none, none, none⟩

/-- The SMC before its first boot; flash is erased (DESIGN CHOICE, log entry 12). -/
def Smc.reset : Smc where
  running := false
  recovery := false
  fwSvn := 0
  fwBytes := []
  slotA := []
  slotB := []
  ctStore := []
  ctLen := 0
  fw0 := []
  fw1 := []
  prefB := false
  op := none
  image := none
  imageSlotB := false
  budget := []
  partials := []
  cert := none
  debug := false
  challenge := none
  erasing := false
  bootLoad := false
  eraseFirst := false
  events := 0
  mchecks := []

/-- Fuses of a device with nothing blown and order code HF8128-20 (DESIGN CHOICE, log entry 11). -/
def Fuses.reset : Fuses where
  speed20 := true
  vendorHash := 0
  slots := Vector.replicate 16 ⟨0, false, false⟩
  secret := 0
  uid := 0
  count := 0
  scrap := false
  fwSvnMin := 0
  lathSvnMin := 0

/-- An empty cairn log (R476: the first SEQ is 1). Choices: log entry 12. -/
def Cairn.reset : Cairn := ⟨[], [], false, [], [], 1, 0, false⟩

/-- R476 with an empty log: RGn on STn, lane k on slot k, ST32 and ST33 scaffold, untested (R477). Choices: log
entry 22. -/
def Repair.reset : Repair where
  siteOf := Vector.ofFn fun i => some ⟨i.val, by omega⟩
  lanes := []
  sites := Vector.ofFn fun i => ⟨if i.val < 32 then 0 else 2, 0, 0⟩
  moveQueue := []
  swapQueue := []
  move := none
  items := []
  postponed := []
  tested := []
  hours := 0
  itemIndex := 0
  failures := 0
  nextSlot := 0

/-- The module without power. Choices: log entry 2. -/
def Power.reset : Power where
  st := .off
  target := none
  pfail := none
  drained := false
  holdStby := false
  head := false
  refext := false
  idleFromStandby := false
  ctRetained := false
  mbxRetained := false
  thermal := false
  domainT := 0
  dramT := 0
  plateT := 0
  telem := List.replicate 12 0
  uptimeMs := 0

/-- The machine right after reset: every register at its reset value, no command waiting, the module without power. -/
def State.reset : State where
  pending := []
  fresh := 0
  readData := []
  regs := []
  sram := Sram.reset
  dram := Dram.reset
  threads := Vector.replicate 264 Thread.reset
  ridges := Vector.replicate 32 Ridge.reset
  chains := Vector.replicate 16 ChainInst.reset
  matrix := Matrix.reset
  groups := Vector.replicate 16 LinkGroup.reset
  sides := Vector.replicate 128 LinkSide.reset
  col := Col.reset
  queues := Vector.replicate 16 AlnQueue.reset
  timer := Timer.reset
  servo := Vector.replicate 35 ⟨0, 0⟩
  mgt := Mgt.reset
  smc := Smc.reset
  fuses := Fuses.reset
  cairn := Cairn.reset
  repair := Repair.reset
  power := Power.reset

end Sys2Proof.Machine
end

