-- ==== Sys2Proof/Machine/Ops.lean ====
section
/-!
DEFINITION. The named operations over the state that the meanings share: threads, ridges, stored register fields,
events, machine checks, semaphores, cairn records, and taking an exception, halting and returning (R342 to R351).
-/

namespace Sys2Proof.Machine

/-! ### Components -/

/-- Thread `t`. -/
def State.thread (s : State) (t : ThreadId) : Thread := s.threads[t]
/-- The state with thread `t` replaced. -/
def State.setThread (s : State) (t : ThreadId) (th : Thread) : State := { s with threads := s.threads.set t.val th t.isLt }
/-- Ridge `g`. -/
def State.ridge (s : State) (g : RidgeId) : Ridge := s.ridges[g]
/-- The state with ridge `g` replaced. -/
def State.setRidge (s : State) (g : RidgeId) (r : Ridge) : State := { s with ridges := s.ridges.set g.val r g.isLt }
/-- Link group `n`. -/
def State.group (s : State) (n : Fin 16) : LinkGroup := s.groups[n]
/-- The state with link group `n` replaced. -/
def State.setGroup (s : State) (n : Fin 16) (g : LinkGroup) : State := { s with groups := s.groups.set n.val g n.isLt }
/-- Device link `l`. -/
def State.side (s : State) (l : Fin 128) : LinkSide := s.sides[l]
/-- The state with device link `l` replaced. -/
def State.setSide (s : State) (l : Fin 128) (x : LinkSide) : State := { s with sides := s.sides.set l.val x l.isLt }
/-- Alignment queue `q`. -/
def State.alnQueue (s : State) (q : Fin 16) : AlnQueue := s.queues[q]
/-- The state with alignment queue `q` replaced. -/
def State.setAlnQueue (s : State) (q : Fin 16) (x : AlnQueue) : State := { s with queues := s.queues.set q.val x q.isLt }

/-- The SMC instance's threads are 256 to 263 (R287). -/
def isSmcThread (t : ThreadId) : Bool := decide (256 ≤ t.val)
/-- The logical ridge of a ridge thread (0 for the SMC's, which have none). -/
def ridgeOf (t : ThreadId) : RidgeId := if h : t.val / 8 < 32 then ⟨t.val / 8, h⟩ else 0
/-- The thread number within its core. -/
def threadNo (t : ThreadId) : Fin 8 := ⟨t.val % 8, by omega⟩
/-- Thread `n` of ridge `g`. -/
def threadOf (g : RidgeId) (n : Fin 8) : ThreadId := ⟨8 * g.val + n.val, by omega⟩
/-- The eight thread numbers. -/
def threadNos : List (Fin 8) := List.finRange 8
/-- The 32 logical ridges. -/
def ridgeIds : List RidgeId := List.finRange 32

/-! ### Stored register bits -/

/-- Block number of a logical ridge. -/
def rgBlk (g : RidgeId) : Nat := 0xC0 + g.val
/-- Block number of a link group. -/
def lgBlk (n : Fin 16) : Nat := 0x30 + n.val
/-- Block number of a deep-store interface. -/
def dsBlk (i : Fin 32) : Nat := 0x10 + i.val

/-- The reset value of a register: DS_CTRL.RATE is 0x2 on the HF8128-16 (R2). -/
def State.regReset (s : State) (key : Nat) : Nat :=
  if key = regKey 0x10 0x40 ∧ !s.fuses.speed20 then 2 else regResetOf key

/-- The stored bits of the register at `off` of block `blk`. -/
def State.reg (s : State) (blk off : Nat) : Nat :=
  (Sparse.get (BitVec.ofNat 64 (s.regReset (regKey blk off))) s.regs (regKey blk off)).toNat

/-- The state with those bits set. Choices: log entry 23. -/
def State.setReg (s : State) (blk off v : Nat) : State :=
  { s with regs := Sparse.set (BitVec.ofNat 64 (s.regReset (regKey blk off))) s.regs (regKey blk off) (BitVec.ofNat 64 v) }

/-- A stored field. -/
def State.fieldOf (s : State) (blk off lo width : Nat) : Nat := field (s.reg blk off) lo width
/-- A stored one-bit field. -/
def State.flagOf (s : State) (blk off bit : Nat) : Bool := bitOf (s.reg blk off) bit
/-- The state with a stored field set. -/
def State.setFieldOf (s : State) (blk off lo width x : Nat) : State :=
  s.setReg blk off (setField (s.reg blk off) lo width x)
/-- The state with a stored one-bit field set. -/
def State.setFlagOf (s : State) (blk off bit : Nat) (b : Bool) : State := s.setFieldOf blk off bit 1 (b2n b)
/-- A counting field advanced by `n`; it stops at its maximum. -/
def State.countOf (s : State) (blk off lo width n : Nat) : State :=
  s.setFieldOf blk off lo width (satAdd width (s.fieldOf blk off lo width) n)
/-- R14: CFGERR of block `blk`. -/
def State.cfgerr (s : State) (blk : Nat) : State := s.setFlagOf blk 0x08 0 true

/-- R404: TMR_BXC, the bunch-crossing counter. -/
def State.bxc (s : State) : Nat := s.reg 0x07 0x20

/-- The registers of the blocks that `p` selects take their reset values. -/
def State.resetRegs (s : State) (p : Nat → Bool) : State :=
  { s with regs := s.regs.filter fun kv => !p kv.1 }

/-! ### Free values -/

/-- The state after one free value was taken. Choices: log entry 9. -/
def State.bump (s : State) : State := { s with fresh := s.fresh + 1 }

/-! ### Power and placement -/

/-- Power is on: not OFF. -/
def State.on (s : State) : Bool := s.power.st != .off
/-- The device is in RUN. -/
def State.inRun (s : State) : Bool := s.power.st == .run
/-- The die has supplies: IDLE or RUN (R483). -/
def State.dieOn (s : State) : Bool := s.power.st == .run || s.power.st == .idle

/-- The site that carries ridge `g`, if any (R17, R31). -/
def State.siteOf (s : State) (g : RidgeId) : Option SiteId := s.repair.siteOf[g]
/-- The ridge that a site carries, if any. -/
def State.ridgeAt (s : State) (st : SiteId) : Option RidgeId := ridgeIds.find? fun g => s.siteOf g == some st

/-- Ridge `g` is in retention, or waking from it (R254). -/
def State.retained (s : State) (g : RidgeId) : Bool :=
  s.flagOf (rgBlk g) 0x1408 0 || s.flagOf (rgBlk g) 0x1408 1 || s.flagOf (rgBlk g) 0x1408 2

/-- The apply phase of a full load runs (R51). -/
def State.applying (s : State) : Bool :=
  match s.smc.op with
  | some o => o.phase == .applying
  | none => false

/-- Ridge `g` runs: the device is in RUN, no apply phase runs, and the ridge is placed, not offline, not moving, not under
re-lath and not in retention. -/
def State.ridgeRuns (s : State) (g : RidgeId) : Bool :=
  s.inRun && !s.applying && (s.siteOf g).isSome && !(s.ridge g).offline && !(s.ridge g).relath && !(s.ridge g).moving && !s.retained g

/-! ### Events and doorbells (R262) -/

/-- Bit `e` set in an event set. -/
def setEvent (m : BitVec 256) (e : Nat) : BitVec 256 := m ||| BitVec.ofNat 256 (2 ^ e)
/-- Bit `e` cleared in an event set. -/
def clearEvent (m : BitVec 256) (e : Nat) : BitVec 256 := m &&& ~~~(BitVec.ofNat 256 (2 ^ e))
/-- The lowest event of a set. -/
def lowestEvent (m : BitVec 256) : Option Nat := (List.range 256).find? fun e => m.getLsbD e

/-- R262: event `e` is posted to owner tag `tag`: 8r + t, or 0x100 for the SMC. An event to a thread of a ridge that is
offline, in retention or under re-lath is discarded, and so is one to a tag that names no owner. -/
def State.postEvent (s : State) (tag e : Nat) : State :=
  if tag = 256 then { s with smc := { s.smc with events := setEvent s.smc.events (e % 256) } }
  else if h : tag < 256 then
    let t : ThreadId := ⟨tag, by omega⟩
    let g := ridgeOf t
    if (s.ridge g).offline || (s.ridge g).draining || (s.ridge g).relath || (s.ridge g).moving || s.retained g then s
    else s.setThread t { s.thread t with events := setEvent (s.thread t).events (e % 256) }
  else s

/-- R262: a doorbell write of `v`: bits above [7:0] post nothing and set DBERR. -/
def State.ringDoorbell (s : State) (tag v : Nat) : State :=
  if v < 256 then s.postEvent tag v else s.setFlagOf 0x06 0x08 2 true

/-! ### Machine checks (R346) -/

/-- Who made an access: a thread, a stream of a thread, or any other master, whose machine checks go to the SMC
(R244). -/
inductive Requester where
  | thread (t : ThreadId)
  | stream (g : RidgeId) (th : Fin 8)
  | other
  deriving DecidableEq, Repr

/-- R244, R346: a machine check with its SOURCE and address becomes pending at the thread concerned or the SMC. -/
def State.machineCheck (s : State) (who : Requester) (source addr : Nat) : State :=
  let mc : MCheck := ⟨BitVec.ofNat 64 source, BitVec.ofNat 48 addr⟩
  match who with
  | .thread t => s.setThread t { s.thread t with mchecks := (s.thread t).mchecks ++ [mc] }
  | .stream g n =>
    let t := threadOf g n
    s.setThread t { s.thread t with mchecks := (s.thread t).mchecks ++ [mc] }
  | .other => { s with smc := { s.smc with mchecks := s.smc.mchecks ++ [mc] } }

/-! ### Semaphores (R263 to R265) -/

/-- Semaphore `n`. -/
def State.sem (s : State) (n : Fin 256) : Sem := s.sram.sems[n]
/-- The state with semaphore `n` replaced. -/
def State.setSem (s : State) (n : Fin 256) (x : Sem) : State :=
  { s with sram := { s.sram with sems := s.sram.sems.set n.val x n.isLt } }

/-- R263: a read by owner tag `owner`: the value returned and the semaphore after it. -/
def Sem.acquire (x : Sem) (owner : Fin 257) : Nat × Sem :=
  match x.holder with
  | none => (b2n x.broken * 2 + owner.val * 256, { x with holder := some owner, broken := false })
  | some h => ((if h = owner then 3 else 1) + h.val * 256, x)

/-- R265: serving a break releases the semaphore and marks it broken; a release that came before it leaves nothing to
break. -/
def Sem.break (x : Sem) : Sem :=
  if x.holder.isSome then ⟨none, true, false⟩ else { x with breaking := false }

/-- The owner tag of a thread: SMC threads hold as the SMC. -/
def ownerTag (t : ThreadId) : Fin 257 := if h : t.val < 256 then ⟨t.val, by omega⟩ else 256

/-- R265: every semaphore that `owner` holds gets a break on its way. -/
def State.breakSemsOf (s : State) (owner : Fin 257) : State :=
  { s with sram := { s.sram with
      sems := s.sram.sems.map fun x => if x.holder = some owner then { x with breaking := true } else x } }

/-- R263: an acquire of semaphore `n`: the value read and the state after it. -/
def State.semAcquire (s : State) (owner : Fin 257) (n : Fin 256) : Nat × State :=
  let r := (s.sem n).acquire owner
  (r.1, s.setSem n r.2)

/-- R263: a write by the holder releases; any other write sets SEMERR. -/
def State.semRelease (s : State) (owner : Fin 257) (n : Fin 256) : State :=
  if (s.sem n).holder = some owner then s.setSem n { s.sem n with holder := none, breaking := false }
  else s.setFlagOf 0x06 0x08 1 true

/-! ### The cairn log (R466 to R471) -/

/-- R470: the types of repair records. -/
def isRepairRecord (typ : Nat) : Bool := decide (0x0100 ≤ typ ∧ typ ≤ 0x01FF)

/-- R467, R469: a record as made now: it has the next SEQ and the time of this moment. Choices: log entry 14. -/
def State.newRecord (s : State) (typ : BitVec 16) (body : List Byte) (items : List Nat) : Record where
  seq := s.cairn.nextSeq
  typ := typ
  boot := BitVec.ofNat 32 s.cairn.boot
  ms := BitVec.ofNat 32 s.power.uptimeMs
  tod := BitVec.ofNat 64 (s.reg 0x07 0x28)
  bxc := BitVec.ofNat 64 (s.reg 0x07 0x20)
  body := body
  items := items

/-- R469: a record is queued with its SEQ assigned. -/
def State.enqueueRecord (s : State) (typ : BitVec 16) (body : List Byte) (items : List Nat) : State :=
  { s with cairn := { s.cairn with queue := s.cairn.queue ++ [s.newRecord typ body items], nextSeq := s.cairn.nextSeq + 1 } }

/-- R470: whether LOGSTOP holds: the repair records alone fill the active segment's 49,152. Choices: log entry 56. -/
def State.logStop (s : State) : Bool :=
  let seg := if s.cairn.active1 then s.cairn.seg1 else s.cairn.seg0
  decide (49152 ≤ (seg.filter fun r => isRepairRecord r.typ.toNat).length)

/-- R469, R470: a record that the device generates: queued while fewer than 8 are, otherwise it waits; under LOGSTOP
only repair records are accepted. -/
def State.record (s : State) (typ : Nat) (body : List Byte) (items : List Nat) : State :=
  if s.logStop && !isRepairRecord typ then s
  else if s.cairn.queue.length < 8 && s.cairn.waiting.isEmpty then s.enqueueRecord (BitVec.ofNat 16 typ) body items
  else { s with cairn := { s.cairn with waiting := s.cairn.waiting ++ [(BitVec.ofNat 16 typ, body, items)] } }

/-- A record of the device with the items that R468 names for its type (DESIGN CHOICE, log entry 14). -/
def State.note (s : State) (typ : Nat) (items : List Nat) : State := s.record typ ((Config.recordBody typ items).take 220) items

/-! ### Dust sheets (R281) -/

/-- The sheet covers `p`. -/
def State.cover (s : State) (p : SheetPart) : State :=
  if s.matrix.sheets.contains p then s else { s with matrix := { s.matrix with sheets := s.matrix.sheets ++ [p] } }

/-- Whether the requests of master `m` belong to part `p`. -/
def sheetCovers (p : SheetPart) (m : Master) : Bool :=
  match p, m with
  | .ridge g, .stream g' _ => g == g'
  | .ridge g, .core t => !isSmcThread t && ridgeOf t == g
  | .thread t, .core t' => t == t'
  | .group n, .ingress n' => n == n'
  | .group n, .egress n' => n == n'
  | _, _ => false

/-- Whether transaction `x` belongs to part `p` (R281). -/
def coversTxn (p : SheetPart) (x : Txn) : Bool :=
  match p with
  | .stream g slot => (match x.m with
      | .stream g' _ => g == g' && x.slot == some slot
      | _ => false)
  | p => sheetCovers p x.m

/-- A master under a sheet issues no new transaction (R282). -/
def State.sheeted (s : State) (m : Master) : Bool := s.matrix.sheets.any fun p => sheetCovers p m

/-- R282: requests of a covered part that still wait in input queues are discarded; those in flight complete with
their responses discarded. -/
def State.dropWaiting (s : State) (p : SheetPart) : State :=
  { s with matrix := { s.matrix with
      waiting := s.matrix.waiting.filter fun x => !coversTxn p x
      flight := s.matrix.flight.map fun x => if coversTxn p x then { x with covered := true } else x } }

/-- A transaction is a read. -/
def Txn.isRead (x : Txn) : Bool :=
  match x.acc with
  | .read _ => true
  | .write _ => false

/-- R281, R282: at a halt the reads of thread `t` come under the sheet; its stores still drain. -/
def State.coverReads (s : State) (t : ThreadId) : State :=
  let mine (x : Txn) : Bool := x.m == .core t && x.isRead
  { s with matrix := { s.matrix with
      waiting := s.matrix.waiting.filter fun x => !mine x
      flight := s.matrix.flight.map fun x => if mine x then { x with covered := true } else x } }

/-! ### Delayed writes (R291 to R294) -/

/-- One write takes effect. -/
def CoreRegs.apply (r : CoreRegs) (w : PendWrite) : CoreRegs :=
  match w.dst with
  | .d n => { r with d := r.d.set n.toNat (w.val.setWidth 64) n.isLt }
  | .aBase n => { r with aBase := r.aBase.set n.toNat (w.val.setWidth 48) n.isLt }
  | .xMov n => { r with xMov := r.xMov.set n.toNat w.val n.isLt }
  | .ts => { r with ts := w.val.setWidth 64 }

/-- R291, R293: one instruction boundary: writes with no instruction left take effect in issue order, the others come
one closer. -/
def advancePend (r : CoreRegs) (ws : List PendWrite) : CoreRegs × List PendWrite :=
  ws.foldl (fun acc w =>
    if w.left = 0 then (acc.1.apply w, acc.2) else (acc.1, acc.2 ++ [{ w with left := w.left - 1 }])) (r, [])

/-- R293, R294: every pending write takes effect, the one that would take effect later last. -/
def flushPend (n : Nat) (r : CoreRegs) (ws : List PendWrite) : CoreRegs :=
  match n with
  | 0 => r
  | n + 1 => flushPend n (advancePend r ws).1 (advancePend r ws).2

/-- The longest distance of R292 is 4, so five boundaries flush everything. -/
def CoreRegs.flush (r : CoreRegs) (ws : List PendWrite) : CoreRegs := flushPend 5 r ws

/-- R180: flags are ORed into TS and into a value still on its way to TS. -/
def Thread.raise (th : Thread) (f : Flags) : Thread :=
  { th with
    r := { th.r with ts := tsOrFlags th.r.ts f }
    pend := th.pend.map fun w =>
      if w.dst = .ts then { w with val := (tsOrFlags (w.val.setWidth 64) f).setWidth 128 } else w }

/-! ### Exceptions (R342 to R351) -/

/-- A cause with what entry or a halt writes: XCAUSE, XINFO, XADDR. -/
structure Exc where
  cause : Nat
  info : Nat
  addr : Nat
  deriving DecidableEq, Repr

/-- R342: the vector offset of a cause. -/
def vectorOffset (cause : Nat) : Nat :=
  if 1 ≤ cause ∧ cause ≤ 7 then 0x40 * cause
  else if cause = 0x10 then 0x200
  else 0x240

/-- R342: handler ring: the ring itself when 0 or 1, otherwise ring 1. -/
def handlerRing (ring : Nat) : Nat := if ring ≤ 1 then ring else 1

/-- R342, R343, R345: exception entry of a thread whose registers, with pending writes in effect, are `r`; `xpc` and `ds`
are the return point of R343. The handler ring comes from the ring in force. -/
def Thread.enterFrom (th : Thread) (r : CoreRegs) (e : Exc) (xpc : Addr) (ds : Bool) : Thread :=
  let xts := setField r.ts.toNat 3 1 (b2n ds)
  let ts := setField (setField (setField r.ts.toNat 0 2 (handlerRing (tsRing th.r.ts))) 2 1 1) 26 6 0
  { th with
    r := { r with
      xpc := xpc.setWidth 64
      xts := BitVec.ofNat 64 xts
      xcause := BitVec.ofNat 64 e.cause
      xinfo := BitVec.ofNat 64 e.info
      xaddr := BitVec.ofNat 64 e.addr
      ts := BitVec.ofNat 64 ts }
    pc := BitVec.ofNat 48 (r.tv.toNat / 1024 * 1024 + vectorOffset e.cause)
    pend := []
    slot := none
    park := none
    held := none
    routine := none
    st := .running }

/-- R342, R294: exception entry. Pending writes take effect first, so XTS takes a TS write on its way (R302). -/
def Thread.enter (th : Thread) (e : Exc) (xpc : Addr) (ds : Bool) : Thread := th.enterFrom (th.r.flush th.pend) e xpc ds

/-- R350: the sub-code a halt reports for the cause it would have taken. -/
def haltSubcode (e : Exc) : Nat :=
  if e.cause = 0x04 then field e.info 8 8 else if e.cause = 0x01 then 0 else field e.info 0 8

/-- R350: XINFO of a halt in place of the exception `e`. -/
def haltInfo (e : Exc) : Nat := e.cause + 256 * haltSubcode e

/-- R350: a halt writes XCAUSE 0x08, XINFO and XADDR into the registers `r`, and leaves XPC, XTS and the PC. -/
def Thread.haltFrom (th : Thread) (r : CoreRegs) (info addr : Nat) : Thread :=
  { th with
    r := { r with
      xcause := 0x08
      xinfo := BitVec.ofNat 64 info
      xaddr := BitVec.ofNat 64 addr }
    pend := []
    slot := none
    park := none
    held := none
    routine := none
    st := .halted }

/-- R350, R294: a halt, with pending writes in effect. -/
def Thread.halt (th : Thread) (info addr : Nat) : Thread := th.haltFrom (th.r.flush th.pend) info addr

/-- R351: the halt of a ridge thread posts event 0x80 + r to the SMC; that of SMC thread t posts 0xA0 + t to the other
SMC threads. -/
def State.haltEvent (s : State) (t : ThreadId) : State :=
  if isSmcThread t then
    threadNos.foldl (fun s n =>
      if n = threadNo t then s
      else
        let u : ThreadId := ⟨256 + n.val, by omega⟩
        s.setThread u { s.thread u with events := setEvent (s.thread u).events (0xA0 + (threadNo t).val) }) s
  else s.postEvent 256 (0x80 + (ridgeOf t).val)

/-- A request of thread `t` that waits for a reservation is withdrawn. -/
def State.unregister (s : State) (t : ThreadId) : State :=
  { s with matrix := { s.matrix with requests := s.matrix.requests.filter fun r => r.1 != t } }

/-- R350, R265, R281: a thread halts: its semaphores break, its buffered stores still drain and its requests come under
the dust sheet. -/
def State.haltThread (s : State) (t : ThreadId) (info addr : Nat) : State :=
  let s := s.setThread t ((s.thread t).halt info addr)
  let s := s.unregister t
  let s := s.breakSemsOf (ownerTag t)
  let s := (s.cover (.thread t)).coverReads t
  s.haltEvent t

/-- A synchronous exception of thread `t` (R342, R343, R350): a halt while GM = 1, otherwise entry; in a delay slot XPC is
the branch and DS = 1. -/
def State.syncException (s : State) (t : ThreadId) (e : Exc) : State :=
  let th := s.thread t
  if tsGM th.r.ts then s.haltThread t (haltInfo e) e.addr
  else
    let s := s.unregister t
    match th.slot with
    | some sl => s.setThread t (th.enter e sl.branch true)
    | none => s.setThread t (th.enter e th.pc false)

/-- R347: what RETX finds when its second microword issues. -/
inductive RetxCheck where
  | illegal
  | privilege
  | ok
  deriving DecidableEq, Repr

/-- R347: the checks on XTS, with every pending TS write in effect (R302). -/
def retxCheck (r : CoreRegs) : RetxCheck :=
  let xts := r.xts.toNat
  if field xts 4 12 ≠ 0 ∨ field xts 32 32 ≠ 0 ∨ tsRmReserved r.xts then .illegal
  else if tsRing r.xts < tsRing r.ts then .privilege
  else .ok

/-- R347: the restore over the registers `r`: RING, GM, RM and TEN from XTS, FLG merged, the PC from XPC, whose bits
[1:0] are ignored (R305: those of every PC are zero). -/
def Thread.restoreFrom (th : Thread) (r : CoreRegs) : Thread :=
  let ts := setField r.xts.toNat 3 1 0 ||| (tsFlg r.ts).toNat * 2 ^ 20
  { th with
    r := { r with ts := BitVec.ofNat 64 ts }
    pc := BitVec.ofNat 48 (r.xpc.toNat / 4 * 4)
    pend := []
    routine := none }

/-- R347, R294: the restore, with pending writes in effect. -/
def Thread.restore (th : Thread) : Thread := th.restoreFrom (th.r.flush th.pend)

/-! ### Resets (R303, R281) -/

/-- R303, R265, R281, R282: a thread enters the reset state; buffered stores, pending writes and events are
discarded. -/
def State.resetThread (s : State) (t : ThreadId) : State :=
  let s := s.setThread t { Thread.reset with pc := 0, dq := [] }
  let s := s.unregister t
  let s := s.breakSemsOf (ownerTag t)
  let s := s.cover (.thread t)
  s.dropWaiting (.thread t)

end Sys2Proof.Machine
end

