-- ==== Sys2Proof/Machine/Memory.lean ====
section
/-!
DEFINITION. The address map (R15), the on-die memories with their ECC (R240 to R265), the deep store with its interleave
and ECC windows (R213 to R228), and the protection windows (R336).
-/

namespace Sys2Proof.Machine

/-! ### Addresses -/

/-- First address of the ledges of RG00 to RG31. -/
def ledgeBase : Nat := 0x008000000000
/-- First address of the ledges of the two sites that carry no ridge. -/
def scaffoldBase : Nat := 0x008008000000
/-- First address of the channel table. -/
def ctBase : Nat := 0x009000000000
/-- First address of the mailbox. -/
def mbxBase : Nat := 0x009800000000
/-- First address of the alignment queue ports. -/
def portBase : Nat := 0x00A000000000
/-- First address of configuration space. -/
def cfgBase : Nat := 0x00F000000000
/-- The range the deep store can never leave. -/
def deepEnd : Nat := 0x002000000000
/-- Distance of the bit-set aliases. -/
def aliasSet : Nat := 0x040000000000
/-- Distance of the bit-clear aliases. -/
def aliasClear : Nat := 0x080000000000

/-- What an address names (R15). -/
inductive Region where
  | deep
  | aboveTop
  | ledge (g : RidgeId) (off : Nat)
  | scaffold (k : Fin 2) (off : Nat)
  | channelTable (c : Nat)
  | mailbox (off : Nat)
  | semaphore (n : Fin 256)
  | doorbell (tag : Fin 257)
  | queuePort (q : Fin 16)
  | config (blk off : Nat)
  | aliasOf (clear : Bool) (target : Nat)
  | outside
  deriving DecidableEq, Repr

/-! ### The deep store: map and windows -/

/-- R221: the physical bank of entry `n` of the default map. -/
def defaultBank (n : Nat) : Nat := 32 * (n % 32) + 16 * (n / 32 % 2) + n / 64

/-- R221: the entry in which the default map holds physical bank `pb`. -/
def defaultEntry (pb : Nat) : Nat := 64 * (pb % 16) + 32 * (pb / 16 % 2) + pb / 32

/-- R221: entry `n` of the default map. -/
def defaultMapEntry (n : Nat) : MapEntry := ⟨BitVec.ofNat 10 (defaultBank n), if n < 1021 then 0 else 1⟩

/-- Entry `n` of the bank map. -/
def State.mapEntry (s : State) (n : Nat) : MapEntry := Sparse.get (defaultMapEntry n) s.dram.map n

/-- R237: S, the number of slots. -/
def State.slots (s : State) : Nat :=
  if s.dram.map.isEmpty then 1021 else ((List.range 1024).filter fun n => (s.mapEntry n).st == 0).length

/-- R220: the number of addresses below the top: TOP + 1. -/
def State.deepSize (s : State) : Nat := s.slots * 134217728

/-- R220: slot and within-slot index of a raw address. -/
def State.slotOf (s : State) (raw : Nat) : Nat × Nat := (raw / 32 % s.slots, raw / 32 / s.slots)

/-- DS_MIGRATE.ACTIVE. -/
def State.migrating (s : State) : Bool := s.flagOf 0x10 0x50 0
/-- DS_MIGRATE.FENCE. -/
def State.fence (s : State) : Nat := s.fieldOf 0x10 0x50 32 17

/-- R220, R235: the physical bank of a raw address; a row of the slot under migration below the fence lies in the
target bank. -/
def State.bankOf (s : State) (raw : Nat) : Nat :=
  let q := s.slotOf raw
  if s.migrating && q.1 == s.fieldOf 0x10 0x50 8 10 && decide (q.2 / 64 < s.fence) then s.fieldOf 0x10 0x50 20 10
  else (s.mapEntry q.1).pb.toNat

/-- The interface of a physical bank (R213). -/
def ifaceOf (pb : Nat) : Fin 32 := ⟨pb / 32 % 32, by omega⟩

/-- R223: base and size of window `n` in bytes when it is enabled. -/
def State.window (s : State) (n : Nat) : Option (Nat × Nat) :=
  let v := s.reg 0x10 (0x100 + 8 * n)
  if bitOf v 48 then some (field v 0 21 * 65536, field v 24 21 * 65536) else none

/-- R223: translation through the enabled windows; `check` is the address of the word's check byte. -/
def State.deepPlace (s : State) (a : Nat) : DeepPlace :=
  let hit := (List.range 16).find? fun n =>
    match s.window n with
    | some (b, z) => decide (b ≤ a ∧ a < b + z)
    | none => false
  match hit with
  | none => .raw a
  | some n =>
    match s.window n with
    | none => .raw a
    | some (b, z) =>
      if a < b + z / 8 * 7 then
        let j := (a - b) / 32
        let g := b / 32 + j / 7 * 8 + j % 7
        let gc := b / 32 + j / 7 * 8 + 7
        .windowed n (g * 32 + a % 32) (gc * 32 + 4 * (j % 7) + a % 32 / 8)
      else .checkRange

/-- R15, R220, R223: the region of an address below the end of the deep-store range. -/
def State.deepRegion (s : State) (a : Nat) : Region :=
  if s.deepSize ≤ a then .aboveTop
  else
    match s.deepPlace a with
    | .checkRange => .outside
    | _ => .deep

/-! ### Ledges -/

/-- Banks of ridge `g`'s ledge that it runs without (R249). -/
def State.lostBulk (s : State) (g : RidgeId) : List Nat :=
  (List.range 32).filter fun b => s.sram.lost.any (· == .bulk g ⟨b % 32, by omega⟩)

/-- R249: the number of bulk bytes of ridge `g`'s ledge. -/
def State.bulkSize (s : State) (g : RidgeId) : Nat := (32 - (s.lostBulk g).length) * 65536

/-- R250: saddle bank `b` of ridge `g` is missing. -/
def State.saddleLost (s : State) (g : RidgeId) (b : Fin 2) : Bool := s.sram.lost.any (· == .saddle g b)

/-- R240, R249, R250: whether a ledge offset lies in the bulk or a present saddle bank. -/
def State.ledgeHas (s : State) (g : RidgeId) (off : Nat) : Bool :=
  if off < 0x200000 then decide (off < s.bulkSize g)
  else if off < 0x210000 then !s.saddleLost g 0
  else if off < 0x220000 then !s.saddleLost g 1
  else false

/-- A ledge is reachable: its ridge is placed and its ledge is not in retention (R254), in which IDLE holds every ledge
(R483). -/
def State.ledgeOn (s : State) (g : RidgeId) : Bool := (s.siteOf g).isSome && !s.retained g && s.inRun

/-- R241, R63: the `k`-th site that carries no ridge, and whether its domain is powered (for a full site test). -/
def State.spareSite (s : State) (k : Fin 2) : Option SiteId :=
  ((List.finRange 34).filter fun st => (s.ridgeAt st).isNone)[k.val]?

/-- R63: CODE of the VCORE domain of a site; 0 while the domain is off. -/
def State.siteCode (s : State) (st : SiteId) : Nat := s.fieldOf 0x03 (0x100 + 8 * st.val) 0 7

/-- R241: the ledge of a spare site is reachable while the site's domain is on. -/
def State.spareOn (s : State) (k : Fin 2) : Bool :=
  match s.spareSite k with
  | some st => s.dieOn && s.siteCode st != 0
  | none => false

/-- R261, R15: the region of a mailbox address. -/
def mailboxRegion (off : Nat) : Region :=
  if off < 0x40000 then .mailbox off
  else if off < 0x40800 then .semaphore ⟨(off - 0x40000) / 8 % 256, by omega⟩
  else if 0x41000 ≤ off ∧ off < 0x41800 then .doorbell ⟨(off - 0x41000) / 8 % 257, by omega⟩
  else if 0x41800 ≤ off ∧ off < 0x41808 then .doorbell 256
  else .outside

/-- The region of an address below the aliases. -/
def State.baseRegion (s : State) (a : Nat) : Region :=
  if a < deepEnd then s.deepRegion a
  else if ledgeBase ≤ a ∧ a < scaffoldBase then
    let g : RidgeId := ⟨(a - ledgeBase) / 0x400000 % 32, by omega⟩
    let off := (a - ledgeBase) % 0x400000
    if s.ledgeOn g && s.ledgeHas g off then .ledge g off else .outside
  else if scaffoldBase ≤ a ∧ a < scaffoldBase + 0x800000 then
    let k : Fin 2 := ⟨(a - scaffoldBase) / 0x400000 % 2, by omega⟩
    let off := (a - scaffoldBase) % 0x400000
    if s.spareOn k && decide (off < 0x220000) then .scaffold k off else .outside
  else if ctBase ≤ a ∧ a < ctBase + 0x1000000 then .channelTable ((a - ctBase) / 8)
  else if mbxBase ≤ a ∧ a < mbxBase + 0x41808 then mailboxRegion (a - mbxBase)
  else if portBase ≤ a ∧ a < portBase + 0x100000 then .queuePort ⟨(a - portBase) / 0x10000 % 16, by omega⟩
  else if cfgBase ≤ a ∧ a < cfgBase + 0x1000000 then
    if blockDefined ((a - cfgBase) / 65536) then .config ((a - cfgBase) / 65536) ((a - cfgBase) % 65536) else .outside
  else .outside

/-- R253: a byte of ledge or mailbox data has aliases. -/
def aliasable (r : Region) : Bool :=
  match r with
  | .ledge _ _ => true
  | .scaffold _ _ => true
  | .mailbox _ => true
  | _ => false

/-- R15: the region of any address. -/
def State.region (s : State) (a : Nat) : Region :=
  if aliasClear ≤ a then
    (if a < 2 * aliasClear ∧ aliasable (s.baseRegion (a - aliasClear)) then .aliasOf true (a - aliasClear) else .outside)
  else if aliasSet ≤ a then
    (if aliasable (s.baseRegion (a - aliasSet)) then .aliasOf false (a - aliasSet) else .outside)
  else s.baseRegion a

/-! ### Banks (R245, R247, R256, R261) -/

/-- R245, R247, R249: the bulk bank of an offset under the ledge's mode. -/
def State.bulkBank (s : State) (g : RidgeId) (off : Nat) : Nat :=
  let part := s.reg (rgBlk g) 0x1400
  let lost := s.lostBulk g
  if !bitOf part 0 && lost.isEmpty then off / 16 % 32
  else
    let healthy := (List.range 32).filter fun b => !lost.contains b
    let n := healthy.length
    let a := min (field part 8 6) n
    let b := min (field part 16 6) (n - a)
    let w := min (field part 24 6) (n - a - b)
    let pick (start count : Nat) : Nat := nth 0 healthy (start + (off - start * 65536) / 16 % max count 1)
    if off < a * 65536 then pick 0 a
    else if off < (a + b) * 65536 then pick a b
    else if off < (a + b + w) * 65536 then pick (a + b) w
    else pick (a + b + w) (n - a - b - w)

/-- R245, R247: the bank of a ledge offset: 0 to 31 of the bulk, 32 and 33 of the saddle. -/
def State.ledgeBank (s : State) (g : RidgeId) (off : Nat) : Fin 34 :=
  if off < 0x200000 then ⟨s.bulkBank g off % 32, by omega⟩ else if off < 0x210000 then 32 else 33

/-- R245: the bank of an offset in the ledge of a site that carries no ridge. -/
def scaffoldBank (off : Nat) : Fin 34 := if off < 0x200000 then ⟨off / 16 % 32, by omega⟩ else if off < 0x210000 then 32 else 33

/-- R267: the arbitration point of an address; a deep-store address has its interface instead. -/
def State.arbPoint (s : State) (a : Nat) : Option ArbPoint :=
  match s.region a with
  | .ledge g off => some (.ledge ⟨g.val, by omega⟩ (s.ledgeBank g off))
  | .scaffold k off => some (.ledge ⟨32 + k.val, by omega⟩ (scaffoldBank off))
  | .channelTable c => some (.channelTable ⟨c % 16, by omega⟩)
  | .mailbox off => some (.mailbox ⟨off / 8 % 8, by omega⟩)
  | .semaphore _ => some .special
  | .doorbell _ => some .special
  | .config _ _ => some .config
  | .aliasOf _ t =>
    match s.baseRegion t with
    | .ledge g off => some (.ledge ⟨g.val, by omega⟩ (s.ledgeBank g off))
    | .scaffold k off => some (.ledge ⟨32 + k.val, by omega⟩ (scaffoldBank off))
    | .mailbox off => some (.mailbox ⟨off / 8 % 8, by omega⟩)
    | _ => none
  | _ => none

/-! ### Bytes on the die -/

/-- R37, R476: what an unlisted address reads as: zero, but for the MASKED flag of a channel-table entry. Choices:
log entry 23. -/
def sramDefault (a : Nat) : Byte := if ctBase ≤ a ∧ a < ctBase + 0x1000000 ∧ a % 8 = 6 then 0x10 else 0

/-- One stored byte of an on-die memory. -/
def State.sramByte (s : State) (a : Nat) : Byte := Sparse.get (sramDefault a) s.sram.mem a

/-- One byte stored. Choices: log entry 23. -/
def Sram.setByte (m : Sram) (a : Nat) (b : Byte) : Sram := { m with mem := Sparse.set (sramDefault a) m.mem a b }

/-- Bytes stored from address `a` upward. -/
def Sram.setBytes (m : Sram) (a : Nat) (bs : List Byte) : Sram :=
  match bs with
  | [] => m
  | b :: rest => (m.setByte a b).setBytes (a + 1) rest

/-- The bytes stored from address `a` upward. -/
def State.sramBytes (s : State) (a n : Nat) : List Byte := (List.range n).map fun i => s.sramByte (a + i)

/-- The 8-byte-aligned addresses of the words that `n` bytes from `a` touch. -/
def wordsOf (a n : Nat) : List Nat :=
  if n = 0 then [] else (List.range ((a + n - 1) / 8 - a / 8 + 1)).map fun i => (a / 8 + i) * 8

/-- The disturbance of the stored word at `w`. -/
def State.flip (s : State) (w : Nat) : BitVec 72 := Sparse.get 0 s.sram.flips w

/-- A disturbance added to the stored word at `w`. Choices: log entry 57. -/
def State.upset (s : State) (w : Nat) (u : BitVec 72) : State :=
  { s with sram := { s.sram with flips := Sparse.set 0 s.sram.flips w (s.flip w ^^^ u) } }

/-- R224: the class of the stored word at `w`; the code is linear, so the disturbance alone decides it. Choices: log
entry 57. -/
def State.wordClass (s : State) (w : Nat) : EccClass :=
  eccClass ((s.flip w).toNat % 2 ^ 64) ((s.flip w).toNat / 2 ^ 64)

/-- R244, R260: the bytes a read of the word at `w` returns: corrected data, or 0xFF throughout. -/
def State.wordRead (s : State) (w : Nat) : List Byte :=
  match s.wordClass w with
  | .uncorrectable => List.replicate 8 0xFF
  | c => leBytes 8 (eccCorrect c (leNat (s.sramBytes w 8) ^^^ ((s.flip w).toNat % 2 ^ 64)))

/-- R346: the SOURCE of a machine check by requester and memory. -/
def sourceOf (who : Requester) (r : Region) : Nat :=
  match r, who with
  | .ledge _ _, .stream _ _ => 0x15
  | .ledge g _, .thread t => if !isSmcThread t && ridgeOf t == g then 0x10 else 0x11
  | .channelTable _, _ => 0x13
  | .mailbox _, _ => 0x12
  | _, _ => 0x11

/-- R244, R260: what finding class `c` at word `w` counts and records. -/
def State.noteWord (s : State) (who : Requester) (w : Nat) (c : EccClass) : State :=
  let r := s.baseRegion w
  match c, r with
  | .clean, _ => s
  | .uncorrectable, .ledge g off =>
    ((s.countOf (rgBlk g) 0x1410 16 16 1).setFieldOf (rgBlk g) 0x1410 32 22 off).machineCheck who (sourceOf who r) w
  | .uncorrectable, .mailbox off =>
    ((s.countOf 0x06 0x10 16 16 1).setFieldOf 0x06 0x10 32 18 off).machineCheck who (sourceOf who r) w
  | .uncorrectable, .channelTable c =>
    let s := ((s.countOf 0x05 0x10 16 16 1).setFieldOf 0x05 0x10 32 21 c).setFlagOf 0x05 0x10 63 true
    match who with
    | .stream _ _ => s
    | _ => s.machineCheck who 0x13 w
  | .uncorrectable, _ => s.machineCheck who 0x11 w
  | _, .ledge g _ => s.countOf (rgBlk g) 0x1410 0 16 1
  | _, .mailbox _ => s.countOf 0x06 0x10 0 16 1
  | _, .channelTable _ => s.countOf 0x05 0x10 0 16 1
  | _, _ => s

/-- R244: a corrected word waits for the bank's write-back. -/
def State.queueWriteback (s : State) (w : Nat) (c : EccClass) : State :=
  if c.counted && !s.sram.writeback.contains w then
    { s with sram := { s.sram with writeback := s.sram.writeback ++ [w] } }
  else s

/-- R244: a read of one word: what it counts, records and writes back. Choices: log entry 57. -/
def State.readWordEffects (s : State) (who : Requester) (w : Nat) : State :=
  (s.noteWord who w (s.wordClass w)).queueWriteback w (s.wordClass w)

/-- What a read of memory gives: the bytes, whether a word was uncorrectable, and the state after it. -/
structure ReadResult where
  bytes : List Byte
  bad : Bool
  st : State

/-- R244, R260: a read of `n` bytes of on-die memory from address `a`. -/
def State.sramRead (s : State) (who : Requester) (a n : Nat) : ReadResult :=
  let ws := wordsOf a n
  { bytes := ((ws.flatMap s.wordRead).drop (a % 8)).take n
    bad := ws.any fun w => s.wordClass w == .uncorrectable
    st := ws.foldl (fun s w => s.readWordEffects who w) s }

/-- The word at `w` takes the given bytes and a valid check byte. -/
def State.storeWord (s : State) (w : Nat) (bs : List Byte) : State :=
  { s with sram := { (s.sram.setBytes w bs) with
      flips := Sparse.erase s.sram.flips w
      writeback := s.sram.writeback.filter (· != w) } }

/-- R244, R252: one indivisible read-modify-write of the word at `w`: `f` gives the new bytes from the old; a merge
that finds an uncorrectable word writes nothing. -/
def State.mergeWord (s : State) (who : Requester) (w : Nat) (f : List Byte → List Byte) : State :=
  match s.wordClass w with
  | .uncorrectable => s.noteWord who w .uncorrectable
  | c => (s.noteWord who w c).storeWord w (f (s.wordRead w))

/-- The bytes of `old`, a word at `w`, with those that the write of `bs` at `a` covers replaced. -/
def overlay (w : Nat) (old : List Byte) (a : Nat) (bs : List Byte) : List Byte :=
  (List.range 8).map fun i => if a ≤ w + i ∧ w + i < a + bs.length then nth 0 bs (w + i - a) else nth 0 old i

/-- Whether a write of `n` bytes at `a` covers the whole word at `w`. -/
def coversWord (w a n : Nat) : Bool := decide (a ≤ w ∧ w + 8 ≤ a + n)

/-- R244, R259: a write of bytes to on-die memory at `a`. -/
def State.sramWrite (s : State) (who : Requester) (a : Nat) (bs : List Byte) : State :=
  (wordsOf a bs.length).foldl (fun s w =>
    if coversWord w a bs.length then s.storeWord w (overlay w [] a bs)
    else s.mergeWord who w fun old => overlay w old a bs) s

/-- R253: the bit-set (or bit-clear) write of `bs` at data address `a`. -/
def State.sramAlias (s : State) (who : Requester) (clear : Bool) (a : Nat) (bs : List Byte) : State :=
  (wordsOf a bs.length).foldl (fun s w =>
    s.mergeWord who w fun old =>
      (List.range 8).map fun i =>
        let o := nth 0 old i
        if a ≤ w + i ∧ w + i < a + bs.length then
          (if clear then o &&& ~~~(nth 0 bs (w + i - a)) else o ||| nth 0 bs (w + i - a))
        else o) s

/-! ### Bytes of the deep store -/

/-- Whether a zeroed range holds the raw address. -/
def Dram.zeroed (d : Dram) (raw : Nat) : Bool := d.zeros.any fun r => decide (r.1 ≤ raw ∧ raw < r.2)

/-- R476: what an unlisted raw address reads as: zero where zeroing went, otherwise the free value of its epoch.
Choices: log entry 3. -/
def Dram.default (d : Dram) (raw : Nat) : Byte := if d.zeroed raw then 0 else Config.deepByte d.epoch raw

/-- One stored byte of the deep store. Choices: log entry 3. -/
def Dram.byte (d : Dram) (raw : Nat) : Byte := Sparse.get (d.default raw) d.deep raw

/-- One byte stored. A byte equal to what a zeroed range reads as is not listed. Choices: log entry 3. -/
def Dram.setByte (d : Dram) (raw : Nat) (b : Byte) : Dram :=
  { d with deep :=
      if d.zeroed raw && b == 0 then Sparse.erase d.deep raw else Sparse.insert (Sparse.erase d.deep raw) raw b }

/-- Bytes stored from `raw` upward. -/
def Dram.setBytes (d : Dram) (raw : Nat) (bs : List Byte) : Dram :=
  match bs with
  | [] => d
  | b :: rest => (d.setByte raw b).setBytes (raw + 1) rest

/-- A range added to disjoint rising ranges; touching ranges merge. -/
def addRange (lo hi : Nat) (rs : List (Nat × Nat)) : List (Nat × Nat) :=
  match rs with
  | [] => [(lo, hi)]
  | (a, b) :: rest =>
    if hi < a then (lo, hi) :: (a, b) :: rest
    else if b < lo then (a, b) :: addRange lo hi rest
    else addRange (min lo a) (max hi b) rest

/-- Raw addresses `lo` to `hi - 1` zeroed (R225). -/
def Dram.zeroRange (d : Dram) (lo hi : Nat) : Dram :=
  if lo < hi then { d with deep := d.deep.filter (fun c => decide (c.1 < lo ∨ hi ≤ c.1)), zeros := addRange lo hi d.zeros } else d

/-- The contents are lost: unspecified until written again (R476). Choices: log entry 3. -/
def Dram.lose (d : Dram) : Dram := { d with deep := [], zeros := [], epoch := d.epoch + 1, checkCache := [] }

/-- The bytes stored from `raw` upward. -/
def State.deepBytes (s : State) (raw n : Nat) : List Byte := (List.range n).map fun i => s.dram.byte (raw + i)

/-- R224: the class of the windowed word at raw address `raw` with its check byte at `check`. -/
def State.deepClass (s : State) (raw check : Nat) : EccClass :=
  eccClass (leNat (s.deepBytes raw 8)) (s.dram.byte check).toNat

/-- R234: a bank that is a slot is queued for a retiring migration, once, with its cause: 1 corrections, 2 an
uncorrectable word, 3 a failed test. Choices: log entry 36. -/
def State.retireBank (s : State) (pb cause : Nat) : State :=
  let isSlot := (List.range s.slots).any fun n => (s.mapEntry n).pb.toNat == pb
  if isSlot && !s.dram.recordedBad.contains pb && !(s.dram.migQueue.any fun q => q.1 == pb && q.2 != 0) then
    { s with dram := { s.dram with migQueue := s.dram.migQueue ++ [(pb, cause)] } }
  else s

/-- R234: a correction on bank `pb`: 16 within any 24 h retire it; the time is that since power-up. Choices: log entries
18 and 54. -/
def State.noteCorrection (s : State) (pb : Nat) : State :=
  let now := s.power.uptimeMs
  let cs := (s.dram.corrections.filter fun c => decide (now ≤ c.2 + 86400000)) ++ [(pb, now)]
  let s := { s with dram := { s.dram with corrections := cs } }
  if 16 ≤ (cs.filter fun c => c.1 == pb).length then s.retireBank pb 1 else s

/-- R228: what a read that finds class `c` in the windowed word of address `a` counts and records. -/
def State.noteDeepWord (s : State) (who : Requester) (a raw check : Nat) (c : EccClass) : State :=
  match c with
  | .clean => s
  | .uncorrectable =>
    let pb := s.bankOf raw
    let blk := dsBlk (ifaceOf pb)
    let s := s.countOf blk 0x18 16 16 1
    let s := ((s.setFieldOf blk 0x20 0 48 a).setFieldOf blk 0x20 48 10 pb).setFlagOf blk 0x20 63 true
    let s := s.retireBank pb 2
    match who with
    | .thread t => s.machineCheck (.thread t) 0x14 a
    | _ => s
  | .corrected pos =>
    let pb := if (eccDataBit pos).isSome then s.bankOf raw else s.bankOf check
    (s.countOf (dsBlk (ifaceOf pb)) 0x18 0 16 1).noteCorrection pb
  | .checkBit =>
    let pb := s.bankOf check
    (s.countOf (dsBlk (ifaceOf pb)) 0x18 0 16 1).noteCorrection pb

/-- R223: the place of the word at `w` in a granule one address of which has place `p`. -/
def DeepPlace.word (p : DeepPlace) (w : Nat) : DeepPlace :=
  match p with
  | .raw r => .raw (r / 32 * 32 + w % 32)
  | .windowed n r c => .windowed n (r / 32 * 32 + w % 32) (c / 4 * 4 + w % 32 / 8)
  | .checkRange => .checkRange

/-- R220, R223, R228: the bytes of the aligned word at address `w` with place `p`, whether it is uncorrectable, and what
reading it counts. -/
def State.deepReadWord (s : State) (who : Requester) (p : DeepPlace) (w : Nat) : ReadResult :=
  match p with
  | .windowed _ raw check =>
    let c := s.deepClass raw check
    let bytes := if c = .uncorrectable then List.replicate 8 0xFF else leBytes 8 (eccCorrect c (leNat (s.deepBytes raw 8)))
    ⟨bytes, c == .uncorrectable, s.noteDeepWord who w raw check c⟩
  | .raw raw => ⟨s.deepBytes raw 8, false, s⟩
  | .checkRange => ⟨List.replicate 8 0xFF, false, s⟩

/-- A read of `n` bytes of the deep store from address `a`; `at'` gives the place of a word in a state. -/
def State.deepReadAt (s : State) (who : Requester) (at' : State → Nat → DeepPlace) (a n : Nat) : ReadResult :=
  let r := (wordsOf a n).foldl (fun (acc : ReadResult) w =>
    let x := acc.st.deepReadWord who (at' acc.st w) w
    ⟨acc.bytes ++ x.bytes, acc.bad || x.bad, x.st⟩) ⟨[], false, s⟩
  { r with bytes := (r.bytes.drop (a % 8)).take n }

/-- A read of `n` bytes of the deep store from address `a` through the windows as they stand. -/
def State.deepRead (s : State) (who : Requester) (a n : Nat) : ReadResult := s.deepReadAt who State.deepPlace a n

/-- One aligned word of the deep store written whole, with its check byte inside a window; bytes 28 to 31 of the check
granule are zero (R224). -/
def State.deepStoreWord (s : State) (p : DeepPlace) (bs : List Byte) : State :=
  match p with
  | .windowed _ raw check =>
    let d := (s.dram.setBytes raw bs).setByte check (BitVec.ofNat 8 (eccCheck (leNat bs)))
    { s with dram := d.setBytes (check / 32 * 32 + 28) [0, 0, 0, 0] }
  | .raw raw => { s with dram := s.dram.setBytes raw bs }
  | .checkRange => s

/-- The bytes of a write that fall into the granule at `g`, and their address. -/
def cutToGranule (g a : Nat) (bs : List Byte) : Nat × List Byte :=
  (max a g, (bs.drop (g - a)).take (min (g + 32) (a + bs.length) - max a g))

/-- The granules that `n` bytes from `a` touch. -/
def granulesOf (a n : Nat) : List Nat :=
  if n = 0 then [] else (List.range ((a + n - 1) / 32 - a / 32 + 1)).map fun i => (a / 32 + i) * 32

/-- The words of the granule at `g`. -/
def granuleWords (g : Nat) : List Nat := [g, g + 8, g + 16, g + 24]

/-- Whether a write of `n` bytes at `a` covers the whole granule at `g`. -/
def coversGranule (g a n : Nat) : Bool := decide (a ≤ g ∧ g + 32 ≤ a + n)

/-- R228: a word of the granule at place `p` is uncorrectable. -/
def State.granuleBad (s : State) (p : DeepPlace) (g : Nat) : Bool :=
  (granuleWords g).any fun w =>
    match p.word w with
    | .windowed _ raw check => s.deepClass raw check == .uncorrectable
    | _ => false

/-- R228: the merge read of the granule at `g` with place `p`: what it counts and records. -/
def State.noteGranule (s : State) (who : Requester) (p : DeepPlace) (g : Nat) : State :=
  (granuleWords g).foldl (fun (s : State) w => (s.deepReadWord who (p.word w) w).st) s

/-- The granule at `g` with place `p` written whole: the bytes of the write where it covers them, otherwise those of the
granule, corrected. -/
def State.storeGranule (s : State) (p : DeepPlace) (g a : Nat) (bs : List Byte) : State :=
  (granuleWords g).foldl (fun (s : State) w =>
    let old : List Byte := match p.word w with
      | .windowed _ raw check => leBytes 8 (eccCorrect (s.deepClass raw check) (leNat (s.deepBytes raw 8)))
      | _ => []
    s.deepStoreWord (p.word w) (overlay w old a bs)) s

/-- R226, R228: one granule of a write; a write of a part of a windowed granule merges, and writes nothing when a word of
it is uncorrectable (`bad`). -/
def State.deepWriteGranule (s : State) (who : Requester) (p : DeepPlace) (g a : Nat) (bs : List Byte) : ReadResult :=
  if coversGranule g a bs.length then ⟨[], false, s.storeGranule p g a bs⟩
  else
    match p with
    | .windowed _ _ _ =>
      let s' := s.noteGranule who p g
      if s.granuleBad p g then ⟨[], true, s'⟩ else ⟨[], false, s'.storeGranule p g a bs⟩
    | .raw raw =>
      let cut := cutToGranule g a bs
      ⟨[], false, { s with dram := s.dram.setBytes (raw / 32 * 32 + (cut.1 - g)) cut.2 }⟩
    | .checkRange => ⟨[], false, s⟩

/-- A write of bytes to the deep store at `a`; `at'` gives the place of a granule in a state, and `bad` tells that a merge
found an uncorrectable word. -/
def State.deepWriteAt (s : State) (who : Requester) (at' : State → Nat → DeepPlace) (a : Nat) (bs : List Byte) : ReadResult :=
  (granulesOf a bs.length).foldl (fun (acc : ReadResult) g =>
    let x := acc.st.deepWriteGranule who (at' acc.st g) g a bs
    ⟨[], acc.bad || x.bad, x.st⟩) ⟨[], false, s⟩

/-- A write of bytes to the deep store at `a` through the windows as they stand. -/
def State.deepWrite (s : State) (who : Requester) (a : Nat) (bs : List Byte) : ReadResult := s.deepWriteAt who State.deepPlace a bs

/-- R238: the deep store answers: no outage. -/
def State.deepUp (s : State) : Bool := s.dram.outage == 0

/-! ### Data accesses over all memories -/

/-- R483: in IDLE an access wakes the channel table or the mailbox from retention. -/
def State.wakeFor (s : State) (a : Nat) : State :=
  if s.power.st == .idle then
    { s with power := { s.power with
        ctRetained := s.power.ctRetained && !decide (ctBase ≤ a ∧ a < ctBase + 0x1000000)
        mbxRetained := s.power.mbxRetained && !decide (mbxBase ≤ a ∧ a < mbxBase + 0x41808) } }
  else s

/-- A read of `n` bytes at `a` in ledges, channel table, mailbox data or the deep store. -/
def State.memRead (s : State) (who : Requester) (a n : Nat) : ReadResult :=
  if a < deepEnd then s.deepRead who a n else (s.wakeFor a).sramRead who a n

/-! ### Saddle tag words (R365) -/

/-- The address of the 128-byte saddle word that holds address `a`. -/
def saddleWord (a : Nat) : Nat := a / 128 * 128

/-- Whether the byte at `a` lies in a saddle. -/
def State.inSaddle (s : State) (a : Nat) : Bool :=
  match s.baseRegion a with
  | .ledge _ off => decide (0x200000 ≤ off)
  | .scaffold _ off => decide (0x200000 ≤ off)
  | _ => false

/-- The tag word of the saddle word at `w`. -/
def State.tagWord (s : State) (w : Nat) : TagWord := Sparse.get ⟨0, false, false⟩ s.sram.tags w

/-- The state with that tag word set. -/
def State.setTagWord (s : State) (w : Nat) (t : TagWord) : State :=
  { s with sram := { s.sram with tags := Sparse.set ⟨0, false, false⟩ s.sram.tags w t } }

/-- R365: a write of `n` bytes at `a` by a master other than an ingress engine clears TV and BAD of the saddle words it
touches. -/
def State.clearTags (s : State) (a n : Nat) : State :=
  (List.range ((a + n - 1) / 128 - a / 128 + 1)).foldl (fun s k =>
    let w := (a / 128 + k) * 128
    if s.inSaddle w then s.setTagWord w { s.tagWord w with tv := false, bad := false } else s) s

/-- A write of bytes at `a`, through an alias where the address is one; `bad` when a windowed merge failed. -/
def State.memWrite (s : State) (who : Requester) (a : Nat) (bs : List Byte) : ReadResult :=
  if a < deepEnd then s.deepWrite who a bs
  else if aliasClear ≤ a then ⟨[], false, ((s.wakeFor (a - aliasClear)).sramAlias who true (a - aliasClear) bs).clearTags (a - aliasClear) bs.length⟩
  else if aliasSet ≤ a then ⟨[], false, ((s.wakeFor (a - aliasSet)).sramAlias who false (a - aliasSet) bs).clearTags (a - aliasSet) bs.length⟩
  else ⟨[], false, ((s.wakeFor a).sramWrite who a bs).clearTags a bs.length⟩

/-! ### The ledges of sites without a ridge (R17, R241) -/

/-- The first two sites without a ridge, whose ledges have addresses. -/
def State.spareSites (s : State) : List SiteId := ([0, 1] : List (Fin 2)).filterMap s.spareSite

/-- R17, R241: where an address of a spare site's ledge lies once the spare sites are `new` in place of `old`; none where the
site has no such address any longer. -/
def rekeyed (old new : List SiteId) (a : Nat) : Option Nat :=
  if scaffoldBase ≤ a ∧ a < scaffoldBase + 0x800000 then
    match old[(a - scaffoldBase) / 0x400000]? with
    | some st => (new.findIdx? fun x => x == st).map fun k => scaffoldBase + k * 0x400000 + (a - scaffoldBase) % 0x400000
    | none => none
  else some a

/-- The on-die memories with every stored byte, disturbance, word to write back and tag word at the address that `f` gives. -/
def Sram.rekey (m : Sram) (f : Nat → Option Nat) : Sram :=
  { m with
    mem := Sparse.rekey sramDefault f m.mem
    flips := Sparse.rekey (fun _ => 0) f m.flips
    writeback := m.writeback.filterMap f
    tags := Sparse.rekey (fun _ => ⟨0, false, false⟩) f m.tags }

/-- R17: the contents of the spare sites' ledges follow the sites when the ridge map changes to `sites`. -/
def State.remapSites (s : State) (sites : Vector (Option SiteId) 32) : State :=
  let s' : State := { s with repair := { s.repair with siteOf := sites } }
  if s.spareSites = s'.spareSites then s' else { s' with sram := s.sram.rekey (rekeyed s.spareSites s'.spareSites) }

/-! ### Protection windows (R336) -/

/-- The three access types of R336. -/
inductive AccType where
  | read
  | write
  | exec
  deriving DecidableEq, Repr

/-- CC_PWBASEt_w and CC_PWLIMITt_w; the SMC instance has no such registers and its windows stand at the reset
values. -/
def State.pw (s : State) (t : ThreadId) (w : Nat) : Nat × Nat :=
  let off := 0x1800 + 0x100 * (threadNo t).val + 0x10 * w
  if isSmcThread t then (if w = 0 then (0x8049000000000000, 0xFFFFFFFFFFFF) else (0, 0))
  else (s.reg (rgBlk (ridgeOf t)) off, s.reg (rgBlk (ridgeOf t)) (off + 8))

/-- R336: window content `(base, limit)` grants `ty` to `ring` for byte `a`. -/
def windowGrants (pw : Nat × Nat) (ty : AccType) (ring a : Nat) : Bool :=
  let lo := match ty with
    | .read => 48
    | .write => 51
    | .exec => 54
  bitOf pw.1 63 && decide (field pw.1 0 48 ≤ a ∧ a ≤ field pw.2 0 48) && decide (field pw.1 lo 3 ≠ 4 ∧ ring ≤ field pw.1 lo 3)

/-- R336: some window of the thread grants byte `a`. -/
def State.byteGranted (s : State) (t : ThreadId) (ty : AccType) (ring a : Nat) : Bool :=
  (List.range 16).any fun w => windowGrants (s.pw t w) ty ring a

/-- R336, R345: the lowest of `n` bytes from `a` that no window grants. -/
def State.deniedByte (s : State) (t : ThreadId) (ty : AccType) (ring a n : Nat) : Option Nat :=
  ((List.range n).map fun i => (a + i) % 2 ^ 48).find? fun b => !s.byteGranted t ty ring b

end Sys2Proof.Machine
end

