-- ==== Sys2Proof/Machine/DeepAccess.lean ====
section
/-!
DEFINITION. When an access to the deep store has to wait (R214, R218, R219, R225, R235): a busy window, the row under the
migration fence, and a channel that is not in service for a while, judged for the data granule and its check granule.
-/

namespace Sys2Proof.Machine

/-- DS_STATUS.TRAINED. -/
def State.trained (s : State) (i : Fin 32) : Bool := s.flagOf (dsBlk i) 0x08 1

/-- The channel of a physical bank (R213). -/
def channelOf (pb : Nat) : Fin 2 := ⟨pb / 16 % 2, by omega⟩

/-- R214, R218, R219: transactions for the channel of bank `pb` wait: its interface trains, or the channel is under a
full retrain or being re-centred. -/
def State.channelHeld (s : State) (pb : Nat) : Bool :=
  !s.trained (ifaceOf pb) || s.dram.retraining.contains (ifaceOf pb, channelOf pb)
    || s.dram.recentring.contains (ifaceOf pb, channelOf pb)

/-- R235: an access to raw address `raw` waits at the fence. -/
def State.atFence (s : State) (raw : Nat) : Bool :=
  s.migrating && (s.slotOf raw).1 == s.fieldOf 0x10 0x50 8 10 && (s.slotOf raw).2 / 64 == s.fence

/-- The granule at a raw address waits. -/
def State.granuleWaits (s : State) (raw : Nat) : Bool := s.atFence raw || s.channelHeld (s.bankOf raw)

/-- R225, R235: an access to a place waits: its window is busy, or its data granule or check granule waits. -/
def State.placeWaits (s : State) (p : DeepPlace) : Bool :=
  match p with
  | .raw raw => s.granuleWaits raw
  | .windowed n raw check => s.flagOf 0x10 (0x100 + 8 * n) 50 || s.granuleWaits raw || s.granuleWaits check
  | .checkRange => false

/-- An access of `n` bytes at `a` to the deep store has to wait; in an outage nothing waits (R238), and above the top
nothing is there to wait for. Choices: log entry 35. -/
def State.deepHeld (s : State) (a n : Nat) : Bool :=
  s.dram.outage == 0 && (wordsOf a n).any fun w => decide (w < s.deepSize) && s.placeWaits (s.deepPlace w)

end Sys2Proof.Machine
end

