-- ==== Sys2Proof/Machine/Operands.lean ====
section
/-!
DEFINITION. Operand forms of the control core: register classes and views (R288, R289), operand widths (R311, R315),
effective addresses (R322), delayed destinations (R291, R292), and the checks and distance classes of data accesses
(R268, R298, R299, R309).
-/

namespace Sys2Proof.Machine

/-! ### Registers -/

/-- Dn. -/
def Thread.d (th : Thread) (n : BitVec 5) : Word := th.r.d[n.toNat]'n.isLt
/-- An as arithmetic reads it. -/
def Thread.a (th : Thread) (n : BitVec 4) : Addr := th.r.a[n.toNat]'n.isLt
/-- An as a base (R292). -/
def Thread.base (th : Thread) (n : BitVec 4) : Addr := th.r.aBase[n.toNat]'n.isLt
/-- Xn as multiply-accumulates read it. -/
def Thread.x (th : Thread) (n : BitVec 2) : BitVec 128 := th.r.x[n.toNat]'n.isLt
/-- Xn as XMOV reads it. -/
def Thread.xMov (th : Thread) (n : BitVec 2) : BitVec 128 := th.r.xMov[n.toNat]'n.isLt

/-- R289: D register `k` of Vm. -/
def vPart (m : BitVec 3) (k : BitVec 2) : BitVec 5 := m ++ k

/-- R289: Vm, D4m in the lowest bytes. -/
def Thread.v (th : Thread) (m : BitVec 3) : BitVec 256 :=
  th.d (vPart m 3) ++ th.d (vPart m 2) ++ th.d (vPart m 1) ++ th.d (vPart m 0)

/-- R311: the width of a W code. -/
def wBits (w : BitVec 2) : Nat := 64 / 2 ^ w.toNat

/-- R316: the width of an FW code. -/
def fwBits (fw : BitVec 2) : Nat := 16 * 2 ^ fw.toNat

/-- R316: the format of an FW code. -/
def fwFmt (fw : BitVec 2) : FpFmt := fpOfWidth (fwBits fw)

/-- R322: the bytes of an SZ code. -/
def szBytes (sz : BitVec 3) : Nat := if sz = 4 then 32 else 2 ^ sz.toNat

/-- R322: EA = (A[AB] + sext(DISP)) mod 2^48. -/
def Thread.ea (th : Thread) (ab : BitVec 4) (disp : BitVec 14) : Addr := th.base ab + disp.signExtend 48

/-! ### Delayed destinations -/

/-- A write to Dn with distance `dist` (R291). -/
def writeD (dist : Nat) (n : BitVec 5) (v : Word) : PendWrite := ⟨dist, .d n, v.setWidth 128⟩

/-- R289: the four writes of a V register, all by one instruction. -/
def writeV (dist : Nat) (m : BitVec 3) (v : BitVec 256) : List PendWrite :=
  [writeD dist (vPart m 0) (v.extractLsb' 0 64), writeD dist (vPart m 1) (v.extractLsb' 64 64),
   writeD dist (vPart m 2) (v.extractLsb' 128 64), writeD dist (vPart m 3) (v.extractLsb' 192 64)]

/-- R292: an A register is seen at once by adds, compares and moves, and one instruction later as a base. -/
def Thread.setA (th : Thread) (n : BitVec 4) (v : Addr) : Thread :=
  { th with r := { th.r with a := th.r.a.set n.toNat v n.isLt } }

/-- R292: an accumulator is seen at once by accumulations, and two instructions later by XMOV. -/
def Thread.setX (th : Thread) (n : BitVec 2) (v : BitVec 128) : Thread :=
  { th with r := { th.r with x := th.r.x.set n.toNat v n.isLt } }

/-! ### Data accesses -/

/-- R268, R270: ridge `g` has a path to the ledge of `g'`. -/
def State.ledgePath (s : State) (g g' : RidgeId) : Bool :=
  let far := s.reg 0x04 (0x100 + 8 * g.val)
  g' == g || g'.val == (g.val + 31) % 32 || g'.val == (g.val + 1) % 32
    || (List.range 4).any fun k => bitOf far (16 * k + 8) && field far (16 * k) 5 == g'.val

/-- R268, R287: a control core reaches region `r`; an alias only with writes of at most `n` = 8 bytes (R253). -/
def State.coreReaches (s : State) (t : ThreadId) (ty : AccType) (n : Nat) (r : Region) : Bool :=
  let ledgeOk (g : RidgeId) : Bool := isSmcThread t || s.ledgePath (ridgeOf t) g
  match r with
  | .deep => true
  | .aboveTop => true
  | .ledge g _ => ledgeOk g
  | .scaffold _ _ => isSmcThread t
  | .channelTable _ => true
  | .mailbox _ => true
  | .semaphore _ => true
  | .doorbell _ => true
  | .config _ _ => true
  | .aliasOf _ target =>
    ty == .write && decide (n ≤ 8) &&
      (match s.baseRegion target with
        | .ledge g _ => ledgeOk g
        | .scaffold _ _ => isSmcThread t
        | _ => true)
  | _ => false

/-- The XINFO of a window violation by access type (R345). -/
def denyInfo (ty : AccType) : Nat :=
  match ty with
  | .read => 1
  | .write => 2
  | .exec => 3

/-- The first byte of an access that `p` picks, in order of address. Choices: log entry 21. -/
def firstByte (a n : Nat) (p : Nat → Bool) : Option Nat := ((List.range n).map fun i => (a + i) % 2 ^ 48).find? p

/-- R336, R337: the lowest byte of a data access that the windows do not grant, with the type that they deny; an alias
operation reads as well as writes (DESIGN CHOICE, log entry 21: where both are denied at one byte, the read half is
reported). -/
def State.denied (s : State) (t : ThreadId) (ty : AccType) (ring a n : Nat) : Option (AccType × Nat) :=
  match s.region a with
  | .aliasOf _ _ =>
    match firstByte a n fun b => !s.byteGranted t .read ring b || !s.byteGranted t ty ring b with
    | some b => some (if s.byteGranted t .read ring b then ty else .read, b)
    | none => none
  | _ => (s.deniedByte t ty ring a n).map fun b => (ty, b)

/-- R309 check 4, R299: the address checks of a data access of `n` bytes at `a`, over every byte of both halves:
protection window, region, top of the deep store, deep store unavailable, then alignment (DEDUCED: the checks in
this order, each over the whole access; a misaligned alias write of any size, 32 bytes included, raises 0x06 under R253
and R298, an aligned one of 32 bytes lies outside every region). Choices: log entry 21. -/
def State.dataFault (s : State) (t : ThreadId) (ty : AccType) (a n : Nat) : Option Exc :=
  let ring := tsRing (s.thread t).r.ts
  match s.denied t ty ring a n with
  | some (ty', b) => some ⟨0x03, denyInfo ty', b⟩
  | none =>
    let size := if a % n = 0 then n else 1
    match firstByte a n fun b => !s.coreReaches t ty size (s.region b) with
    | some b => some ⟨0x03, 4, b⟩
    | none =>
      match firstByte a n fun b => s.region b == .aboveTop with
      | some b => some ⟨0x03, 5, b⟩
      | none =>
        match firstByte a n fun b => !s.deepUp && s.region b == .deep with
        | some b => some ⟨0x03, 6, b⟩
        | none =>
          let special := firstByte a n fun b =>
            match s.region b with
            | .semaphore _ => true
            | .doorbell _ => true
            | _ => false
          if special.isSome && !(n == 8 && a % 8 == 0) then some ⟨0x06, 1, a⟩
          else if decide (aliasSet ≤ a) && a % n != 0 then some ⟨0x06, 2, a⟩
          else none

/-- R292, R295: how a load or store of a thread is served: on the own side, at a fixed distance after a reservation, or
through the matrix. -/
inductive AccClass where
  | own
  | fixed (pt : ArbPoint) (dist : Nat)
  | parks
  deriving DecidableEq, Repr

/-- R292: the class by region and alignment of the address. -/
def State.accClass (s : State) (t : ThreadId) (a n : Nat) : AccClass :=
  let split := b2n (a % n != 0)
  let pt := (s.arbPoint a).getD .config
  let ledge (g : RidgeId) : AccClass :=
    if g = ridgeOf t then .own
    else if g.val = ((ridgeOf t).val + 31) % 32 ∨ g.val = ((ridgeOf t).val + 1) % 32 then .fixed pt (3 + split)
    else .parks
  if isSmcThread t then .parks
  else
    match s.region a with
    | .ledge g _ => ledge g
    | .aliasOf _ target =>
      match s.baseRegion target with
      | .ledge g _ => ledge g
      | _ => .fixed pt 2
    | .mailbox _ => .fixed pt (2 + split)
    | .semaphore _ => .fixed pt 2
    | .doorbell _ => .fixed pt 2
    | .channelTable _ => .fixed pt (3 + split)
    | _ => .parks

/-- R267: the target number of an address. -/
def State.targetOf (s : State) (a : Nat) : Nat :=
  match s.region a with
  | .deep =>
    match s.deepPlace a with
    | .raw raw => (ifaceOf (s.bankOf raw)).val
    | .windowed _ raw _ => (ifaceOf (s.bankOf raw)).val
    | .checkRange => 0
  | .ledge g _ => 0x20 + g.val
  | .scaffold k _ => 0x40 + k.val
  | .channelTable _ => 0x42
  | .mailbox _ => 0x43
  | .semaphore _ => 0x43
  | .doorbell _ => 0x43
  | .aliasOf _ target =>
    match s.baseRegion target with
    | .ledge g _ => 0x20 + g.val
    | .scaffold k _ => 0x40 + k.val
    | _ => 0x43
  | _ => 0x44

/-- The place of a transaction's deep-store address: as it entered (R225). -/
def State.txnPlace (s : State) (x : Txn) : DeepPlace := x.place.getD (s.deepPlace x.addr.toNat)

/-- The raw address of the granule that a deep-store transaction reaches. -/
def State.txnRaw (s : State) (x : Txn) : Nat :=
  match x.aux, s.txnPlace x with
  | some raw, _ => raw
  | none, .raw raw => raw
  | none, .windowed _ raw _ => raw
  | none, .checkRange => x.addr.toNat

/-- A transaction for a deep-store interface. -/
def Txn.isDeep (x : Txn) : Bool := decide (x.addr.toNat < deepEnd)

/-- R267: the target number of a transaction. -/
def State.txnTarget (s : State) (x : Txn) : Nat :=
  if x.isDeep then (ifaceOf (s.bankOf (s.txnRaw x))).val else s.targetOf x.addr.toNat

/-- R278: an earlier access of thread `t` to a target other than that of `a` is incomplete: in its store buffer (own
ledge apart) or in the matrix. -/
def State.orderHeld (s : State) (t : ThreadId) (a : Nat) : Bool :=
  let tgt := s.targetOf a
  let own (b : Nat) : Bool := s.accClass t b 1 == .own
  ((s.thread t).stores.any fun e => !own e.addr.toNat && s.targetOf e.addr.toNat != tgt)
    || (s.matrix.waiting ++ s.matrix.flight).any fun x => x.m == .core t && x.aux.isNone && s.txnTarget x != tgt

/-! ### Store buffer and forwarding (R296, R297) -/

/-- One buffered store applied to the bytes `bs` that a load of address `a` returns. -/
def forwardStore (a : Nat) (e : StoreEntry) (bs : List Byte) : List Byte :=
  let ea := e.addr.toNat
  let target := if aliasClear ≤ ea then ea - aliasClear else if aliasSet ≤ ea then ea - aliasSet else ea
  (List.range bs.length).map fun i =>
    let old := nth 0 bs i
    if target ≤ a + i ∧ a + i < target + e.bytes.length then
      let b := nth 0 e.bytes (a + i - target)
      if aliasClear ≤ ea then old &&& ~~~b else if aliasSet ≤ ea then old ||| b else b
    else old

/-- R297: the bytes a load returns once every buffered store is applied, the youngest last. -/
def forward (a : Nat) (stores : List StoreEntry) (bs : List Byte) : List Byte :=
  stores.foldl (fun acc e => forwardStore a e acc) bs

/-- R323: the writes of a load that returned `bs`. -/
def loadWrites (dist : Nat) (signed : Bool) (rt : BitVec 5) (sz : BitVec 3) (bs : List Byte) : List PendWrite :=
  if sz = 4 then writeV dist (rt.setWidth 3) (BitVec.ofNat 256 (leNat bs))
  else [writeD dist rt (extend signed (8 * szBytes sz) (leNat bs))]

end Sys2Proof.Machine
end

