-- ==== Sys2Proof/Machine/Transactions.lean ====
section
/-!
DEFINITION. Transactions of the stream matrix (R266 to R283): paths, splitting, limits, ordering holds, entry, and the
completion of one transaction at its target.
-/

namespace Sys2Proof.Machine

/-- The requester of a master's accesses: machine checks of a core go to its thread, those of a stream port to the
launching thread (thread 0 where no stream is named), all others to the SMC (R244). Choices: log entry 13. -/
def Master.requester (m : Master) : Requester :=
  match m with
  | .core t => .thread t
  | .stream g _ => .stream g 0
  | _ => .other

/-- R268, R270: master `m` has a path to region `r`. -/
def State.path (s : State) (m : Master) (r : Region) : Bool :=
  match m with
  | .core t => s.coreReaches t .write 1 r
  | .smc =>
    (match r with
      | .outside => false
      | .queuePort _ => false
      | _ => true)
  | .sweep =>
    (match r with
      | .deep => true
      | .aboveTop => true
      | .ledge _ _ => true
      | .scaffold _ _ => true
      | .channelTable _ => true
      | .mailbox _ => true
      | _ => false)
  | .stream g port =>
    (match r with
      | .deep => true
      | .aboveTop => true
      | .ledge g' _ => s.ledgePath g g'
      | .channelTable _ => true
      | .mailbox _ => true
      | .aliasOf _ target =>
        (match s.baseRegion target with
          | .ledge g' _ => s.ledgePath g g'
          | .mailbox _ => true
          | _ => false)
      | .queuePort _ => port == 2
      | _ => false)
  | .ingress n => engine n r
  | .egress n => engine n r
where
  /-- R268: a link group's engines reach the deep store, the saddles of RG(2n) and RG(2n + 1), and their bulk where
  SM_LGOPT says so. -/
  engine (n : Fin 16) (r : Region) : Bool :=
    match r with
    | .deep => true
    | .aboveTop => true
    | .ledge g off =>
      decide (g.val / 2 = n.val) && (decide (0x200000 ≤ off) || s.flagOf 0x04 0x20 g.val)
    | _ => false

/-- R272: the largest piece one transaction moves at an address: a granule, a bulk or saddle word, a mailbox or
channel-table word, or a register. -/
def State.unitAt (s : State) (a : Nat) : Nat :=
  match s.region a with
  | .deep => 32
  | .ledge _ off => if off < 0x200000 then 16 else 128
  | .scaffold _ off => if off < 0x200000 then 16 else 128
  | _ => 8

/-- R272: a write cut at multiples of `u`; `fuel` bounds the number of pieces. -/
def cutWrite (fuel u a : Nat) (bs : List Byte) : List (Nat × List Byte) :=
  match fuel with
  | 0 => []
  | f + 1 =>
    if bs.isEmpty then []
    else
      let n := u - a % u
      (a, bs.take n) :: cutWrite f u (a + n) (bs.drop n)

/-- R272: a read cut at multiples of `u`. -/
def cutRead (fuel u a n : Nat) : List (Nat × Nat) :=
  match fuel with
  | 0 => []
  | f + 1 => if n = 0 then [] else (a, min n (u - a % u)) :: cutRead f u (a + (u - a % u)) (n - (u - a % u))

/-- R272: the transactions into which a master splits an access. One to configuration space is not split: R9 judges its
size and alignment as a whole. -/
def State.splitAccess (s : State) (a : Nat) (acc : Access) : List (Nat × Access) :=
  match s.region a, acc with
  | .config _ _, acc => [(a, acc)]
  | _, .read n => (cutRead n (s.unitAt a) a n).map fun x => (x.1, .read x.2)
  | _, .write bs => (cutWrite bs.length (s.unitAt a) a bs).map fun x => (x.1, .write x.2)

/-! ### Masters, limits, order -/

/-- R266: the number of a master; the threads of a core are one master, and so are the SMC's own threads with it. -/
def masterNo (m : Master) : Nat :=
  match m with
  | .stream g p => 4 * g.val + p.val
  | .core t => if isSmcThread t then 0xA0 else 4 * (ridgeOf t).val + 3
  | .ingress n => 0x80 + n.val
  | .egress n => 0x90 + n.val
  | .smc => 0xA0
  | .sweep => 0xA1

/-- R277: the ID of a control-core transaction: the thread's number, and 0 for the SMC. -/
def coreId (t : ThreadId) : BitVec 8 := if isSmcThread t then 0 else BitVec.ofNat 8 (threadNo t).val

/-- R272: the QoS stamped on a transaction of a master other than a stream port. -/
def State.masterQos (s : State) (m : Master) : BitVec 4 := BitVec.ofNat 4 (s.fieldOf 0x04 (0x800 + 8 * masterNo m) 0 4)

/-- Whether two masters share a limit of R280: the threads of one ridge, the SMC and its threads, the read ports A and B of
one ridge. -/
def sameLimit (a b : Master) : Bool :=
  match a, b with
  | .stream g p, .stream h q => g == h && (p == 2) == (q == 2)
  | _, _ => masterNo a == masterNo b

/-- R280: loads and stores of a ridge's core port count apart. -/
def countsApart (m : Master) : Bool :=
  match m with
  | .core t => !isSmcThread t
  | _ => false

/-- R280: the number of transactions a master may have in flight. -/
def masterLimit (m : Master) (read : Bool) : Nat :=
  match m with
  | .core t => if isSmcThread t then 16 else if read then 8 else 32
  | .stream _ p => if p = 2 then 256 else 512
  | .ingress _ => 256
  | .egress _ => 128
  | .smc => 16
  | .sweep => 64

/-- R280: the number of transactions a target holds. -/
def targetLimit (tgt : Nat) : Nat :=
  if tgt < 0x20 then 128 else if tgt ≤ 0x41 then 32 else if tgt = 0x42 then 256 else if tgt = 0x43 then 64 else 16

/-- R278: two transactions are of one master and one ordered ID. -/
def sameOrder (x y : Txn) : Bool := x.id != 0xFF && y.id == x.id && y.aux.isNone && masterNo y.m == masterNo x.m

/-- R278: an earlier transaction of the same master and ordered ID to another target has not completed. -/
def State.txnHeld (s : State) (x : Txn) (earlier : List Txn) : Bool :=
  earlier.any fun y => sameOrder x y && s.txnTarget y != s.txnTarget x

/-- R282: a dust sheet bars a transaction; the stores that a thread issued before its halt are drained under it. -/
def State.barred (s : State) (x : Txn) : Bool :=
  s.matrix.sheets.any fun p => coversTxn p x && !(match x.m with
    | .core t => p == .thread t && (s.thread t).st == .halted && !x.isRead
    | _ => false)

/-! ### The window logic's own transactions (R226) -/

/-- The check granule of a place, by its number; none outside the windows. -/
def checkGranule (p : DeepPlace) : Option Nat :=
  match p with
  | .windowed _ _ check => some (check / 32)
  | _ => none

/-- R226: the transactions that the window logic makes for data transaction `x` with place `p`, on the interfaces of their
own granules: the check read where the check granule is not cached, the data read of a write of part of a granule, and the
check write. Those before the data transaction, and those after it. Choices: log entry 66. -/
def State.companions (s : State) (x : Txn) (p : DeepPlace) : List Txn × List Txn :=
  let aux (raw : Nat) (acc : Access) : Txn := { x with id := 0xFF, acc := acc, aux := some raw, place := some p }
  match p with
  | .windowed _ raw check =>
    let fill := if s.dram.checkCache.contains (check / 32) then [] else [aux (check / 32 * 32) (.read 32)]
    match x.acc with
    | .read _ => (fill, [])
    | .write bs =>
      (fill ++ (if coversGranule (x.addr.toNat / 32 * 32) x.addr.toNat bs.length then [] else [aux (raw / 32 * 32) (.read 32)]),
        [aux (check / 32 * 32) (.write [])])
  | _ => ([], [])

/-- R226: the check granule of an access is in the cache of 2,048 afterwards, as the latest. Choices: log entry 66. -/
def Dram.touchCheck (d : Dram) (p : DeepPlace) : Dram :=
  match checkGranule p with
  | some g => { d with checkCache := ((g :: d.checkCache.filter fun x => x != g).take 2048) }
  | none => d

/-- The transactions in flight for data transaction `x`: itself and those that the window logic makes for it. -/
def State.withCompanions (s : State) (x : Txn) : List Txn :=
  if x.isDeep then
    let p := s.deepPlace x.addr.toNat
    let y := { x with place := some p }
    let c := s.companions y p
    c.1 ++ [y] ++ c.2
  else [x]

/-! ### Entry (R279, R280) -/

/-- R280: no limit holds the transaction back: its master's, and those of the targets it and its companions go to.
Choices: log entry 58. -/
def State.withinLimits (s : State) (x : Txn) : Bool :=
  let mine := s.matrix.flight.filter fun y => y.aux.isNone && sameLimit x.m y.m && (!countsApart x.m || y.isRead == x.isRead)
  let all := s.withCompanions x
  let load (tgt : Nat) : Nat := ((s.matrix.flight ++ all).filter fun y => s.txnTarget y == tgt).length
  let bank := s.arbPoint x.addr.toNat
  decide (mine.length < masterLimit x.m x.isRead)
    && all.all (fun y => decide (load (s.txnTarget y) ≤ targetLimit (s.txnTarget y)))
    && (s.txnTarget x != 0x42
      || decide ((s.matrix.flight.filter fun y => !y.isDeep && s.arbPoint y.addr.toNat == bank).length < 16))

/-- R272: the QoS stamped at entry: the descriptor's for a stream port, the master's default for every other. -/
def State.stampQos (s : State) (m : Master) (qos : BitVec 4) : BitVec 4 :=
  match m with
  | .stream _ _ => qos
  | m => s.masterQos m

/-- R279, R272, R225: a transaction enters the matrix at once, with its QoS stamped and, in the deep store, its place taken;
what the window logic needs for it enters with it. -/
def State.enterFlight (s : State) (x : Txn) : State :=
  let all := s.withCompanions { x with qos := s.stampQos x.m x.qos }
  { s with
    matrix := { s.matrix with flight := s.matrix.flight ++ all }
    dram := if x.isDeep then s.dram.touchCheck (s.deepPlace x.addr.toNat) else s.dram }

/-- R279: a request waits in an input queue behind an earlier one of its master for its target. -/
def State.queuedBehind (s : State) (x : Txn) (waiting : List Txn) : Bool :=
  waiting.any fun y => masterNo y.m == masterNo x.m && s.txnTarget y == s.txnTarget x

/-- R279, R278: a request enters, or waits in its master's input queue; a hold under R278 is counted. Choices: log
entry 58. -/
def State.enterMatrix (s : State) (x : Txn) : State :=
  let held := s.txnHeld x (s.matrix.waiting ++ s.matrix.flight)
  let waits := held || s.queuedBehind x s.matrix.waiting || s.barred x || !s.withinLimits x
  let s := if held then s.countOf 0x04 0x10 0 32 1 else s
  if waits then { s with matrix := { s.matrix with waiting := s.matrix.waiting ++ [x] } } else s.enterFlight x

/-- R272: an access of master `m` is split, and its pieces enter one after another. -/
def State.enterAccess (s : State) (m : Master) (id : BitVec 8) (qos : BitVec 4) (slot : Option (Fin 16)) (a : Addr) (acc : Access) :
    State :=
  let no := s.matrix.nextNo
  let s := { s with matrix := { s.matrix with nextNo := no + 1 } }
  (s.splitAccess a.toNat acc).foldl (fun (s : State) (x : Nat × Access) =>
    s.enterMatrix ⟨m, id, qos, BitVec.ofNat 48 x.1, x.2, false, slot, no, a, none, none⟩) s

/-- R279: waiting requests that nothing holds any longer enter, in order; `kept` holds the requests passed over. -/
def promote (fuel : Nat) (s : State) (kept rest : List Txn) : State :=
  match fuel, rest with
  | f + 1, x :: rest =>
    if s.queuedBehind x kept || s.txnHeld x (kept ++ s.matrix.flight) || s.barred x || !s.withinLimits x then
      promote f s (kept ++ [x]) rest
    else promote f (s.enterFlight x) kept rest
  | _, _ => { s with matrix := { s.matrix with waiting := kept ++ rest } }

/-- R279: every waiting request is looked at once. Choices: log entry 58. -/
def State.promoteWaiting (s : State) : State := promote s.matrix.waiting.length s [] s.matrix.waiting

/-- The first transaction of the list that `p` picks, and the list without it. -/
def takeFirst (p : Txn → Bool) (xs : List Txn) : Option (Txn × List Txn) :=
  match xs with
  | [] => none
  | x :: rest =>
    if p x then some (x, rest)
    else
      match takeFirst p rest with
      | some (y, rest') => some (y, x :: rest')
      | none => none

/-- R278: no earlier transaction of the same master and ordered ID is in flight. -/
def State.inTurn (s : State) (x : Txn) : Bool :=
  x.id == 0xFF || x.aux.isSome || (s.matrix.flight.find? (sameOrder x)) == some x

/-- R230: `x` is the first request of its master among those in `xs`. -/
def firstOfMaster (xs : List Txn) (x : Txn) : Bool := (xs.find? fun y => masterNo y.m == masterNo x.m) == some x

/-! ### Grants (R230, R231, R274) -/

/-- The highest QoS among requests. -/
def topQos (xs : List Txn) : Nat := xs.foldl (fun acc x => max acc x.qos.toNat) 0

/-- R230: the request an arbitration picks: of the highest QoS, the master next after `last` in the round. Choices:
log entry 58. -/
def arbitrate (last : Nat) (xs : List Txn) : Option Txn :=
  let best := xs.filter fun x => x.qos.toNat == topQos xs
  let dist (x : Txn) : Nat := (masterNo x.m + 0xA2 - last - 1) % 0xA2
  best.foldl (fun acc x =>
    match acc with
    | none => some x
    | some y => if dist x < dist y then some x else some y) none

/-- R230: the burst limit of a QoS from a DS_BURST or SM_TBURST content. -/
def burstLimit (reg : Nat) (qos : Nat) : Nat := if 12 ≤ qos then field reg 0 6 + 1 else field reg 8 6 + 1

/-- R230, R231: whether the running grant goes on with the requests `xs`: its owner still asks, its limit is not reached,
and a grant of QoS 0 to 11 at a boundary after every 8th transfer meets no higher QoS. -/
def grantGoesOn (g : Grant) (xs : List Txn) : Bool :=
  match g.owner with
  | none => false
  | some m =>
    (xs.any fun x => masterNo x.m == masterNo m) && decide (g.count < g.limit)
      && !(decide (g.qos.toNat < 12) && g.count % 8 == 0 && g.count != 0 && decide (g.qos.toNat < topQos xs))

/-- R230: a grant ends when its owner has no request left in `left`. -/
def Grant.settle (g : Grant) (left : List Txn) : Grant :=
  match g.owner with
  | some m => if left.any fun y => masterNo y.m == masterNo m then g else { g with owner := none }
  | none => g

/-- R230, R274: the transaction served next among the requests `xs`, and the grant after it; `burst` gives the limits of a
grant given now, a running one keeps its own. -/
def serveGrant (g : Grant) (burst : Nat) (xs : List Txn) : Option (Txn × Grant) :=
  let own : Option Txn :=
    match g.owner with
    | some m => xs.find? fun x => masterNo x.m == masterNo m
    | none => none
  match grantGoesOn g xs, own with
  | true, some x => some (x, { g with count := g.count + 1 })
  | _, _ =>
    match arbitrate (match g.last with | some m => masterNo m | none => 0xA1) xs with
    | some x => some (x, ⟨some x.m, x.qos, 1, burstLimit burst x.qos.toNat, some x.m⟩)
    | none => none

end Sys2Proof.Machine
end

