-- ==== Sys2Proof/WellFormed.lean ====
section
/-!
DEFINITION. Well-formed commands: the operand values that a legal instruction word can carry (R308 and the rows it
refers to) and the bounds that the spec puts on the other commands' operands.
-/

namespace Sys2Proof

/-- R316: FW and the float widths of conversions are 0x0 to 0x2. -/
def fwOk (fw : BitVec 2) : Bool := fw != 3

/-- An access moves at least one byte. -/
def accessOk (a : Access) : Bool :=
  match a with
  | .read n => decide (0 < n)
  | .write bytes => !bytes.isEmpty

/-- The check of each constructor; a command without a bound on its operands is well-formed. -/
def wellFormed (i : Instr) : Bool :=
  match i with
  | .divr _ _ _ _ rd _ _ => !rd.getLsbD 0
  | .fadd _ fw _ _ _ => fwOk fw
  | .fsub _ fw _ _ _ => fwOk fw
  | .fmul _ fw _ _ _ => fwOk fw
  | .fdiv _ fw _ _ _ => fwOk fw
  | .fsqrt _ fw _ _ => fwOk fw
  | .fmin _ fw _ _ _ => fwOk fw
  | .fmax _ fw _ _ _ => fwOk fw
  | .fminm _ fw _ _ _ => fwOk fw
  | .fmaxm _ fw _ _ _ => fwOk fw
  | .fabs _ fw _ _ => fwOk fw
  | .fneg _ fw _ _ => fwOk fw
  | .fcsgn _ fw _ _ _ => fwOk fw
  | .frint _ fw _ _ => fwOk fw
  | .fcmpeq _ fw _ _ _ => fwOk fw
  | .fcmplt _ fw _ _ _ => fwOk fw
  | .fcmple _ fw _ _ _ => fwOk fw
  | .cvtff _ src dst _ _ => fwOk src && fwOk dst && src != dst
  | .cvtfi _ fw _ _ _ _ => fwOk fw
  | .cvtif _ fw _ _ _ _ => fwOk fw
  | .fma _ fw _ _ _ _ => fwOk fw
  | .fms _ fw _ _ _ _ => fwOk fw
  | .fnma _ fw _ _ _ _ => fwOk fw
  | .fnms _ fw _ _ _ _ => fwOk fw
  | .ld _ rt _ sz _ => Machine.sizeOk rt sz
  | .lds _ _ _ sz _ => decide (sz ≤ 2)
  | .st _ rt _ sz _ => Machine.sizeOk rt sz
  | .mfs _ _ s8 => decide (s8 ≤ 8)
  | .mts _ _ s8 => decide (s8 ≤ 7)
  | .illegalInstruction t w => (Machine.decode t w).isNone
  | .ledgeAccess _ _ acc _ => accessOk acc
  | .mailboxDataAccess _ _ acc _ => accessOk acc
  | .matrixRequestEntry _ _ _ _ acc => accessOk acc
  | .aliasOperation _ _ bytes => !bytes.isEmpty
  | .channelTableWrite _ _ bytes => !bytes.isEmpty
  | .rowRepair _ row => decide (row < 4096)
  | .borrowTestDone _ row => decide (row < 4096)
  | _ => true

end Sys2Proof
end

