-- ==== Sys2Proof/Machine/Issue.lean ====
section
/-!
DEFINITION. How a control-core instruction issues and completes: the fetch check (R286), the order of checks (R309),
delayed writes (R291), delay slots (R301), flags and traps (R180, R181), fixed-distance accesses (R275), stores and
loads (R295 to R299).
-/

namespace Sys2Proof.Machine

/-- What an instruction does once its word is legal: it raises an exception, maybe after a read that counts (R244); it completes with delayed writes, flags
and, for a branch, its delay slot, over a state that already holds its other effects; or nothing completes in this
slot (a bubble, or the thread parks). -/
inductive Act where
  | fault (e : Exc)
  | faultAfter (st : State) (e : Exc)
  | complete (st : State) (ws : List PendWrite) (flags : Flags) (slot : Option Slot)
  | stay (st : State)

/-- R284, R285: the thread issues an instruction in its slot: it runs, no routine of it runs, and it does not wait
for a reservation. Choices: log entry 24. -/
def Thread.canIssue (th : Thread) : Bool := th.st == .running && th.routine.isNone && th.held.isNone

/-- R286, R287: instructions of thread `t` can be fetched at `pc`: its own ledge, or the SMC's private memory. -/
def State.fetchPlace (s : State) (t : ThreadId) (pc : Nat) : Bool :=
  isSmcThread t ||
    match s.baseRegion pc with
    | .ledge g _ => g == ridgeOf t
    | _ => false

/-- R286, R337: the fetch check at the PC: the thread's own memory, and execute granted at the ring in force. -/
def State.fetchFault (s : State) (t : ThreadId) : Option Exc :=
  let th := s.thread t
  let pc := th.pc.toNat
  if s.fetchPlace t pc then (s.deniedByte t .exec (tsRing th.r.ts) pc 4).map fun b => ⟨0x03, 3, b⟩
  else some ⟨0x03, 3, pc⟩

/-- R301: the instruction writes a register that the branch of its delay slot reads. -/
def slotConflict (slot : Option Slot) (i : Instr) : Bool :=
  match slot with
  | none => false
  | some sl =>
    (match sl.readsD with
      | some r => (writesD i).contains r
      | none => false) ||
    (match sl.readsA with
      | some r => (writesA i).contains r
      | none => false)

/-- R308: the instruction is legal where it stands. -/
def legalAt (t : ThreadId) (slot : Option Slot) (i : Instr) : Bool :=
  let smcLaunch := match i with
    | .slaunch _ _ _ => isSmcThread t
    | _ => false
  wellFormed i && !(slot.isSome && notInSlot i) && !slotConflict slot i && !smcLaunch

/-- The word of an instruction, for XINFO of an illegal instruction (R345). Choices: log entry 24. -/
def wordOf (i : Instr) : Nat :=
  match encode i with
  | some w => w.toNat
  | none => 0

/-- R291, R301: the PC after an instruction: past it, or from a delay slot to where its branch goes. -/
def Thread.nextPc (th : Thread) : Addr :=
  match th.slot with
  | some sl => sl.target
  | none => th.pc + 4

/-- R291, R180: a thread after an instruction that completed with writes `ws`, flags `f` and, for a branch, its delay
slot. -/
def Thread.retire (th : Thread) (ws : List PendWrite) (f : Flags) (slot : Option Slot) : Thread :=
  let th := th.raise f
  let p := advancePend th.r (th.pend ++ ws)
  { th with r := p.1, pend := p.2, pc := th.nextPc, slot := slot, st := .running, park := none, held := none }

/-- R309: an instruction of thread `t` that passed its fetch: legality, its own checks, then its effect or its trap.
Choices: log entry 24. -/
def State.runInstr (s : State) (t : ThreadId) (i : Instr) (act : State → Thread → Act) : State :=
  let th := s.thread t
  if legalAt t th.slot i then
    match act s th with
    | .fault e => s.syncException t e
    | .faultAfter s' e => s'.syncException t e
    | .complete s' ws f slot =>
      if traps th.r.ts f then s.syncException t ⟨0x07, f.toNat, 0⟩
      else s'.setThread t ((s'.thread t).retire ws f slot)
    | .stay s' => s'
  else s.syncException t ⟨0x01, wordOf i, 0⟩

/-- R285, R286: thread `t` issues instruction `i` in its slot; a thread that cannot issue leaves a bubble. Choices:
log entry 24. -/
def State.issue (s : State) (t : ThreadId) (i : Instr) (act : State → Thread → Act) : State :=
  if (s.thread t).canIssue then
    match s.fetchFault t with
    | some e => s.syncException t e
    | none => s.runInstr t i act
  else s

/-- An instruction whose only effect is delayed writes and flags. -/
def result (s : State) (ws : List PendWrite) (f : Flags) : Act := .complete s ws f none

/-! ### Stores (R296) -/

/-- A store takes a buffer entry. -/
def State.bufferStore (s : State) (t : ThreadId) (a : Addr) (bs : List Byte) : State :=
  s.setThread t { s.thread t with stores := (s.thread t).stores ++ [⟨a, bs⟩] }

/-- R262, R263: what writing `bs` at address `a` does for a master: memory, an alias, a semaphore or a doorbell;
configuration space is served by `Machine/ConfigSpace.lean`. -/
def State.writeAt (s : State) (who : Requester) (owner : Fin 257) (a : Nat) (bs : List Byte) : State :=
  match s.region a with
  | .semaphore n => s.semRelease owner n
  | .doorbell tag => s.ringDoorbell tag.val (leNat bs)
  | .config _ _ => s
  | .outside => s
  | .aboveTop => s
  | .queuePort _ => s
  | _ => (s.memWrite who a bs).st

/-- R296: the oldest buffered store of thread `t` is written (own ledge and fixed-distance targets). -/
def State.performStore (s : State) (t : ThreadId) (e : StoreEntry) : State :=
  s.writeAt (.thread t) (ownerTag t) e.addr.toNat e.bytes

/-- Every buffered store of the thread is written, oldest first; used before a semaphore read, whose buffered stores all
go to the same target (R278, R297). -/
def State.drainStores (s : State) (t : ThreadId) : State :=
  let es := (s.thread t).stores
  es.foldl (fun s e => s.performStore t e) (s.setThread t { s.thread t with stores := [] })

/-! ### Fixed-distance accesses (R275, R276) -/

/-- A request of thread `t` is registered at `pt`. -/
def State.register (s : State) (t : ThreadId) (pt : ArbPoint) : State :=
  { s with matrix := { s.matrix with requests := s.matrix.requests ++ [(t, pt)] } }

/-- The thread waits with instruction `i` for a reservation at `pt`. -/
def State.hold (s : State) (t : ThreadId) (i : Instr) (pt : ArbPoint) : State :=
  s.setThread t { s.thread t with held := some ⟨i, pt⟩ }

/-- R276: the last ridge granted at `pt`. -/
def State.lastGranted (s : State) (pt : ArbPoint) : Nat :=
  match s.matrix.lastRidge.find? fun r => r.1 == pt with
  | some r => r.2
  | none => 31

/-- The state with the last ridge granted at `pt` noted; the point grants no other reservation for two cycles (R276). -/
def State.noteGranted (s : State) (pt : ArbPoint) (g : RidgeId) : State :=
  { s with matrix := { s.matrix with
      lastRidge := (s.matrix.lastRidge.filter fun r => r.1 != pt) ++ [(pt, g.val)]
      granted := (s.matrix.granted.filter fun p => p != pt) ++ [pt] } }

/-- R275, R276, R278: instruction `i` of thread `t` comes to issue an access at `pt` of address `a`. A reservation is granted
in that step when nothing is registered there and no grant of the last two cycles stands against it; a hold under R278 or a
dust sheet keeps the request unregistered. `granted` marks the issue after a grant. Choices: log entry 58. -/
def State.reserve (s : State) (t : ThreadId) (i : Instr) (pt : ArbPoint) (a : Nat) (granted : Bool)
    (k : State → Act) : Act :=
  if granted then k s
  else if s.orderHeld t a then .stay ((s.hold t i pt).countOf 0x04 0x10 0 32 1)
  else if s.sheeted (.core t) then .stay (s.hold t i pt)
  else if s.matrix.granted.contains pt || s.matrix.requests.any fun r => r.2 == pt then .stay ((s.hold t i pt).register t pt)
  else k (s.noteGranted pt (ridgeOf t))

/-! ### Loads and stores (R322, R323) -/

/-- R263, R297: the bytes a load of thread `t` returns on the own side or at a fixed distance. -/
def State.loadBytes (s : State) (t : ThreadId) (a n : Nat) : List Byte × State :=
  match s.region a with
  | .semaphore k =>
    let r := (s.drainStores t).semAcquire (ownerTag t) k
    (leBytes n r.1, r.2)
  | .doorbell _ => (List.replicate n 0, s)
  | _ =>
    let r := s.memRead (.thread t) a n
    (forward a (s.thread t).stores r.bytes, r.st)

/-- R297: a load at `a` that forwarding cannot serve waits for the thread's buffered stores: a register, a semaphore or a
doorbell. -/
def State.waitsForStores (s : State) (t : ThreadId) (a : Nat) : Bool :=
  !(s.thread t).stores.isEmpty &&
    match s.region a with
    | .config _ _ => true
    | .semaphore _ => true
    | .doorbell _ => true
    | _ => false

/-- R295: the thread parks on a load of `n` bytes at `a`, which enters the matrix at once (R279) unless it waits for
buffered stores. Choices: log entry 58. -/
def State.parkLoad (s : State) (t : ThreadId) (signed : Bool) (rt : BitVec 5) (sz : BitVec 3) (a : Addr) : State :=
  let th := s.thread t
  let parked := s.setThread t { th with st := .parked, park := some (.load a signed rt sz th.stores []), held := none }
  if s.waitsForStores t a.toNat then parked else parked.enterAccess (.core t) (coreId t) 0 none a (.read (szBytes sz))

/-- R323: a load that is served now, with distance `dist`. -/
def loadNow (t : ThreadId) (signed : Bool) (rt : BitVec 5) (sz : BitVec 3) (a dist : Nat) (s : State) : Act :=
  let r := s.loadBytes t a (szBytes sz)
  .complete r.2 (loadWrites dist signed rt sz r.1) 0 none

/-- LD and LDS: checks at issue, then the load by its class (R292, R295). -/
def loadAct (granted : Bool) (t : ThreadId) (i : Instr) (signed : Bool) (rt : BitVec 5) (ab : BitVec 4)
    (sz : BitVec 3) (disp : BitVec 14) (s : State) (th : Thread) : Act :=
  let ea := th.ea ab disp
  let n := szBytes sz
  match s.dataFault t .read ea.toNat n with
  | some e => .fault e
  | none =>
    match s.accClass t ea.toNat n with
    | .own => loadNow t signed rt sz ea.toNat (1 + b2n (ea.toNat % n != 0)) s
    | .fixed pt d => s.reserve t i pt ea.toNat granted (loadNow t signed rt sz ea.toNat d)
    | .parks => .stay (s.parkLoad t signed rt sz ea)

/-- R296: the entries of the thread's store buffer in use: its buffered stores, and those that still wait in input queues of
the matrix. -/
def State.storeSlots (s : State) (t : ThreadId) : Nat :=
  (s.thread t).stores.length
    + (((s.matrix.waiting.filter fun x => x.m == .core t && !x.isRead).map fun x => x.no).eraseDups).length

/-- R296: a store into the buffer completes; a full buffer leaves a bubble. -/
def storeNow (t : ThreadId) (a : Addr) (bs : List Byte) (s : State) : Act :=
  if s.storeSlots t < 4 then .complete (s.bufferStore t a bs) [] 0 none else .stay s

/-- R296, R275: a store of `bs` at `a`: checks at issue, then a buffer entry, after a reservation at a fixed
distance. -/
def storeAct (granted : Bool) (t : ThreadId) (i : Instr) (a : Addr) (bs : List Byte) (s : State) (_th : Thread) : Act :=
  match s.dataFault t .write a.toNat bs.length with
  | some e => .fault e
  | none =>
    match s.accClass t a.toNat bs.length with
    | .fixed pt _ =>
      if s.storeSlots t < 4 then s.reserve t i pt a.toNat granted (storeNow t a bs) else .stay s
    | _ => storeNow t a bs s

/-- R323: the bytes ST writes: the low bytes of Dt, or all of Vt. -/
def Thread.storeBytes (th : Thread) (rt : BitVec 5) (sz : BitVec 3) : List Byte :=
  if sz = 4 then leBytes 32 (th.v (rt.setWidth 3)).toNat else leBytes (szBytes sz) (th.d rt).toNat

/-- ST. -/
def stAct (granted : Bool) (t : ThreadId) (i : Instr) (rt : BitVec 5) (ab : BitVec 4) (sz : BitVec 3)
    (disp : BitVec 14) (s : State) (th : Thread) : Act :=
  storeAct granted t i (th.ea ab disp) (th.storeBytes rt sz) s th

/-- R330: SEV Da, e stores e to the doorbell of tag Da; a Da above 0x100 addresses beyond the doorbells, outside every
region. -/
def sevAct (granted : Bool) (t : ThreadId) (i : Instr) (ra : BitVec 5) (ev : BitVec 8) (s : State) (th : Thread) : Act :=
  let tag := (th.d ra).toNat
  let addr := (mbxBase + 0x41000 + 8 * tag) % 2 ^ 48
  if 0x100 < tag then
    (match s.deniedByte t .write (tsRing th.r.ts) addr 8 with
      | some b => .fault ⟨0x03, 2, b⟩
      | none => .fault ⟨0x03, 4, addr⟩)
  else storeAct granted t i (BitVec.ofNat 48 addr) (leBytes 8 ev.toNat) s th

end Sys2Proof.Machine
end

