-- ==== Sys2Proof/Machine/Integer.lean ====
section
/-!
DEFINITION. The integer instructions of the control core: INT (R311, R312) and MUL (R313, R314).
-/

namespace Sys2Proof.Machine

/-- What every meaning answers. -/
abbrev Result := Host.Outcome State Fault Refusal

/-- R311: a source's 64 bits as a number. -/
def Thread.dNat (th : Thread) (n : BitVec 5) : Nat := (th.d n).toNat

/-- R311: an INT or MUL result at width W, extended to 64 bits, with distance `dist`. -/
def intAct (op : IntOp) (dist : Nat) (sat signed : Bool) (w : BitVec 2) (rd ra rb : BitVec 5) (s : State) (th : Thread) : Act :=
  let r := op.eval sat signed (wBits w) (th.dNat ra) (th.dNat rb)
  result s [writeD dist rd (extend signed (wBits w) r.1)] r.2

/-- R312: a comparison writes all ones or zero. -/
def cmpAct (c : FpCmp) (signed : Bool) (w : BitVec 2) (rd ra rb : BitVec 5) (s : State) (th : Thread) : Act :=
  result s [writeD 0 rd (boolWord (intCompare c signed (wBits w) (th.dNat ra) (th.dNat rb)))] 0

/-- R312: an operation of one source, by its result on the W-bit pattern. -/
def unaryAct (f : Nat → Nat → Nat) (signed : Bool) (w : BitVec 2) (rd ra : BitVec 5) (s : State) (th : Thread) : Act :=
  result s [writeD 0 rd (extend signed (wBits w) (f (wBits w) (th.dNat ra)))] 0

/-- R313: the exact product of the W-bit operands. -/
def product (signed : Bool) (w : BitVec 2) (ra rb : BitVec 5) (th : Thread) : Int :=
  toInt signed (wBits w) (th.dNat ra) * toInt signed (wBits w) (th.dNat rb)

/-- R313, R292: an accumulator write: at once for accumulations, two instructions later for XMOV. -/
def accAct (f : BitVec 128 → Int → BitVec 128) (signed : Bool) (w : BitVec 2) (xd : BitVec 2) (ra rb : BitVec 5) (t : ThreadId)
    (s : State) (th : Thread) : Act :=
  let v := f (th.x xd) (product signed w ra rb th)
  .complete (s.setThread t (th.setX xd v)) [⟨2, .xMov xd, v⟩] 0 none

/-- R197, R208: an instruction that runs as a scalar routine occupies the thread's slots from here on. -/
def routineAct (k : RoutineKind) (t : ThreadId) (s : State) (th : Thread) : Act :=
  .stay (s.setThread t { th with routine := some ⟨k, 0, 0, 0, 0, 0⟩ })

/-- R208: microwords of an integer divide. -/
def divLen (w : BitVec 2) : Nat := if w = 0 then 5 else 3

/-- R313, R168: DIV and DIVR start their routine; DIVR also returns the remainder. -/
def divAct (withRem sat signed : Bool) (w : BitVec 2) (rd ra rb : BitVec 5) (t : ThreadId) (s : State) (th : Thread) : Act :=
  let r := divide sat signed (wBits w) (th.dNat ra) (th.dNat rb)
  let rem := if withRem then some (extend signed (wBits w) r.2.1) else none
  routineAct (.divide rd (extend signed (wBits w) r.1) rem r.2.2 (divLen w)) t s th

/-- ADD: Dd := a + b. -/
def execAdd (t : ThreadId) (w : BitVec 2) (sat : Bool) (u : Bool) (rd : BitVec 5) (ra : BitVec 5) (rb : BitVec 5) (s : State) : Result :=
  .next (s.issue t (.add t w sat u rd ra rb) (intAct .add 0 sat (!u) w rd ra rb))

/-- SUB: Dd := a − b. -/
def execSub (t : ThreadId) (w : BitVec 2) (sat : Bool) (u : Bool) (rd : BitVec 5) (ra : BitVec 5) (rb : BitVec 5) (s : State) : Result :=
  .next (s.issue t (.sub t w sat u rd ra rb) (intAct .sub 0 sat (!u) w rd ra rb))

/-- NEG: Dd := −a. -/
def execNeg (t : ThreadId) (w : BitVec 2) (sat : Bool) (rd : BitVec 5) (ra : BitVec 5) (s : State) : Result :=
  .next (s.issue t (.neg t w sat rd ra) (intAct .neg 0 sat true w rd ra 0))

/-- ABS: Dd := |a|. -/
def execAbs (t : ThreadId) (w : BitVec 2) (sat : Bool) (rd : BitVec 5) (ra : BitVec 5) (s : State) : Result :=
  .next (s.issue t (.abs t w sat rd ra) (intAct .abs 0 sat true w rd ra 0))

/-- AND: Dd := a AND b. -/
def execAnd (t : ThreadId) (w : BitVec 2) (u : Bool) (rd : BitVec 5) (ra : BitVec 5) (rb : BitVec 5) (s : State) : Result :=
  .next (s.issue t (.and t w u rd ra rb) (intAct .and 0 false (!u) w rd ra rb))

/-- OR: Dd := a OR b. -/
def execOr (t : ThreadId) (w : BitVec 2) (u : Bool) (rd : BitVec 5) (ra : BitVec 5) (rb : BitVec 5) (s : State) : Result :=
  .next (s.issue t (.or t w u rd ra rb) (intAct .or 0 false (!u) w rd ra rb))

/-- XOR: Dd := a XOR b. -/
def execXor (t : ThreadId) (w : BitVec 2) (u : Bool) (rd : BitVec 5) (ra : BitVec 5) (rb : BitVec 5) (s : State) : Result :=
  .next (s.issue t (.xor t w u rd ra rb) (intAct .xor 0 false (!u) w rd ra rb))

/-- ANDN: Dd := a AND NOT b. -/
def execAndn (t : ThreadId) (w : BitVec 2) (u : Bool) (rd : BitVec 5) (ra : BitVec 5) (rb : BitVec 5) (s : State) : Result :=
  .next (s.issue t (.andn t w u rd ra rb) (intAct .andn 0 false (!u) w rd ra rb))

/-- NOT: Dd := NOT a. -/
def execNot (t : ThreadId) (w : BitVec 2) (u : Bool) (rd : BitVec 5) (ra : BitVec 5) (s : State) : Result :=
  .next (s.issue t (.not t w u rd ra) (intAct .not 0 false (!u) w rd ra 0))

/-- SHL: a shifted left by b mod W (R142). -/
def execShl (t : ThreadId) (w : BitVec 2) (sat : Bool) (u : Bool) (rd : BitVec 5) (ra : BitVec 5) (rb : BitVec 5) (s : State) : Result :=
  .next (s.issue t (.shl t w sat u rd ra rb) (intAct .shl 0 sat (!u) w rd ra rb))

/-- SHR: a shifted right by b mod W, zero fill. -/
def execShr (t : ThreadId) (w : BitVec 2) (u : Bool) (rd : BitVec 5) (ra : BitVec 5) (rb : BitVec 5) (s : State) : Result :=
  .next (s.issue t (.shr t w u rd ra rb) (intAct .shr 0 false (!u) w rd ra rb))

/-- SRA: a shifted right by b mod W, sign fill. -/
def execSra (t : ThreadId) (w : BitVec 2) (u : Bool) (rd : BitVec 5) (ra : BitVec 5) (rb : BitVec 5) (s : State) : Result :=
  .next (s.issue t (.sra t w u rd ra rb) (intAct .sra 0 false (!u) w rd ra rb))

/-- ROTL: a rotated left by b mod W. -/
def execRotl (t : ThreadId) (w : BitVec 2) (u : Bool) (rd : BitVec 5) (ra : BitVec 5) (rb : BitVec 5) (s : State) : Result :=
  .next (s.issue t (.rotl t w u rd ra rb) (intAct .rotl 0 false (!u) w rd ra rb))

/-- MIN: the smaller of a and b. -/
def execMin (t : ThreadId) (w : BitVec 2) (u : Bool) (rd : BitVec 5) (ra : BitVec 5) (rb : BitVec 5) (s : State) : Result :=
  .next (s.issue t (.min t w u rd ra rb) (intAct .min 0 false (!u) w rd ra rb))

/-- MAX: the larger of a and b. -/
def execMax (t : ThreadId) (w : BitVec 2) (u : Bool) (rd : BitVec 5) (ra : BitVec 5) (rb : BitVec 5) (s : State) : Result :=
  .next (s.issue t (.max t w u rd ra rb) (intAct .max 0 false (!u) w rd ra rb))

/-- SELNZ: a if nonzero, otherwise b. -/
def execSelnz (t : ThreadId) (w : BitVec 2) (u : Bool) (rd : BitVec 5) (ra : BitVec 5) (rb : BitVec 5) (s : State) : Result :=
  .next (s.issue t (.selnz t w u rd ra rb) (intAct .selnz 0 false (!u) w rd ra rb))

/-- CMPEQ: all ones if a = b. -/
def execCmpeq (t : ThreadId) (w : BitVec 2) (rd : BitVec 5) (ra : BitVec 5) (rb : BitVec 5) (s : State) : Result :=
  .next (s.issue t (.cmpeq t w rd ra rb) (cmpAct .eq true w rd ra rb))

/-- CMPLT: all ones if a < b. -/
def execCmplt (t : ThreadId) (w : BitVec 2) (u : Bool) (rd : BitVec 5) (ra : BitVec 5) (rb : BitVec 5) (s : State) : Result :=
  .next (s.issue t (.cmplt t w u rd ra rb) (cmpAct .lt (!u) w rd ra rb))

/-- CMPLE: all ones if a ≤ b. -/
def execCmple (t : ThreadId) (w : BitVec 2) (u : Bool) (rd : BitVec 5) (ra : BitVec 5) (rb : BitVec 5) (s : State) : Result :=
  .next (s.issue t (.cmple t w u rd ra rb) (cmpAct .le (!u) w rd ra rb))

/-- MOV: Dd := a. -/
def execMov (t : ThreadId) (w : BitVec 2) (u : Bool) (rd : BitVec 5) (ra : BitVec 5) (s : State) : Result :=
  .next (s.issue t (.mov t w u rd ra) (unaryAct (fun _ a => a) (!u) w rd ra))

/-- POPC: the number of ones. -/
def execPopc (t : ThreadId) (w : BitVec 2) (u : Bool) (rd : BitVec 5) (ra : BitVec 5) (s : State) : Result :=
  .next (s.issue t (.popc t w u rd ra) (unaryAct popCount (!u) w rd ra))

/-- CLZ: the number of leading zeros. -/
def execClz (t : ThreadId) (w : BitVec 2) (u : Bool) (rd : BitVec 5) (ra : BitVec 5) (s : State) : Result :=
  .next (s.issue t (.clz t w u rd ra) (unaryAct leadingZeros (!u) w rd ra))

/-- MUL: Dd := a × b reduced to W. -/
def execMul (t : ThreadId) (w : BitVec 2) (sat : Bool) (u : Bool) (rd : BitVec 5) (ra : BitVec 5) (rb : BitVec 5) (s : State) : Result :=
  .next (s.issue t (.mul t w sat u rd ra rb) (intAct .mul 1 sat (!u) w rd ra rb))

/-- MULH: the upper W bits of the product. -/
def execMulh (t : ThreadId) (w : BitVec 2) (u : Bool) (rd : BitVec 5) (ra : BitVec 5) (rb : BitVec 5) (s : State) : Result :=
  .next (s.issue t (.mulh t w u rd ra rb) (intAct .mulh 1 false (!u) w rd ra rb))

/-- DIV: Dd := quotient. -/
def execDiv (t : ThreadId) (w : BitVec 2) (sat : Bool) (u : Bool) (rd : BitVec 5) (ra : BitVec 5) (rb : BitVec 5) (s : State) : Result :=
  .next (s.issue t (.div t w sat u rd ra rb) (divAct false sat (!u) w rd ra rb t))

/-- DIVR: Dd := quotient, Dd+1 := remainder. -/
def execDivr (t : ThreadId) (w : BitVec 2) (sat : Bool) (u : Bool) (rd : BitVec 5) (ra : BitVec 5) (rb : BitVec 5) (s : State) : Result :=
  .next (s.issue t (.divr t w sat u rd ra rb) (divAct true sat (!u) w rd ra rb t))

/-- XMUL: Xd := a × b. -/
def execXmul (t : ThreadId) (w : BitVec 2) (u : Bool) (xd : BitVec 2) (ra : BitVec 5) (rb : BitVec 5) (s : State) : Result :=
  .next (s.issue t (.xmul t w u xd ra rb) (accAct (fun _ p => BitVec.ofInt 128 p) (!u) w xd ra rb t))

/-- XMAC: Xd := Xd + a × b. -/
def execXmac (t : ThreadId) (w : BitVec 2) (u : Bool) (xd : BitVec 2) (ra : BitVec 5) (rb : BitVec 5) (s : State) : Result :=
  .next (s.issue t (.xmac t w u xd ra rb) (accAct (fun x p => x + BitVec.ofInt 128 p) (!u) w xd ra rb t))

/-- XMSU: Xd := Xd − a × b. -/
def execXmsu (t : ThreadId) (w : BitVec 2) (u : Bool) (xd : BitVec 2) (ra : BitVec 5) (rb : BitVec 5) (s : State) : Result :=
  .next (s.issue t (.xmsu t w u xd ra rb) (accAct (fun x p => x - BitVec.ofInt 128 p) (!u) w xd ra rb t))

/-- R169, R314: the accumulator as XMOV reads it, shifted, rounded under TS.RM and reduced. -/
def xmovAct (rd : BitVec 5) (xs : BitVec 2) (sh : BitVec 7) (w : BitVec 2) (sat signed : Bool) (s : State) (th : Thread) : Act :=
  let r := xmovValue (tsRM th.r.ts) sat signed (wBits w) (th.xMov xs).toNat sh.toNat
  result s [writeD 1 rd (extend signed (wBits w) r.1)] r.2

/-- XMOV: Dd := X shifted, rounded and reduced. -/
def execXmov (t : ThreadId) (rd : BitVec 5) (xs : BitVec 2) (sh : BitVec 7) (w : BitVec 2) (sat : Bool) (u : Bool) (s : State) : Result :=
  .next (s.issue t (.xmov t rd xs sh w sat u) (xmovAct rd xs sh w sat (!u)))

end Sys2Proof.Machine
end

