-- ==== Sys2Proof/Machine/Float.lean ====
section
/-!
DEFINITION. The floating-point and packed-decimal instructions of the control core: FP (R315 to R317), FMA (R318) and
BCD (R319).
-/

namespace Sys2Proof.Machine

/-- R315: the low bits of a source. -/
def fpSrc (fw : BitVec 2) (th : Thread) (n : BitVec 5) : Nat := th.dNat n % 2 ^ fwBits fw

/-- R315: a floating-point result in the low bits, zero above, with distance 1. -/
def fpResult (s : State) (rd : BitVec 5) (r : Nat × Flags) : Act := result s [writeD 1 rd (BitVec.ofNat 64 r.1)] r.2

/-- An operation of two sources under TS.RM. -/
def fp2Act (f : FpFmt → Rounding → Nat → Nat → Nat × Flags) (fw : BitVec 2) (rd ra rb : BitVec 5) (s : State) (th : Thread) : Act :=
  fpResult s rd (f (fwFmt fw) (tsRM th.r.ts) (fpSrc fw th ra) (fpSrc fw th rb))

/-- R316: a comparison writes all ones or zero, 64 bits. -/
def fpCmpAct (c : FpCmp) (fw : BitVec 2) (rd ra rb : BitVec 5) (s : State) (th : Thread) : Act :=
  let r := (fwFmt fw).compare c (fpSrc fw th ra) (fpSrc fw th rb)
  result s [writeD 1 rd (boolWord r.1)] r.2

/-- R208: microwords of a floating-point divide or square root. -/
def fpDivLen (fw : BitVec 2) : Nat := if fw = 2 then 5 else 3

/-- R316: FDIV and FSQRT start their routine. -/
def fpRoutineAct (r : FpFmt → Rounding → Nat → Nat → Nat × Flags) (fw : BitVec 2) (rd ra rb : BitVec 5) (t : ThreadId)
    (s : State) (th : Thread) : Act :=
  let v := r (fwFmt fw) (tsRM th.r.ts) (fpSrc fw th ra) (fpSrc fw th rb)
  routineAct (.result rd (BitVec.ofNat 64 v.1) v.2 (fpDivLen fw)) t s th

/-- R318: the four fused forms. -/
def fmaAct (negProduct negAddend : Bool) (fw : BitVec 2) (rd ra rb rc : BitVec 5) (s : State) (th : Thread) : Act :=
  fpResult s rd ((fwFmt fw).fma (tsRM th.r.ts) negProduct negAddend (fpSrc fw th ra) (fpSrc fw th rb) (fpSrc fw th rc))

/-- R319: BCDADD and BCDSUB start their routine of 2 microwords. -/
def bcdAct (sub : Bool) (rd ra rb : BitVec 5) (t : ThreadId) (s : State) (th : Thread) : Act :=
  let r := bcdOp sub (th.dNat ra) (th.dNat rb)
  routineAct (.result rd (BitVec.ofNat 64 r.1) r.2 2) t s th

/-- R317: float to float. -/
def cvtffAct (src dst : BitVec 2) (rd ra : BitVec 5) (s : State) (th : Thread) : Act :=
  fpResult s rd (fpConvert (fwFmt src) (fwFmt dst) (tsRM th.r.ts) (fpSrc src th ra))

/-- R317, R146: float to integer, extended to 64 bits. -/
def cvtfiAct (fw w : BitVec 2) (u : Bool) (rd ra : BitVec 5) (s : State) (th : Thread) : Act :=
  let r := fpToInt (fwFmt fw) (tsRM th.r.ts) (!u) (wBits w) (fpSrc fw th ra)
  result s [writeD 1 rd (BitVec.ofInt 64 r.1)] r.2

/-- R317: the low W bits as an integer, to float. -/
def cvtifAct (fw w : BitVec 2) (u : Bool) (rd ra : BitVec 5) (s : State) (th : Thread) : Act :=
  fpResult s rd (intToFp (fwFmt fw) (tsRM th.r.ts) (toInt (!u) (wBits w) (th.dNat ra)))

/-- FADD: a + b. -/
def execFadd (t : ThreadId) (fw : BitVec 2) (rd : BitVec 5) (ra : BitVec 5) (rb : BitVec 5) (s : State) : Result :=
  .next (s.issue t (.fadd t fw rd ra rb) (fp2Act (fun f rm a b => f.add rm a b) fw rd ra rb))

/-- FSUB: a − b. -/
def execFsub (t : ThreadId) (fw : BitVec 2) (rd : BitVec 5) (ra : BitVec 5) (rb : BitVec 5) (s : State) : Result :=
  .next (s.issue t (.fsub t fw rd ra rb) (fp2Act (fun f rm a b => f.sub rm a b) fw rd ra rb))

/-- FMUL: a × b. -/
def execFmul (t : ThreadId) (fw : BitVec 2) (rd : BitVec 5) (ra : BitVec 5) (rb : BitVec 5) (s : State) : Result :=
  .next (s.issue t (.fmul t fw rd ra rb) (fp2Act (fun f rm a b => f.mul rm a b) fw rd ra rb))

/-- FDIV: a / b. -/
def execFdiv (t : ThreadId) (fw : BitVec 2) (rd : BitVec 5) (ra : BitVec 5) (rb : BitVec 5) (s : State) : Result :=
  .next (s.issue t (.fdiv t fw rd ra rb) (fpRoutineAct (fun f rm a b => f.div rm a b) fw rd ra rb t))

/-- FSQRT: the square root of a. -/
def execFsqrt (t : ThreadId) (fw : BitVec 2) (rd : BitVec 5) (ra : BitVec 5) (s : State) : Result :=
  .next (s.issue t (.fsqrt t fw rd ra) (fpRoutineAct (fun f rm a _ => f.sqrt rm a) fw rd ra 0 t))

/-- FMIN: minimumNumber(a, b). -/
def execFmin (t : ThreadId) (fw : BitVec 2) (rd : BitVec 5) (ra : BitVec 5) (rb : BitVec 5) (s : State) : Result :=
  .next (s.issue t (.fmin t fw rd ra rb) (fp2Act (fun f _ a b => f.minMax false true a b) fw rd ra rb))

/-- FMAX: maximumNumber(a, b). -/
def execFmax (t : ThreadId) (fw : BitVec 2) (rd : BitVec 5) (ra : BitVec 5) (rb : BitVec 5) (s : State) : Result :=
  .next (s.issue t (.fmax t fw rd ra rb) (fp2Act (fun f _ a b => f.minMax true true a b) fw rd ra rb))

/-- FMINM: minimum(a, b). -/
def execFminm (t : ThreadId) (fw : BitVec 2) (rd : BitVec 5) (ra : BitVec 5) (rb : BitVec 5) (s : State) : Result :=
  .next (s.issue t (.fminm t fw rd ra rb) (fp2Act (fun f _ a b => f.minMax false false a b) fw rd ra rb))

/-- FMAXM: maximum(a, b). -/
def execFmaxm (t : ThreadId) (fw : BitVec 2) (rd : BitVec 5) (ra : BitVec 5) (rb : BitVec 5) (s : State) : Result :=
  .next (s.issue t (.fmaxm t fw rd ra rb) (fp2Act (fun f _ a b => f.minMax true false a b) fw rd ra rb))

/-- FABS: a with its sign cleared. -/
def execFabs (t : ThreadId) (fw : BitVec 2) (rd : BitVec 5) (ra : BitVec 5) (s : State) : Result :=
  .next (s.issue t (.fabs t fw rd ra) (fp2Act (fun f _ a _ => (f.abs a, 0)) fw rd ra 0))

/-- FNEG: a with its sign inverted. -/
def execFneg (t : ThreadId) (fw : BitVec 2) (rd : BitVec 5) (ra : BitVec 5) (s : State) : Result :=
  .next (s.issue t (.fneg t fw rd ra) (fp2Act (fun f _ a _ => (f.neg a, 0)) fw rd ra 0))

/-- FCSGN: the magnitude of a with the sign of b. -/
def execFcsgn (t : ThreadId) (fw : BitVec 2) (rd : BitVec 5) (ra : BitVec 5) (rb : BitVec 5) (s : State) : Result :=
  .next (s.issue t (.fcsgn t fw rd ra rb) (fp2Act (fun f _ a b => (f.copySign a b, 0)) fw rd ra rb))

/-- FRINT: roundToIntegralExact(a). -/
def execFrint (t : ThreadId) (fw : BitVec 2) (rd : BitVec 5) (ra : BitVec 5) (s : State) : Result :=
  .next (s.issue t (.frint t fw rd ra) (fp2Act (fun f rm a _ => f.rint rm a) fw rd ra 0))

/-- FCMPEQ: all ones if a = b. -/
def execFcmpeq (t : ThreadId) (fw : BitVec 2) (rd : BitVec 5) (ra : BitVec 5) (rb : BitVec 5) (s : State) : Result :=
  .next (s.issue t (.fcmpeq t fw rd ra rb) (fpCmpAct .eq fw rd ra rb))

/-- FCMPLT: all ones if a < b. -/
def execFcmplt (t : ThreadId) (fw : BitVec 2) (rd : BitVec 5) (ra : BitVec 5) (rb : BitVec 5) (s : State) : Result :=
  .next (s.issue t (.fcmplt t fw rd ra rb) (fpCmpAct .lt fw rd ra rb))

/-- FCMPLE: all ones if a ≤ b. -/
def execFcmple (t : ThreadId) (fw : BitVec 2) (rd : BitVec 5) (ra : BitVec 5) (rb : BitVec 5) (s : State) : Result :=
  .next (s.issue t (.fcmple t fw rd ra rb) (fpCmpAct .le fw rd ra rb))

/-- CVTFF: float to float. -/
def execCvtff (t : ThreadId) (src : BitVec 2) (dst : BitVec 2) (rd : BitVec 5) (ra : BitVec 5) (s : State) : Result :=
  .next (s.issue t (.cvtff t src dst rd ra) (cvtffAct src dst rd ra))

/-- CVTFI: float to integer. -/
def execCvtfi (t : ThreadId) (fw : BitVec 2) (w : BitVec 2) (u : Bool) (rd : BitVec 5) (ra : BitVec 5) (s : State) : Result :=
  .next (s.issue t (.cvtfi t fw w u rd ra) (cvtfiAct fw w u rd ra))

/-- CVTIF: integer to float. -/
def execCvtif (t : ThreadId) (fw : BitVec 2) (w : BitVec 2) (u : Bool) (rd : BitVec 5) (ra : BitVec 5) (s : State) : Result :=
  .next (s.issue t (.cvtif t fw w u rd ra) (cvtifAct fw w u rd ra))

/-- FMA: a × b + c, one rounding. -/
def execFma (t : ThreadId) (fw : BitVec 2) (rd : BitVec 5) (ra : BitVec 5) (rb : BitVec 5) (rc : BitVec 5) (s : State) : Result :=
  .next (s.issue t (.fma t fw rd ra rb rc) (fmaAct false false fw rd ra rb rc))

/-- FMS: a × b − c, one rounding. -/
def execFms (t : ThreadId) (fw : BitVec 2) (rd : BitVec 5) (ra : BitVec 5) (rb : BitVec 5) (rc : BitVec 5) (s : State) : Result :=
  .next (s.issue t (.fms t fw rd ra rb rc) (fmaAct false true fw rd ra rb rc))

/-- FNMA: −(a × b) + c, one rounding. -/
def execFnma (t : ThreadId) (fw : BitVec 2) (rd : BitVec 5) (ra : BitVec 5) (rb : BitVec 5) (rc : BitVec 5) (s : State) : Result :=
  .next (s.issue t (.fnma t fw rd ra rb rc) (fmaAct true false fw rd ra rb rc))

/-- FNMS: −(a × b) − c, one rounding. -/
def execFnms (t : ThreadId) (fw : BitVec 2) (rd : BitVec 5) (ra : BitVec 5) (rb : BitVec 5) (rc : BitVec 5) (s : State) : Result :=
  .next (s.issue t (.fnms t fw rd ra rb rc) (fmaAct true true fw rd ra rb rc))

/-- BCDADD: Da + Db in packed decimal. -/
def execBcdadd (t : ThreadId) (rd : BitVec 5) (ra : BitVec 5) (rb : BitVec 5) (s : State) : Result :=
  .next (s.issue t (.bcdadd t rd ra rb) (bcdAct false rd ra rb t))

/-- BCDSUB: Da − Db in packed decimal. -/
def execBcdsub (t : ThreadId) (rd : BitVec 5) (ra : BitVec 5) (rb : BitVec 5) (s : State) : Result :=
  .next (s.issue t (.bcdsub t rd ra rb) (bcdAct true rd ra rb t))

end Sys2Proof.Machine
end

