-- ==== Sys2Proof/Machine/AddressImmediate.lean ====
section
/-!
DEFINITION. The A-register instructions (R320) and the immediate instructions (R321).
-/

namespace Sys2Proof.Machine

/-- R320, R292: a write to Ad, seen as a base one instruction later. -/
def writeAAct (t : ThreadId) (ad : BitVec 4) (v : Thread → Addr) (s : State) (th : Thread) : Act :=
  .complete (s.setThread t (th.setA ad (v th))) [⟨1, .aBase ad, (v th).setWidth 128⟩] 0 none

/-- An instruction that writes Dd at distance 0 and raises no flag. -/
def setDAct (rd : BitVec 5) (v : Thread → Word) (s : State) (th : Thread) : Act := result s [writeD 0 rd (v th)] 0

/-- MOVAD: Ad := Da[47:0]. -/
def execMovad (t : ThreadId) (ad : BitVec 4) (ra : BitVec 5) (s : State) : Result :=
  .next (s.issue t (.movad t ad ra) (writeAAct t ad fun th => (th.d ra).setWidth 48))

/-- MOVDA: Dd := Aa, zero-extended. -/
def execMovda (t : ThreadId) (rd : BitVec 5) (aa : BitVec 4) (s : State) : Result :=
  .next (s.issue t (.movda t rd aa) (setDAct rd fun th => (th.a aa).setWidth 64))

/-- CMPAEQ: all ones if Aa = Ab. -/
def execCmpaeq (t : ThreadId) (rd : BitVec 5) (aa : BitVec 4) (ab : BitVec 4) (s : State) : Result :=
  .next (s.issue t (.cmpaeq t rd aa ab) (setDAct rd fun th => boolWord (th.a aa == th.a ab)))

/-- CMPALTU: all ones if Aa < Ab, unsigned. -/
def execCmpaltu (t : ThreadId) (rd : BitVec 5) (aa : BitVec 4) (ab : BitVec 4) (s : State) : Result :=
  .next (s.issue t (.cmpaltu t rd aa ab) (setDAct rd fun th => boolWord (decide ((th.a aa).toNat < (th.a ab).toNat))))

/-- ADDA: Ad := Aa + sext(IMM). -/
def execAdda (t : ThreadId) (ad : BitVec 4) (aa : BitVec 4) (imm : BitVec 14) (s : State) : Result :=
  .next (s.issue t (.adda t ad aa imm) (writeAAct t ad fun th => th.a aa + imm.signExtend 48))

/-- SUBA: Ad := Aa − sext(IMM). -/
def execSuba (t : ThreadId) (ad : BitVec 4) (aa : BitVec 4) (imm : BitVec 14) (s : State) : Result :=
  .next (s.issue t (.suba t ad aa imm) (writeAAct t ad fun th => th.a aa - imm.signExtend 48))

/-- ADDI: Dd := Da + sext(IMM). -/
def execAddi (t : ThreadId) (rd : BitVec 5) (ra : BitVec 5) (imm : BitVec 14) (s : State) : Result :=
  .next (s.issue t (.addi t rd ra imm) (setDAct rd fun th => th.d ra + imm.signExtend 64))

/-- ANDI: Dd := Da AND zext(IMM). -/
def execAndi (t : ThreadId) (rd : BitVec 5) (ra : BitVec 5) (imm : BitVec 14) (s : State) : Result :=
  .next (s.issue t (.andi t rd ra imm) (setDAct rd fun th => th.d ra &&& imm.setWidth 64))

/-- ORI: Dd := Da OR zext(IMM). -/
def execOri (t : ThreadId) (rd : BitVec 5) (ra : BitVec 5) (imm : BitVec 14) (s : State) : Result :=
  .next (s.issue t (.ori t rd ra imm) (setDAct rd fun th => th.d ra ||| imm.setWidth 64))

/-- LI: Dd := sext(IMM). -/
def execLi (t : ThreadId) (rd : BitVec 5) (imm : BitVec 14) (s : State) : Result :=
  .next (s.issue t (.li t rd imm) (setDAct rd fun _ => imm.signExtend 64))

/-- SHLI: Dd := Da shifted left. -/
def execShli (t : ThreadId) (rd : BitVec 5) (ra : BitVec 5) (sh : BitVec 6) (s : State) : Result :=
  .next (s.issue t (.shli t rd ra sh) (setDAct rd fun th => th.d ra <<< sh.toNat))

/-- SHRI: Dd := Da shifted right, zero fill. -/
def execShri (t : ThreadId) (rd : BitVec 5) (ra : BitVec 5) (sh : BitVec 6) (s : State) : Result :=
  .next (s.issue t (.shri t rd ra sh) (setDAct rd fun th => th.d ra >>> sh.toNat))

/-- SRAI: Dd := Da shifted right, sign fill. -/
def execSrai (t : ThreadId) (rd : BitVec 5) (ra : BitVec 5) (sh : BitVec 6) (s : State) : Result :=
  .next (s.issue t (.srai t rd ra sh) (setDAct rd fun th => (th.d ra).sshiftRight sh.toNat))

/-- ROTLI: Dd := Da rotated left. -/
def execRotli (t : ThreadId) (rd : BitVec 5) (ra : BitVec 5) (sh : BitVec 6) (s : State) : Result :=
  .next (s.issue t (.rotli t rd ra sh) (setDAct rd fun th => (th.d ra).rotateLeft sh.toNat))

/-- CMPEQI: all ones if Da = sext(IMM). -/
def execCmpeqi (t : ThreadId) (rd : BitVec 5) (ra : BitVec 5) (imm : BitVec 14) (s : State) : Result :=
  .next (s.issue t (.cmpeqi t rd ra imm) (setDAct rd fun th => boolWord (th.d ra == imm.signExtend 64)))

/-- CMPLTI: all ones if Da < sext(IMM), signed. -/
def execCmplti (t : ThreadId) (rd : BitVec 5) (ra : BitVec 5) (imm : BitVec 14) (s : State) : Result :=
  .next (s.issue t (.cmplti t rd ra imm) (setDAct rd fun th => boolWord (decide ((th.d ra).toInt < imm.toInt))))

/-- CMPLTUI: all ones if Da < sext(IMM), unsigned. -/
def execCmpltui (t : ThreadId) (rd : BitVec 5) (ra : BitVec 5) (imm : BitVec 14) (s : State) : Result :=
  .next (s.issue t (.cmpltui t rd ra imm) (setDAct rd fun th => boolWord (decide ((th.d ra).toNat < (imm.signExtend 64).toNat))))

end Sys2Proof.Machine
end

