-- ==== Sys2Proof/Machine/LifeCycle.lean ====
section
/-!
DEFINITION. What the fuses decode to (R434 to R436, R441), and the placement of ridges and lanes (R17, R450).
-/

namespace Sys2Proof.Machine

/-! ### Fuses -/

/-- The life-cycle states of R441. -/
inductive LifeState where
  | test
  | blank
  | owned
  | ownedDebug
  | ret
  | scrap
  deriving DecidableEq, Repr

/-- R441: the state code. -/
def LifeState.code (x : LifeState) : Nat :=
  match x with
  | .test => 1
  | .blank => 2
  | .owned => 3
  | .ownedDebug => 4
  | .ret => 5
  | .scrap => 6

/-- R441: RCOUNT. -/
def Fuses.rcount (f : Fuses) : Nat := (f.count - 1) / 3

/-- R441: the state the fuses decode to, and debug. -/
def State.life (s : State) : LifeState :=
  let c := s.fuses.count
  if s.fuses.scrap then .scrap
  else if c = 0 then .test
  else if (c - 1) % 3 = 0 then .blank
  else if (c - 1) % 3 = 1 then (if s.smc.debug then .ownedDebug else .owned)
  else .ret

/-- R434: slot `k` of the current generation. -/
def Fuses.slot (f : Fuses) (k : Fin 4) : KeySlot := f.slots[4 * (f.rcount % 4) + k.val]

/-- R434: the slot is usable. -/
def KeySlot.usable (x : KeySlot) : Bool := x.programmed && !x.revoked

/-- The four slots of a generation. -/
def keySlots : List (Fin 4) := List.finRange 4

/-- A mask of the slots of the current generation that `p` picks. -/
def Fuses.slotMask (f : Fuses) (p : KeySlot → Bool) : Nat :=
  (keySlots.map fun k => if p (f.slot k) then 2 ^ k.val else 0).sum

/-- LC_STATE. -/
def State.lcState (s : State) : Nat :=
  let f := s.fuses
  s.life.code + f.rcount % 4 * 2 ^ 4 + f.count % 16 * 2 ^ 8 + b2n f.scrap * 2 ^ 12 + f.slotMask (·.programmed) * 2 ^ 16
    + f.slotMask (·.revoked) * 2 ^ 20 + b2n s.smc.debug * 2 ^ 24 + b2n s.smc.erasing * 2 ^ 25

/-- R468: a life-cycle transition from state `x` is recorded, if one took place. -/
def State.noteLife (s : State) (x : LifeState) : State :=
  if s.life = x then s else s.note 0x0007 [x.code, s.life.code, s.fuses.count]

/-- R442: debug closes in OWNED_DEBUG. -/
def State.closeDebug (s : State) : State :=
  if s.life = .ownedDebug then ({ s with smc := { s.smc with debug := false } }).noteLife .ownedDebug else s

/-! ### Placement -/

/-- The 34 sites. -/
def siteIds : List SiteId := List.finRange 34

/-- The slot that carries logical lane `k` of site `st`. -/
def State.laneSlot (s : State) (st : SiteId) (k : Nat) : Nat := Sparse.get k s.repair.lanes (16 * st.val + k)

/-- The state with a lane of a site on another slot. -/
def State.setLaneSlot (s : State) (st : SiteId) (k slot : Nat) : State :=
  { s with repair := { s.repair with lanes := Sparse.set k s.repair.lanes (16 * st.val + k) slot } }

/-- A site's repair state. -/
def State.site (s : State) (st : SiteId) : Site := s.repair.sites[st]

/-- The state with it replaced. -/
def State.setSite (s : State) (st : SiteId) (x : Site) : State :=
  { s with repair := { s.repair with sites := s.repair.sites.set st.val x st.isLt } }

/-- A slot of a site is retired. -/
def State.slotRetired (s : State) (st : SiteId) (k : Nat) : Bool := bitOf (s.site st).retired.toNat k

/-- The slots of a site that carry no lane and are not retired. -/
def State.spareSlots (s : State) (st : SiteId) : List Nat :=
  (List.range 18).filter fun k => !s.slotRetired st k && !((List.range 16).any fun l => s.laneSlot st l == k)

/-- R450: a bank's replacement by its scaffold bank has been made. -/
def State.scaffoldUsed (s : State) (w : ScaffoldOf) : Bool :=
  s.sram.scaffoldRetired.contains w || s.sram.replaced.any fun b =>
    match b, w with
    | .bulk g _, .ledge g' => g == g'
    | .saddle g _, .ledge g' => g == g'
    | .channelTable _, .channelTable => true
    | _, _ => false

/-- The number of rows of a bank repaired with scaffold rows. -/
def State.rowsUsed (s : State) (b : SramBank) : Nat := (s.sram.rows.filter fun r => r.1 == b).length

/-- RPR_STATUS.SPARELOW: some resource of R450 has no healthy scaffold left. -/
def State.spareLow (s : State) : Bool :=
  !(siteIds.any fun st => (s.site st).st == 1 || (s.site st).st == 2)
    || ridgeIds.any (fun g => match s.siteOf g with
      | some st => (s.spareSlots st).isEmpty
      | none => false)
    || ridgeIds.any (fun g => s.scaffoldUsed (.ledge g)) || s.scaffoldUsed .channelTable
    || s.sram.rows.any (fun r => decide (4 ≤ s.rowsUsed r.1))

/-- Some ridge is offline. -/
def State.degraded (s : State) : Bool := ridgeIds.any fun g => (s.ridge g).offline

end Sys2Proof.Machine
end

