-- ==== Sys2Proof/Machine/StreamOperands.lean ====
section
/-!
DEFINITION. The stream descriptor (R83 to R88), operand addressing (R97 to R99) and the checks of each element's
accesses (R101), with the values read once at dispatch.
-/

namespace Sys2Proof.Machine

/-! ### Descriptor fields -/

/-- Doubleword `k` of a descriptor. -/
def QEntry.word (e : QEntry) (k : Fin 8) : Nat := (e.dw[k]).toNat
/-- OP. -/
def QEntry.op (e : QEntry) : Nat := field (e.word 0) 0 12
/-- ETYPE. -/
def QEntry.etype (e : QEntry) : Nat := field (e.word 0) 12 4
/-- PACK. -/
def QEntry.pack (e : QEntry) : Nat := field (e.word 0) 16 2
/-- QOS. -/
def QEntry.qos (e : QEntry) : Nat := field (e.word 0) 18 4
/-- MASKEN. -/
def QEntry.masken (e : QEntry) : Bool := bitOf (e.word 0) 22
/-- CHIN_A. -/
def QEntry.chinA (e : QEntry) : Bool := bitOf (e.word 0) 23
/-- CHIN_B. -/
def QEntry.chinB (e : QEntry) : Bool := bitOf (e.word 0) 24
/-- CHOUT. -/
def QEntry.chout (e : QEntry) : Bool := bitOf (e.word 0) 25
/-- ORDER. -/
def QEntry.order (e : QEntry) : Bool := bitOf (e.word 0) 26
/-- SAT. -/
def QEntry.sat (e : QEntry) : Bool := bitOf (e.word 0) 27
/-- RND. -/
def QEntry.rnd (e : QEntry) : Nat := field (e.word 0) 28 4
/-- EVENT. -/
def QEntry.event (e : QEntry) : Nat := field (e.word 0) 32 8
/-- CHID. -/
def QEntry.chid (e : QEntry) : Fin 16 := ⟨field (e.word 0) 40 4 % 16, by omega⟩
/-- LEN. -/
def QEntry.len (e : QEntry) : Nat := field (e.word 1) 0 32
/-- START. -/
def QEntry.start (e : QEntry) : Nat := field (e.word 1) 32 32
/-- The stream is a chain member: a chain flag is set. -/
def QEntry.member (e : QEntry) : Bool := e.chinA || e.chinB || e.chout

/-- An operand position of a descriptor. -/
inductive Pos where
  | a
  | b
  | d
  deriving DecidableEq, Repr

/-- The first doubleword of an operand. -/
def QEntry.first (e : QEntry) (p : Pos) : Nat :=
  match p with
  | .a => e.word 2
  | .b => e.word 4
  | .d => e.word 6
/-- The second doubleword of an operand. -/
def QEntry.second (e : QEntry) (p : Pos) : Nat :=
  match p with
  | .a => e.word 3
  | .b => e.word 5
  | .d => e.word 7
/-- The address field of an operand. -/
def QEntry.base (e : QEntry) (p : Pos) : Nat := field (e.first p) 0 48
/-- MODE of an operand. -/
def QEntry.mode (e : QEntry) (p : Pos) : Nat := field (e.first p) 48 4
/-- R88: both doublewords are zero. -/
def QEntry.absent (e : QEntry) (p : Pos) : Bool := e.first p == 0 && e.second p == 0

/-- The type of the stream's operation; RND 0xF takes TS.RM as sampled (R85). -/
def QEntry.ty (e : QEntry) : VTy :=
  ⟨e.etype, packN e.pack, e.sat, Rounding.ofCode (if e.rnd = 15 then e.rm.toNat else e.rnd)⟩

/-- The V register sampled for an operand with MODE 0x5 (R90). -/
def QEntry.vreg (e : QEntry) (p : Pos) : Nat :=
  match p with
  | .a => e.va.toNat
  | .b => e.vb.toNat
  | .d => e.vd.toNat

/-! ### Access checks (R101) -/

/-- The ridge side of a stream's accesses: its ridge, thread and ring; the row (`fr`) and element a read is for; and the
bytes the stream has overwritten, oldest first (R100). -/
structure Who where
  g : RidgeId
  th : Fin 8
  ring : Nat
  fr : Nat
  elem : Nat
  before : List (Nat × Byte)
  deriving DecidableEq, Repr

/-- R268, R253, R391: the stream ports of ridge `g` reach the byte at `b` with an access of `n` bytes at `a`. -/
def State.streamReaches (s : State) (g : RidgeId) (ty : AccType) (a n b : Nat) : Bool :=
  match s.region b with
  | .deep => true
  | .aboveTop => true
  | .ledge g' _ => s.ledgePath g g'
  | .channelTable _ => true
  | .mailbox _ => true
  | .queuePort _ => ty == .write
  | .aliasOf _ target =>
    ty == .write && (n == 1 || n == 2 || n == 4 || n == 8) && a % n == 0 &&
      (match s.baseRegion target with
        | .ledge g' _ => s.ledgePath g g'
        | .mailbox _ => true
        | _ => false)
  | _ => false

/-- The mark of an access that waits at the deep store (R218, R219, R225, R235): the row's operands are not ready. No
check of R101 has order 0. Choices: log entry 35. -/
def waitFault : SFault := ⟨0, 0xFF, 0⟩

/-- R101 checks 2 and 3 on an access of `n` bytes at the 64-bit address `a`. ADDR is the byte that no window grants
or that lies above the top, and the access's address where no region holds it (DEDUCED, log entry 20). -/
def State.accessFault (s : State) (w : Who) (ty : AccType) (a n : Nat) : Option SFault :=
  let bytes := (List.range n).map fun k => a + k
  match bytes.find? fun b => decide (2 ^ 48 ≤ b) || !s.byteGranted (threadOf w.g w.th) ty w.ring b with
  | some b => some ⟨2, 0x03, BitVec.ofNat 48 b⟩
  | none =>
    if bytes.any fun b => !s.streamReaches w.g ty a n b then some ⟨2, 0x03, BitVec.ofNat 48 a⟩
    else
      match bytes.find? fun b => s.region b == .aboveTop || (!s.deepUp && s.region b == .deep) with
      | some b => some ⟨3, 0x05, BitVec.ofNat 48 b⟩
      | none => if s.deepHeld a n then some waitFault else none

/-- Whether an uncorrectable word is a fault of the element that reads it (check 5): ECC windows and the channel
table. -/
def State.eccFaults (s : State) (a : Nat) : Bool :=
  match s.region a with
  | .deep => true
  | .channelTable _ => true
  | _ => false

/-- The result of one read of a stream: the value and the failed check, if any. -/
structure Fetched where
  v : Nat
  fault : Option SFault
  st : State

/-- R100: the values that the byte at `a` had since the stream began, oldest first, `now` the last. -/
def Who.versions (w : Who) (a : Nat) (now : Byte) : List Byte := (w.before.filter fun x => x.1 == a).map (·.2) ++ [now]

/-- R100: what a read of a byte that the stream itself has overwritten returns: one of those values. Choices: log
entry 4. -/
def Who.revisit (w : Who) (a : Nat) (now : Byte) : Byte :=
  let vs := w.versions a now
  nth now vs (Config.overlapVersion w.fr w.elem a % vs.length)

/-- The bytes `bs` read at `a`, those that the stream has overwritten as R100 leaves them. Choices: log entry 4. -/
def Who.view (w : Who) (a : Nat) (bs : List Byte) : List Byte :=
  if w.before.isEmpty then bs else (bs.zipIdx).map fun p => w.revisit (a + p.2) p.1

/-- A checked read of `n` bytes at `a` (checks 2, 3 and 5). -/
def State.fetch (s : State) (w : Who) (a n : Nat) : Fetched :=
  match s.accessFault w .read a n with
  | some f => ⟨0, some f, s⟩
  | none =>
    let r := s.memRead (.stream w.g w.th) a n
    ⟨leNat (w.view a r.bytes), if r.bad && s.eccFaults a then some ⟨5, 0x06, BitVec.ofNat 48 a⟩ else none, r.st⟩

/-- R101: of several failed checks, in the order A, B, D, the one of lowest order. -/
def pickFault (fs : List (Option SFault)) : Option SFault :=
  fs.foldl (fun acc f =>
    match acc, f with
    | none, f => f
    | some x, none => some x
    | some x, some y => if y.order < x.order then some y else some x) none

/-- R228, R259: a partial write of `n` bytes at `a` would merge into an uncorrectable word of an ECC window or into an
uncorrectable channel-table entry. -/
def State.mergeBad (s : State) (a n : Nat) : Bool :=
  if a < deepEnd then (granulesOf a n).any fun g => !coversGranule g a n && s.granuleBad (s.deepPlace g) g
  else
    match s.region a with
    | .channelTable _ => (wordsOf a n).any fun w => !coversWord w a n && s.wordClass w == .uncorrectable
    | _ => false

/-- R228, R244, R260: what the merge reads of a write that does not come about count and record. -/
def State.noteMerge (s : State) (who : Requester) (a n : Nat) : State :=
  if a < deepEnd then
    ((granulesOf a n).filter fun g => !coversGranule g a n).foldl (fun (s : State) g => s.noteGranule who (s.deepPlace g) g) s
  else ((wordsOf a n).filter fun w => !coversWord w a n).foldl (fun (s : State) w => s.noteWord who w (s.wordClass w)) s

/-- The checks of a destination access of `n` bytes at `a`, and the state after its merge reads where they fail. -/
def State.destCheck (s : State) (w : Who) (a n : Nat) : Option SFault × State :=
  match s.accessFault w .write a n with
  | some f => (some f, s)
  | none => if s.mergeBad a n then (some ⟨5, 0x06, BitVec.ofNat 48 a⟩, s.noteMerge (.stream w.g w.th) a n) else (none, s)

/-! ### Addressing (R97) -/

/-- The signed stride of MODE 0x1 in elements. -/
def QEntry.stride (e : QEntry) (p : Pos) : Int := toSigned 64 (e.second p)

/-- An address formed in 64-bit two's complement. -/
def addr64 (x : Int) : Nat := wrapNat 64 x

/-- R97: the address of element `i` in MODE 0x0 or 0x1 with elements of `n` bytes. -/
def QEntry.elemAddr (e : QEntry) (p : Pos) (n i : Nat) : Nat :=
  if e.mode p = 1 then addr64 (e.base p + i * e.stride p * n) else addr64 (e.base p + i * n)

/-- R97, R101 check 1: the address of element `i`, with an index-vector or address-vector read in MODE 0x2 and 0x3. -/
def State.placeOf (s : State) (w : Who) (e : QEntry) (p : Pos) (n i : Nat) : Fetched :=
  let first (f : Fetched) : Option SFault := f.fault.map fun x => { x with order := min 1 x.order }
  if e.mode p = 2 then
    let f := s.fetch w (addr64 (e.second p + 4 * i)) 4
    ⟨addr64 (e.base p + f.v * n), first f, f.st⟩
  else if e.mode p = 3 then
    let f := s.fetch w (addr64 (e.second p + 8 * i)) 8
    ⟨addr64 (e.base p + f.v), first f, f.st⟩
  else ⟨e.elemAddr p n i, none, s⟩

/-- R101 check 4: a gathered or scattered element not aligned to `n`. -/
def alignFault (e : QEntry) (p : Pos) (a n : Nat) : Option SFault :=
  if (e.mode p = 2 ∨ e.mode p = 3) ∧ a % n ≠ 0 then some ⟨4, 0x04, BitVec.ofNat 48 a⟩ else none

/-- R366: what the saddle word of an element's first byte says: its tag, and BAD. -/
def State.saddleTag (s : State) (a : Nat) : Option Word × Bool :=
  if s.inSaddle a then
    let t := s.tagWord (saddleWord a)
    let b := s.reg 0x07 0x20
    (if t.tv && !t.bad then some (BitVec.ofNat 64 (extendTag 16 b t.tag16.toNat)) else none, t.bad)
  else (none, false)

/-- A source operand of an element: value, tag, BAD and failed check. -/
structure Source where
  v : Nat
  tag : Option Word
  bad : Bool
  fault : Option SFault
  st : State

/-- An operand that comes from a register, a scalar or nowhere. -/
def Source.plain (s : State) (v : Nat) : Source := ⟨v, none, false, none, s⟩

/-- R97: a source operand of `n` bytes per element at element `i`: vector modes read memory, MODE 0x4 gives the value
`once` read at dispatch, MODE 0x5 the sampled V register (zero beyond its 32 bytes), MODE 0x6 the chain element `ce`.
Choices: log entry 27. -/
def State.source (s : State) (w : Who) (e : QEntry) (p : Pos) (n i once : Nat) (ce : Option Elem) : Source :=
  let m := e.mode p
  if m = 4 then Source.plain s once
  else if m = 5 then Source.plain s (e.vreg p / 2 ^ (8 * (i * n % 32)) % 2 ^ (8 * n))
  else if m = 6 then
    match ce with
    | some c => ⟨c.v.toNat % 2 ^ (8 * n), c.tag, false, none, s⟩
    | none => Source.plain s 0
  else
    let pl := s.placeOf w e p n i
    match pl.fault with
    | some f => ⟨0, none, false, some f, pl.st⟩
    | none =>
      let f := pl.st.fetch w pl.v n
      let t := pl.st.saddleTag pl.v
      ⟨f.v, t.1, t.2, pickFault [f.fault, alignFault e p pl.v n], f.st⟩

/-- R148: operand A of MASKUNPACK at element `i`: the bit of its bitmap byte. -/
def State.maskSource (s : State) (w : Who) (e : QEntry) (i : Nat) (ce : Option Elem) : Source :=
  if e.mode .a = 6 then
    match ce with
    | some c => ⟨c.v.toNat % 2, c.tag, false, none, s⟩
    | none => Source.plain s 0
  else
    let a := addr64 (e.base .a + i / 8)
    let f := s.fetch w a 1
    let t := s.saddleTag a
    ⟨f.v / 2 ^ (i % 8) % 2, t.1, t.2, f.fault, f.st⟩

/-! ### The channel table (R160, R162) -/

/-- R160: channel indices of an element: from the base read once, or from the element of operand B. -/
def channelIndices (e : QEntry) (ty : VTy) (i once b : Nat) : List Nat :=
  (List.range ty.n).map fun j => if e.mode .b = 4 then once + (i * ty.n + j) else field b (32 * j) 32

/-- R160: the entries of the channels of one element, lowest 64 bits first. -/
def State.channelEntries (s : State) (w : Who) (cs : List Nat) : Fetched :=
  match cs with
  | [] => ⟨0, none, s⟩
  | c :: rest =>
    let a := ctBase + 8 * c
    let f := if 2097152 ≤ c then ⟨0, some ⟨2, 0x03, BitVec.ofNat 48 a⟩, s⟩ else s.fetch w a 8
    let r := f.st.channelEntries w rest
    ⟨f.v + 2 ^ 64 * r.v, pickFault [f.fault, r.fault], r.st⟩

/-! ### One element (R99, R101) -/

/-- R99: whether element `i` is active under the mask, and a failed bitmap read. Choices: log entry 27. -/
def State.maskBit (s : State) (w : Who) (e : QEntry) (i : Nat) : Bool × Option SFault × State :=
  if e.masken then
    let a := addr64 (e.maskBase.toNat + i / 8)
    let f := s.fetch w a 1
    (f.fault.isSome || bitOf f.v (i % 8), f.fault.map fun x => { x with order := min 1 x.order }, f.st)
  else (true, none, s)

/-- Bytes of a destination element that has a static address, if any. -/
def staticDest (code : Nat) (ty : VTy) (e : QEntry) : Option Nat :=
  if 3 < e.mode .d then none
  else
    match kindOf code with
    | .reduction => none
    | .compact _ => none
    | .hist => none
    | .maskPack => none
    | _ => some (dSize code ty)

/-- R97, R101: the operands of element `i` of a member; a history element has no destination (R128). `sa` and `sb` were
read at dispatch; `ce` is the element on the chain input; `useBv` says whether operand B is fetched element by
element. An element that BAD of its saddle word (R366) makes inactive has fetched its operand and supplies it (R117).
Choices: log entry 27. -/
def State.operands (s : State) (w : Who) (e : QEntry) (sa sb i : Nat) (ce : Option Elem) (aUsed useBv : Bool) :
    Operands × State :=
  let ty := e.ty
  let code := e.op
  let m := s.maskBit w e i
  let chainAct := match ce with
    | some c => c.act
    | none => true
  let upstream : Option SFault := match ce with
    | some c => c.bad
    | none => none
  let chained (p : Pos) : Nat := match ce with
    | some c => if e.mode p = 6 then c.v.toNat else 0
    | none => 0
  if m.2.1.isSome then
    (⟨i, true, none, 0, 0, 0, if upstream.isSome then upstream else m.2.1, none, false⟩, m.2.2)
  else if !(m.1 && chainAct) then
    (⟨i, false, match ce with | some c => c.tag | none => none, chained .a, chained .b, 0, upstream, none, ce.isSome⟩, m.2.2)
  else
    let a := if !aUsed then Source.plain m.2.2 0
      else if code = 0x211 then m.2.2.maskSource w e i ce else m.2.2.source w e .a (aSize code ty) i sa ce
    let b := if useBv then a.st.source w e .b (bSize code ty) i sb ce else Source.plain a.st 0
    let t := if kindOf code == .channel then b.st.channelEntries w (channelIndices e ty i sb b.v) else ⟨b.v, none, b.st⟩
    let d := match (if i < e.start then none else staticDest code ty e) with
      | some n =>
        let pl := t.st.placeOf w e .d n i
        match pl.fault with
        | some f => (pl.v, some f, pl.st)
        | none =>
          let c := pl.st.destCheck w pl.v n
          (pl.v, pickFault [c.1, alignFault e .d pl.v n], c.2)
      | none => (0, none, t.st)
    let bFault := if b.fault.isSome then b.fault else t.fault
    let own := pickFault [a.fault, bFault]
    (⟨i, !a.bad && !b.bad, if aUsed then a.tag else b.tag, a.v, t.v, d.1,
      if upstream.isSome then upstream else own, d.2.1, true⟩, d.2.2)

/-! ### Values read once at dispatch (R101) -/

/-- R143: a pair operand: its two values. -/
def State.pairValues (s : State) (w : Who) (e : QEntry) (n : Nat) : Fetched × Nat :=
  if e.mode .b = 5 then (⟨e.vb.toNat % 2 ^ (8 * n), none, s⟩, e.vb.toNat / 2 ^ (8 * n) % 2 ^ (8 * n))
  else
    let f := s.fetch w (e.base .b) n
    let h := f.st.fetch w (addr64 (e.base .b + n)) n
    (⟨f.v, pickFault [f.fault, h.fault], h.st⟩, h.v)

/-- Bytes of operand B's MODE 0x4 value (R88, R156, R158, R160, R163). -/
def scalarB (code : Nat) (ty : VTy) : Nat :=
  match useB code with
  | .doubleword => 8
  | .threshold => ty.w / 8
  | .weight => ty.w / 8
  | .channel => 4
  | _ => ty.esize

/-- R101: the values that an operation reads once at dispatch: those of A and B, the second value of a pair or the F of
an integer FIR, the first failed check, and the state after the reads. -/
def State.onceValues (s : State) (w : Who) (e : QEntry) (aUsed bUsed : Bool) : Nat × Nat × Nat × Option SFault × State :=
  let ty := e.ty
  let code := e.op
  let a := if aUsed && e.mode .a == 4 then s.fetch w (e.base .a) (aSize code ty) else ⟨0, none, s⟩
  if useB code == .pair then
    let r := a.st.pairValues w e ty.esize
    (a.v, r.1.v, r.2, pickFault [a.fault, r.1.fault], r.1.st)
  else if useB code == .taps then
    match kindOf code with
    | .fir t =>
      if etInt ty.et then
        let f := a.st.fetch w (addr64 (e.base .b + t * (ty.w / 8))) (ty.w / 8)
        (a.v, 0, f.v, pickFault [a.fault, f.fault], f.st)
      else (a.v, 0, 0, a.fault, a.st)
    | _ => (a.v, 0, 0, a.fault, a.st)
  else if bUsed && e.mode .b == 4 then
    let f := a.st.fetch w (e.base .b) (scalarB code ty)
    (a.v, f.v, 0, pickFault [a.fault, f.fault], f.st)
  else (a.v, 0, 0, a.fault, a.st)

/-- R154: the taps of an FIR row, and the first failed check. -/
def State.readTaps (s : State) (w : Who) (e : QEntry) (t : Nat) : List Nat × Option SFault × State :=
  (List.range t).foldl (fun (acc : List Nat × Option SFault × State) (k : Nat) =>
    let n := e.ty.w / 8
    let f := acc.2.2.fetch w (addr64 (e.base .b + k * n)) n
    (acc.1 ++ [f.v], pickFault [acc.2.1, f.fault], f.st)) ([], none, s)

end Sys2Proof.Machine
end

