-- ==== Sys2Proof/Machine/StreamOps.lean ====
section
/-!
DEFINITION. How a member with a basic code turns its elements into decided elements (R99, R126, R148 to R164): element
by element, with the state it carries from one to the next.
-/

namespace Sys2Proof.Machine

/-- A member's operation state at dispatch: nothing came before; the 16 n partials of a reduction are absent. -/
def OpState.start (ty : VTy) : OpState := ⟨[], none, List.replicate (16 * ty.n) ⟨none, 0⟩, [], [], []⟩

/-- An element of a member with operation code `op`, decided from its operands `x` with result `v`. An inactive element
raises no flag and forwards a placeholder; `look` is a failed check on an element it depends on (R127). -/
def decideElem (op : Nat) (x : Operands) (v : Nat) (picks : List (Int × Int)) (f : Flags) (look : Option SFault) : Decided :=
  if x.act then
    ⟨x.i, true, x.tag, v, picks, x.d, f, pickFault [x.bad, look, x.dbad], if x.bad.isSome then x.bad else look⟩
  else ⟨x.i, false, x.tag, (Config.placeholder op x.a x.b v).toNat, [], x.d, 0, x.bad, x.bad⟩

/-- R156: the picks of a compaction: selected sub-words as hit records or as elements. -/
def compactPicks (records : Bool) (ty : VTy) (scalarB : Bool) (sb : Nat) (x : Operands) : List (Int × Int) × Flags :=
  (List.range ty.n).foldl (fun (acc : List (Int × Int) × Flags) (j : Nat) =>
    let a := subw ty.w x.a j
    let b := if scalarB then sb % 2 ^ ty.w else subw ty.w x.b j
    let r := quietLt ty b a
    let v : Nat := if records then hitRecord ty a (x.i * ty.n + j) x.tag else a
    (if r.1 then acc.1 ++ [((v : Int), 0)] else acc.1, acc.2 ||| r.2)) ([], 0)

/-- R158: bins and weights of an element. -/
def histPicks (ty : VTy) (weightOne scalarB : Bool) (sb : Nat) (x : Operands) : List (Int × Int) :=
  (List.range ty.n).map fun j =>
    let weight : Int :=
      if weightOne then 1
      else if scalarB then toInt ty.signed ty.w sb
      else toInt ty.signed ty.w (subw ty.w x.b j)
    (toInt ty.signed ty.w (subw ty.w x.a j), weight)

/-- R150: the active sub-words of element `x` taken into their partials. -/
def takePartials (code : Nat) (ty : VTy) (x : Operands) (parts : List Partial) : List Partial × Flags :=
  (List.range ty.n).foldl (fun (acc : List Partial × Flags) (j : Nat) =>
    let q := x.i % 16 * ty.n + j
    let t := reduceTake code ty (x.i * ty.n + j) (subw ty.w x.a j)
    let c := combine code ty (nth ⟨none, 0⟩ acc.1 q) t.1
    (acc.1.set q c.1, acc.2 ||| t.2 ||| c.2)) (parts, 0)

/-- R101, R148, R164: of the failed checks among the elements of a block, the one of lowest order: over all of them, and
over the operands alone. -/
def blockFault (xs : List Operands) : Option SFault × Option SFault :=
  (pickFault (xs.map (·.bad) ++ xs.map (·.dbad)), pickFault (xs.map (·.bad)))

/-- R148, R164: a block ends with an element whose index is 7 mod 8, or with the last one. -/
def blockEnds (i : Nat) (last : Bool) : Bool := i % 8 == 7 || last

/-- R148, R164: the elements of a block of 8 decided together; a failed check stands at its lowest element. -/
def decideBlock (op : Nat) (vs : List Nat) (xs : List Operands) (byte : Option Nat) : List Decided :=
  let f := blockFault xs
  (List.range xs.length).map fun k =>
    let x := nth ⟨0, false, none, 0, 0, 0, none, none, false⟩ xs k
    let y : Operands := { x with dbad := none, bad := f.2 }
    let picks : List (Int × Int) := match byte with
      | some b => if k + 1 = xs.length then [((b : Int), 0)] else []
      | none => []
    { decideElem op y (nth 0 vs k) [] 0 none with picks := picks, fault := if k = 0 then f.1 else f.2 }

/-- One element through a look-ahead operation (R126): the pending element is decided, and in the last place this one
too. -/
def lookStep (code : Nat) (op : Nat → Nat → Nat → Nat × Flags) (os : OpState) (x : Operands) (last : Bool) :
    List Decided × OpState :=
  let before := nth 0 os.hist 0
  let first : List Decided :=
    match os.pend with
    | some p =>
      let r := op before p.a x.a
      [decideElem code p r.1 [] r.2 (if p.act then x.bad else none)]
    | none => []
  let prev := match os.pend with
    | some p => p.a
    | none => 0
  if last then
    let r := op prev x.a 0
    (first ++ [decideElem code x r.1 [] r.2 none], { os with hist := [x.a], pend := none })
  else (first, { os with hist := [prev], pend := some x })

/-- One element through the operation of a basic code; `last` marks the last element of the stream. An element that R162
suppresses whole has fetched its operands; it takes no fault of its destination. Choices: log entry 27. -/
def basicStep (e : QEntry) (sb sb1 : Nat) (os : OpState) (x : Operands) (last : Bool) :
    List Decided × OpState :=
  let ty := e.ty
  let code := e.op
  let scalarB := e.mode .b == 4
  match kindOf code with
  | .map =>
    let r := containerOp code ty x.a (if useB code == .pair || useB code == .doubleword then sb else x.b) sb1
    ([decideElem code x r.1 [] r.2 none], os)
  | .maskPack =>
    let xs := os.block ++ [x]
    if blockEnds x.i last then
      let bit (y : Operands) : Nat := if y.act && y.a % 2 ^ (ty.w * ty.n) != 0 then 1 else 0
      let byte := xs.foldl (fun acc y => acc + bit y * 2 ^ (y.i % 8)) 0
      (decideBlock code (xs.map bit) xs (if xs.any fun y => y.act then some byte else none), { os with block := [] })
    else ([], { os with block := xs })
  | .reduction =>
    if x.act then
      let r := takePartials code ty x os.parts
      ([decideElem code x 0 [] r.2 none], { os with parts := if x.bad.isSome then os.parts else r.1 })
    else ([decideElem code x 0 [] 0 none], os)
  | .fir t =>
    let xs := x.a :: os.hist
    let r := firOp ty sb1 os.taps xs
    ([decideElem code x r.1 [] r.2 none], { os with hist := xs.take ((t - 1 + ty.n - 1) / ty.n) })
  | .peak => lookStep code (peakOp ty) os x last
  | .cmerge => lookStep code (mergeOp ty) os x last
  | .compact records =>
    let r := compactPicks records ty scalarB sb x
    ([decideElem code x 0 r.1 r.2 none], os)
  | .coinc w =>
    let r := coincOp ty w x.a x.b (nth 0 os.hist 0)
    ([decideElem code x r.1 [] r.2 none], { os with hist := [x.b] })
  | .hist => ([decideElem code x 0 (histPicks ty (e.absent .b) scalarB sb x) 0 none], os)
  | .channel =>
    let entry (j : Nat) : Nat := subw 64 x.b j
    let r := eachSub ty.n ty.w fun j => channelOp code ty (entry j) (subw ty.w x.a j)
    let gone := x.act && (List.range ty.n).all fun j => channelSuppresses code (entry j)
    let d := decideElem code x r.1 [] r.2 none
    ([if gone && d.bad.isNone then { d with act := false, flags := 0, v := 0, fault := none } else d], os)
  | .transpose =>
    let xs := os.block ++ [x]
    if blockEnds x.i last then
      (decideBlock code (transpose8 (xs.map fun y => y.a)) xs none, { os with block := [] })
    else ([], { os with block := xs })
  | .custom => ([], os)

/-- R126: what a member hands on after a row: a look-ahead member keeps the elements of the row just processed until
the next row, or the end. Choices: log entry 25. -/
def releaseRow (look last : Bool) (row : Nat) (ds : List Decided) : List Decided × List Decided :=
  if look && !last then (ds.filter fun d => decide (d.i / 16 < row), ds.filter fun d => decide (row ≤ d.i / 16))
  else (ds, [])

end Sys2Proof.Machine
end

