-- ==== Sys2Proof/Machine/StreamCommit.lean ====
section
/-!
DEFINITION. Commit and the end of streams and chain instances (R93, R98, R102, R103, R109, R110): destination accesses of
decided elements, held commits and their release, and what each member of an instance reports.
-/

namespace Sys2Proof.Machine

/-! ### Streams of a ridge -/

/-- The stream in slot `k` of a ridge. -/
def Ridge.stream (r : Ridge) (k : Fin 16) : Option Stream := r.streams.find? fun m => m.slot == k

/-- The ridge with the stream in `m`'s slot replaced by `m`. -/
def Ridge.putStream (r : Ridge) (m : Stream) : Ridge :=
  { r with streams := r.streams.map fun x => if x.slot = m.slot then m else x }

/-- The state with that stream of ridge `g` replaced. -/
def State.putStream (s : State) (g : RidgeId) (m : Stream) : State := s.setRidge g ((s.ridge g).putStream m)

/-- Who makes the accesses of a stream. -/
def Stream.who (m : Stream) (g : RidgeId) : Who := ⟨g, m.th, m.e.ring.toNat, 0, 0, m.before⟩

/-- A fault of element `i` joined to the faults noted: the lowest index, and for one index the lowest order (R101). -/
def lowerFault (old : Option (Nat × SFault)) (i : Nat) (f : SFault) : Option (Nat × SFault) :=
  match old with
  | some (k, g) => if i < k ∨ (i = k ∧ f.order < g.order) then some (i, f) else old
  | none => some (i, f)

/-- R102, R103: a fault of element `i` is noted: the lowest one is kept, and all of them for a stream with ORDER = 0. -/
def Stream.noteFault (m : Stream) (i : Nat) (f : SFault) : Stream :=
  { m with
    fault := lowerFault m.fault i f
    found := if m.e.order || m.found.any (fun x => x.1 == i) then m.found else m.found ++ [(i, f)] }

/-- R102: the first element that the stream does not commit: its lowest faulting one, or LEN. -/
def Stream.stopIndex (m : Stream) : Nat :=
  match m.fault with
  | some f => f.1
  | none => m.e.len

/-- Elements below `i` have passed their checks (R109), as far as none fails. -/
def Stream.pass (m : Stream) (i : Nat) : Stream := { m with passed := max m.passed (min i m.stopIndex) }

/-- The members of CHID `c` on ridge `g`, in chain order. -/
def State.membersOn (s : State) (g : RidgeId) (c : Fin 16) : List Stream :=
  let ms := (s.ridge g).streams.filter fun m => m.chid == some c
  (List.range 4).flatMap fun k => ms.filter fun m => m.pos == k

/-- SE_CHAINn of ridge `g`. -/
def State.chainReg (s : State) (g : RidgeId) (c : Fin 16) : Nat := s.reg (rgBlk g) (0x1100 + 8 * c.val)
/-- IN of SE_CHAINn. -/
def State.chainIn (s : State) (g : RidgeId) (c : Fin 16) : Nat := field (s.chainReg g c) 0 2
/-- OUT of SE_CHAINn. -/
def State.chainOut (s : State) (g : RidgeId) (c : Fin 16) : Nat := field (s.chainReg g c) 2 2
/-- MEMBERS of SE_CHAINn. -/
def State.chainMembers (s : State) (g : RidgeId) (c : Fin 16) : Nat := field (s.chainReg g c) 4 3

/-- The lower (0x2) or upper (0x3) logical neighbour of a ridge (R16). -/
def neighbour (g : RidgeId) (code : Nat) : RidgeId :=
  if code = 2 then ⟨(g.val + 31) % 32, by omega⟩ else ⟨(g.val + 1) % 32, by omega⟩

/-- The ridges of a chain from ridge `g` on, at most `fuel` of them. -/
def State.pathFrom (s : State) (fuel : Nat) (g : RidgeId) (c : Fin 16) : List RidgeId :=
  match fuel with
  | 0 => []
  | f + 1 => if s.chainOut g c < 2 then [g] else g :: s.pathFrom f (neighbour g (s.chainOut g c)) c

/-- R105: the ridges of CHID `c` from head to tail. -/
def State.chainPath (s : State) (c : Fin 16) : List RidgeId :=
  match ridgeIds.find? fun g => s.chainMembers g c != 0 && s.chainIn g c == 0 with
  | some g => s.pathFrom 32 g c
  | none => []

/-- Every member of the instance of CHID `c`, from head to tail, with its ridge. -/
def State.instanceMembers (s : State) (c : Fin 16) : List (RidgeId × Stream) :=
  (s.chainPath c).flatMap fun g => (s.membersOn g c).map fun m => (g, m)

/-- Chain instance `c`. -/
def State.chain (s : State) (c : Fin 16) : ChainInst := s.chains[c]
/-- The state with chain instance `c` replaced. -/
def State.setChain (s : State) (c : Fin 16) (x : ChainInst) : State := { s with chains := s.chains.set c.val x c.isLt }
/-- The ridgeline ends of CHID `c` on ridge `g`. -/
def State.port (s : State) (g : RidgeId) (c : Fin 16) : ChainPort := (s.ridge g).ports[c]
/-- The state with those replaced. -/
def State.setPort (s : State) (g : RidgeId) (c : Fin 16) (p : ChainPort) : State :=
  s.setRidge g { s.ridge g with ports := (s.ridge g).ports.set c.val p c.isLt }

/-! ### Destination accesses -/

/-- R391: DROP of alignment queue `q` advances by `k`. -/
def State.countDrop (s : State) (q : Fin 16) (k : Nat) : State := s.countOf 0x09 (0x200 + 8 * q.val) 32 16 k

/-- What committing a decided element does: its acts, the elements a compaction wrote, its failed check, the next
compaction index, and the state after the checks. -/
structure Dest where
  acts : List CommitAct
  written : Nat
  fault : Option SFault
  j : Nat
  st : State

/-- A write of a destination element: to memory, or into an alignment-queue port (R391). -/
def State.writeAct (s : State) (a : Nat) (bytes : List Byte) (tag : Option Word) : CommitAct :=
  match s.region a with
  | .queuePort q => .queue q tag (BitVec.ofNat 64 (leNat bytes))
  | _ => .mem (BitVec.ofNat 48 a) bytes

/-- R97 MODE 0x7: values written one after another from compaction index `j`. -/
def State.compactDest (s : State) (w : Who) (e : QEntry) (n : Nat) (tag : Option Word) (j : Nat) (vs : List Nat) : Dest :=
  match vs with
  | [] => ⟨[], 0, none, j, s⟩
  | v :: rest =>
    let a := addr64 (e.base .d + j * n)
    match s.destCheck w a n with
    | (some f, s) => ⟨[], 0, some f, j, s⟩
    | (none, s) =>
      let r := s.compactDest w e n tag (j + 1) rest
      ⟨s.writeAct a (leBytes n v) tag :: r.acts, r.written + 1, r.fault, r.j, r.st⟩

/-- R158: the counters of an element. -/
def State.countDest (s : State) (w : Who) (e : QEntry) (ps : List (Int × Int)) : List CommitAct × Option SFault × State :=
  match ps with
  | [] => ([], none, s)
  | p :: rest =>
    let a := addr64 (e.base .d + p.1 * 4)
    let readable := (List.range 4).all fun k => s.streamReaches w.g .read a 4 (a + k)
    let c := s.destCheck w a 4
    let f := pickFault [c.1, if readable then none else some ⟨2, 0x03, BitVec.ofNat 48 a⟩]
    let r := c.2.countDest w e rest
    (.count (BitVec.ofNat 48 a) p.2 e.sat :: r.1, pickFault [f, r.2.1], r.2.2)

/-- The destination of one element (R88, R97); with a scalar result the last one counts (R98). -/
def State.plainDest (s : State) (scalar : Bool) (e : QEntry) (n i d v : Nat) (tag : Option Word) : List CommitAct :=
  let m := e.mode .d
  if m ≤ 3 then [s.writeAct d (leBytes n v) tag]
  else if m = 4 ∨ (m = 5 ∧ scalar) then [.scalar (leBytes n v)]
  else if m = 5 then [.vreg (i * n % 32) (leBytes n v)]
  else []

/-- The destination accesses of a decided element of a basic code. -/
def State.destOf (s : State) (w : Who) (m : Stream) (d : Decided) : Dest :=
  let e := m.e
  let code := e.op
  let n := dSize code e.ty
  if d.fault.isSome then ⟨[], 0, d.fault, m.j, s⟩
  else
    match kindOf code with
    | .reduction => ⟨[], 0, none, m.j, s⟩
    | .compact _ =>
      let r := s.compactDest w e n d.tag m.j (d.picks.map fun p => p.1.toNat)
      if r.fault.isSome then ⟨[], 0, r.fault, m.j, r.st⟩ else r
    | .hist =>
      let r := s.countDest w e d.picks
      ⟨if r.2.1.isSome then [] else r.1, 0, r.2.1, m.j, r.2.2⟩
    | .maskPack =>
      match d.picks with
      | [] => ⟨[], 0, none, m.j, s⟩
      | p :: _ =>
        let a := addr64 (e.base .d + d.i / 8)
        match s.destCheck w a 1 with
        | (some f, s) => ⟨[], 0, some f, m.j, s⟩
        | (none, s) => ⟨[s.writeAct a (leBytes 1 p.1.toNat) d.tag], 0, none, m.j, s⟩
    | _ => ⟨if d.act then s.plainDest false e n d.i d.d d.v d.tag else [], 0, none, m.j, s⟩

/-- R101, R102: a member takes note of an element it decided: its fault, or its held commit. History elements commit
nothing, and a failed check on one is a fault at START (R128). -/
def State.noteDecided (s : State) (g : RidgeId) (m : Stream) (d : Decided) : Stream × State :=
  let start := m.e.start
  if d.i < start then
    match d.fault with
    | some f => (m.noteFault start f, s)
    | none => (m, s)
  else
    let x := s.destOf (m.who g) m d
    match x.fault with
    | some f => (m.noteFault (if kindOf m.e.op == .maskPack then max start (d.i / 8 * 8) else d.i) f, x.st)
    | none =>
      let m' : Stream := if d.act || !x.acts.isEmpty then { m with held := m.held ++ [⟨d.i, x.acts, d.flags, x.written⟩] } else m
      (({ m' with j := x.j }).pass (d.i + 1), x.st)

/-! ### Commits -/

/-- R158: the new counter and Q. -/
def countUp (sat : Bool) (old : Nat) (weight : Int) : Nat × Flags :=
  reduce sat false 32 (old + weight)

/-- The data address that an address or an alias of it names (R253). -/
def dataAddr (a : Nat) : Nat := if aliasClear ≤ a then a - aliasClear else if aliasSet ≤ a then a - aliasSet else a

/-- One act of a commit; a write keeps the bytes it overwrites (R100). -/
def State.performAct (s : State) (g : RidgeId) (m : Stream) (act : CommitAct) : State × Stream :=
  let who : Requester := .stream g m.th
  match act with
  | .mem a bs =>
    let at0 := dataAddr a.toNat
    let old := (s.memRead who at0 bs.length).bytes
    ((s.memWrite who a.toNat bs).st, { m with before := m.before ++ (old.zipIdx.map fun p => (at0 + p.2, p.1)) })
  | .queue q tag v =>
    (s.setAlnQueue q { s.alnQueue q with entering := (s.alnQueue q).entering ++ [⟨tag, v, g, m.slot⟩] }, m)
  | .vreg off bs => (s, { m with vw := m.vw ++ (bs.zipIdx.map fun p => (off + p.2, p.1)) })
  | .count a wt sat =>
    let r := s.memRead who a.toNat 4
    let c := countUp sat (leNat r.bytes) wt
    ((r.st.memWrite who a.toNat (leBytes 4 c.1)).st,
      { m with flags := m.flags ||| c.2, before := m.before ++ (r.bytes.zipIdx.map fun p => (a.toNat + p.2, p.1)) })
  | .scalar bs => (s, { m with scal := bs })

/-- One element committed: its acts, flags and count. -/
def State.commitOne (s : State) (g : RidgeId) (m : Stream) (h : HeldCommit) : State × Stream :=
  let r := h.acts.foldl (fun (acc : State × Stream) a => acc.1.performAct g acc.2 a) (s, m)
  (r.1, { r.2 with flags := r.2.flags ||| h.flags, written := r.2.written + h.written })

/-- R102, R109: the held commits that `p` picks are performed in order; the others stay. -/
def State.commitHeld (s : State) (g : RidgeId) (m : Stream) (p : Nat → Bool) : State :=
  let r := m.held.foldl (fun (acc : State × Stream) h =>
    if p h.i then acc.1.commitOne g acc.2 h else (acc.1, { acc.2 with held := acc.2.held ++ [h] })) (s, { m with held := [] })
  r.1.putStream g r.2

/-- A stream ends: what is still held is discarded. -/
def Stream.finish (m : Stream) (code : Byte) (index : Nat) (addr : Addr) : Stream :=
  { m with finished := some ⟨code, index, addr⟩, held := [] }

/-! ### The end of unchained streams (R102, R103) -/

/-- R102: an unchained stream with ORDER = 1 commits what it decided below its fault; it ends when every element below
has passed. -/
def State.settleOrdered (s : State) (g : RidgeId) (m : Stream) : State :=
  let s := s.commitHeld g m fun i => decide (i < min m.passed m.stopIndex)
  match (s.ridge g).stream m.slot with
  | none => s
  | some m =>
    match m.fault with
    | some f => if f.1 ≤ m.passed then s.putStream g (m.finish f.2.code f.1 f.2.addr) else s
    | none => if m.e.len ≤ m.passed then s.putStream g (m.finish 0 m.e.len 0) else s

/-- R103: a faulted stream with ORDER = 0 ends with one of the faults found as the lowest that the engine has found.
Choices: log entry 63. -/
def Stream.finishFree (m : Stream) (fr : Nat) : Stream :=
  match nth (0, (⟨0, 0, 0⟩ : SFault)) m.found (Config.orderZeroFound fr % max 1 m.found.length) with
  | (i, f) => m.finish f.code i f.addr

/-- R103: with ORDER = 0 each decided element is committed now or later, freely; after a fault any subset stays
uncommitted, and the engine stops at once (`now`), freely, or after the last row. Choices: log entry 63. -/
def State.settleFree (s : State) (g : RidgeId) (m : Stream) (now : Bool) : State :=
  let fr := s.fresh
  let all := m.fault.isNone && decide (m.e.len ≤ m.passed)
  let s := (s.commitHeld g m fun i => all || Config.orderZeroCommits fr i).bump
  match (s.ridge g).stream m.slot with
  | none => s
  | some m =>
    if m.fault.isSome then
      (if now || Config.orderZeroStops fr || decide (m.e.len ≤ m.next) then s.putStream g (m.finishFree fr) else s)
    else if all then s.putStream g (m.finish 0 m.e.len 0)
    else s

/-! ### The end of chain instances (R109, R110) -/

/-- R110: what a member reports: the member nearest the head that failed at K its own code, every other 0x08. -/
def finishMembers (k : Nat) (reported : Bool) (ms : List (RidgeId × Stream)) : List (RidgeId × Stream) :=
  match ms with
  | [] => []
  | (g, m) :: rest =>
    match m.fault with
    | some f =>
      if f.1 = k ∧ !reported then (g, m.finish f.2.code k f.2.addr) :: finishMembers k true rest
      else (g, m.finish 0x08 k 0) :: finishMembers k reported rest
    | none => (g, m.finish 0x08 k 0) :: finishMembers k reported rest

/-- R107, R111: the ridgeline ends of CHID `c` come to rest: rows in flight are discarded and credits released. -/
def State.clearPorts (s : State) (c : Fin 16) : State := ridgeIds.foldl (fun s g => s.setPort g c ChainPort.reset) s

/-- The instance of CHID `c` ends: without a stop every member succeeds, otherwise R110 decides. -/
def State.finishInstance (s : State) (c : Fin 16) : State :=
  let ms := s.instanceMembers c
  let done := match (s.chain c).stop with
    | some k => finishMembers k false ms
    | none => ms.map fun (x : RidgeId × Stream) => (x.1, x.2.finish 0 x.2.e.len 0)
  (done.foldl (fun (s : State) (x : RidgeId × Stream) => s.putStream x.1 x.2) s).clearPorts c

/-- R110: the lowest index at which a member of the instance failed. -/
def lowestFault (ms : List (RidgeId × Stream)) (stop : Option Nat) : Option Nat :=
  ms.foldl (fun acc x =>
    match x.2.fault, acc with
    | none, _ => acc
    | some f, none => some f.1
    | some f, some k => some (min k f.1)) stop

/-- R109, R110: after a row, the instance of CHID `c` notes failed members and the tail's safe index, commits what lies
below both, and ends when every member has passed all elements below K (R196). -/
def State.settleChain (s : State) (c : Fin 16) : State :=
  let inst := s.chain c
  if !inst.admitted then s
  else
    let ms := s.instanceMembers c
    let stop := lowestFault ms inst.stop
    let len := match ms with
      | x :: _ => x.2.e.len
      | [] => 0
    let safe := match ms.getLast? with
      | some x => max inst.safe x.2.passed
      | none => inst.safe
    let limit := min safe (stop.getD len)
    let s := s.setChain c { inst with stop := stop, safe := safe }
    let s := ms.foldl (fun (s : State) (x : RidgeId × Stream) => s.commitHeld x.1 x.2 fun i => decide (i < limit)) s
    let done := min len (stop.getD len)
    if done ≤ safe ∧ ms.all fun x => decide (done ≤ x.2.passed) then s.finishInstance c else s

/-- After a row of a group: the unchained stream in `slot`, or the instance of its CHID, settles. -/
def State.settle (s : State) (g : RidgeId) (slot : Fin 16) (now : Bool := false) : State :=
  match (s.ridge g).stream slot with
  | none => s
  | some m =>
    if m.finished.isSome then s
    else
      match m.chid with
      | some c => s.settleChain c
      | none => if m.e.order then s.settleOrdered g m else s.settleFree g m now

end Sys2Proof.Machine
end

