-- ==== Sys2Proof/Machine/StreamDemand.lean ====
section
/-!
DEFINITION. What a row costs (R115, R120, R133, R246, R248): the demand of a member on each shared resource, the port steps
of a row in the banks of a ledge, and the steps of the row of a group.
-/

namespace Sys2Proof.Machine

/-- Steps that a row needs from each resource of R120. -/
structure Demand where
  a : Nat
  m : Nat
  s : Nat
  k : Nat
  l : Nat
  shift : Nat
  readA : Nat
  readB : Nat
  write : Nat
  deriving DecidableEq, Repr

/-- No demand. -/
def Demand.none : Demand := ⟨0, 0, 0, 0, 0, 0, 0, 0, 0⟩

/-- R120: the demands of two members on each resource add. -/
def Demand.add (x y : Demand) : Demand :=
  ⟨x.a + y.a, x.m + y.m, x.s + y.s, x.k + y.k, x.l + y.l, x.shift + y.shift, x.readA + y.readA, x.readB + y.readB, x.write + y.write⟩

/-- R120: steps_per_row: the largest demand on any one resource, at least 1. -/
def Demand.steps (x : Demand) : Nat := [x.a, x.m, x.s, x.k, x.l, x.shift, x.readA, x.readB, x.write].foldl max 1

/-- R133: what the unit columns of the table give a basic code of type `ty`; ports are counted apart. -/
def unitDemand (code : Nat) (ty : VTy) : Demand :=
  let z := Demand.none
  let onA := if etInt ty.et then { z with a := 1 } else { z with s := 1 }
  match kindOf code with
  | .reduction => if code = 0x308 ∨ code = 0x309 then { onA with a := onA.a + 1 } else onA
  | .fir t => { z with m := t, shift := t, readB := t }
  | .peak => { z with k := 1, shift := 2 }
  | .coinc _ => { z with k := 1, shift := 1 }
  | .compact _ => { z with k := 1 }
  | .hist => { z with a := 1, l := 4 * ty.n }
  | .cmerge => { z with k := 1, a := 1, shift := 2 }
  | .channel => { z with l := 16 * ty.n, a := 1, m := 1 }
  | .transpose => { z with shift := 8 }
  | .maskPack => { z with a := 1 }
  | .custom => z
  | .map =>
    if code = 0x020 ∨ code = 0x021 ∨ code = 0x022 ∨ (0x102 ≤ code ∧ code ≤ 0x104) then { z with m := 1 }
    else if 0x140 ≤ code ∧ code ≤ 0x14A then { z with s := (ty.n * etBits (code - 0x140) + 63) / 64 }
    else if 0x200 ≤ code ∧ code ≤ 0x205 then onA
    else if code = 0x030 ∨ code = 0x031 ∨ (0x100 ≤ code ∧ code ≤ 0x110) then { z with s := 1 }
    else if code = 0x600 then z
    else { z with a := 1 }

/-- R150, R133: the steps with which a reduction ends: 4 + log2(n), once at the end of the stream. -/
def finalSteps (code : Nat) (ty : VTy) : Nat := if kindOf code = .reduction then 4 + Nat.log2 ty.n else 0

/-! ### Port steps (R246, R248) -/

/-- R245 to R248: the bank and the word of a ledge byte, or nothing where the address lies in no ledge. -/
def State.ledgeWord (s : State) (a : Nat) : Option (Nat × Nat) :=
  match s.region (dataAddr a) with
  | .ledge g off => some (64 * g.val + (s.ledgeBank g off).val, if off < 0x200000 then off / 16 else off / 128)
  | _ => none

/-- R246: the port steps of accesses (address and bytes) of one row: the most distinct words in any one bank, at least
1. -/
def State.portSteps (s : State) (xs : List (Nat × Nat)) : Nat :=
  let ws := (xs.flatMap fun x => (List.range x.2).filterMap fun k => s.ledgeWord (x.1 + k)).eraseDups
  ws.foldl (fun acc w => max acc (ws.filter fun v => v.1 == w.1).length) 1

/-- An access that a row made on a stream port: its position, address and bytes. -/
abbrev PortAccess := Pos × Nat × Nat

/-- R133: an operand in MODE 0x2 or 0x3 adds 4 L-port steps. -/
def gatherSteps (e : QEntry) (p : Pos) : Nat := if e.mode p = 2 ∨ e.mode p = 3 then 4 else 0

/-- R133, R246: the steps of a read port: one per row of a memory operand, one per container of a source wider than 64
bits, and what the banks add. -/
def State.readSteps (s : State) (xs : List PortAccess) (p : Pos) (containers : Nat) : Nat :=
  let mine := (xs.filter fun x => x.1 == p).map (·.2)
  if mine.isEmpty then 0 else containers + s.portSteps mine - 1

/-- Destination elements of decided elements `ds` that take part in the write demand: selected elements of a compaction, active
sub-words of HIST. -/
def picksOf (start : Nat) (ds : List Decided) : Nat := ((ds.filter fun d => decide (start ≤ d.i) && d.act).map fun d => d.picks.length).sum

/-- R133: the write-port steps of a row: ⌈s/16⌉ for a compaction and ⌈u/16⌉ for HIST; otherwise one per row written, and
what the banks add. -/
def State.writeSteps (s : State) (m : Stream) (xs : List PortAccess) (ds : List Decided) : Nat :=
  match kindOf m.e.op with
  | .compact _ => (picksOf m.e.start ds + 15) / 16
  | .hist => (picksOf m.e.start ds + 15) / 16
  | .maskPack => if ds.any fun d => !d.picks.isEmpty then 1 else 0
  | _ =>
    let mine := (xs.filter fun x => x.1 == .d).map (·.2)
    if mine.isEmpty then 0 else s.portSteps mine

/-- R120, R133: the demand of a row of member `m` with a basic code that made the accesses `xs` and decided `ds`; the
last row of a reduction is followed by its final steps. Choices: log entry 64. -/
def State.rowDemand (s : State) (m : Stream) (xs : List PortAccess) (ds : List Decided) (last : Bool) : Demand :=
  let code := m.e.op
  let ty := m.e.ty
  let u := unitDemand code ty
  let wide := if 0x140 ≤ code ∧ code ≤ 0x14A then max 1 ((aSize code ty + 7) / 8) else 1
  let fin := if last then finalSteps code ty else 0
  { u with
    a := u.a + (if etInt ty.et then fin else 0)
    s := u.s + (if etInt ty.et then 0 else fin)
    l := u.l + gatherSteps m.e .a + gatherSteps m.e .b + gatherSteps m.e .d
    readA := s.readSteps xs .a wide
    readB := u.readB + s.readSteps xs .b 1
    write := s.writeSteps m xs ds }

end Sys2Proof.Machine
end

