-- ==== Sys2Proof/Machine/StreamMembers.lean ====
section
/-!
DEFINITION. A member with a basic code in a row of its group (R97 to R164): operands, the operation element by element,
what it hands on, and what the row cost it.
-/

namespace Sys2Proof.Machine

/-- The place-holder for an element that a memory-fed member begins with. -/
def indexElem (i : Nat) : Elem := ⟨i, true, none, 0, none⟩

/-- The member takes an operand from its chain input. -/
def Stream.takesChain (m : Stream) : Bool := m.e.chinA || m.e.chinB

/-- R154: the taps of the row, when the code is an FIR. -/
def State.rowTaps (s : State) (g : RidgeId) (m : Stream) : List Nat × Option SFault × State :=
  match kindOf m.e.op with
  | .fir t => s.readTaps (m.who g) m.e t
  | _ => ([], none, s)

/-- What a member has done so far in a row: itself, the machine, elements to hand on, a failed tap read still to be laid
on the first active element, and the accesses it made on its ports. -/
structure MemberRun where
  m : Stream
  st : State
  out : List Decided
  tapBad : Option SFault
  acc : List PortAccess

/-- Operand B of a basic code is fetched element by element. -/
def fetchesB (e : QEntry) : Bool :=
  match useB e.op with
  | .vector => true
  | .threshold => e.mode .b != 4
  | .weight => !e.absent .b && e.mode .b != 4
  | .channel => e.mode .b != 4
  | _ => false

/-- R246: the accesses that active element `x` made on the stream ports. -/
def State.portAccesses (s : State) (w : Who) (e : QEntry) (x : Operands) : List PortAccess :=
  let one (p : Pos) (used : Bool) (n : Nat) : List PortAccess :=
    if used && decide (e.mode p ≤ 3) then
      (if e.op = 0x211 then [(p, addr64 (e.base p + x.i / 8), 1)] else [(p, (s.placeOf w e p n x.i).v, n)])
    else []
  one .a (useA e.op != .unused) (aSize e.op e.ty) ++ one .b (fetchesB e) (bSize e.op e.ty)
    ++ (match (if x.i < e.start then none else staticDest e.op e.ty e) with
      | some n => [(.d, x.d, n)]
      | none => [])

/-- R154: the failed check of element `x` and of a tap read of its row together: the taps are operand B. A result that
is missing upstream stays what it is. -/
def tapFault (x : Operands) (upstream : Bool) (tap : Option SFault) : Option SFault := if upstream then x.bad else pickFault [x.bad, tap]

/-- R97 to R164: one element through a member with a basic code. -/
def MemberRun.element (r : MemberRun) (fr : Nat) (g : RidgeId) (x : Elem) : MemberRun :=
  let m := r.m
  if x.i < m.first then r
  else
    let w : Who := { m.who g with fr := fr, elem := x.i }
    let o := r.st.operands w m.e m.sa m.sb x.i (if m.takesChain then some x else none) (useA m.e.op != .unused) (fetchesB m.e)
    let y : Operands := if o.1.act then { o.1 with bad := tapFault o.1 (m.takesChain && x.bad.isSome) r.tapBad } else o.1
    let b := basicStep m.e m.sb m.sb1 m.os y (x.i + 1 == m.e.len)
    { m := { m with os := b.2, next := x.i + 1 }
      st := o.2
      out := r.out ++ b.1
      tapBad := if o.1.act then none else r.tapBad
      acc := if o.1.act then r.acc ++ r.st.portAccesses w m.e o.1 else r.acc }

/-- What a member hands on after a row: elements, itself, the machine, and its demand. -/
structure MemberRow where
  out : List Elem
  m : Stream
  st : State
  cost : Demand

/-- R118, R126: a member with a basic code takes the elements `xs` of a row and hands on what it decided. Choices:
log entry 25. -/
def State.memberRow (s : State) (fr : Nat) (g : RidgeId) (m : Stream) (xs : List Elem) : MemberRow :=
  let t := s.rowTaps g m
  let r := xs.foldl (fun (r : MemberRun) x => r.element fr g x)
    ⟨{ m with os := { m.os with taps := t.1 } }, t.2.2, m.os.queue, t.2.1, []⟩
  let row := match xs.getLast? with
    | some x => x.i / 16
    | none => 0
  let last := decide (m.e.len ≤ r.m.next)
  let rel := releaseRow (lookAhead m.e.op) last row r.out
  let m := { r.m with os := { r.m.os with queue := rel.2 } }
  let z := rel.1.foldl (fun (acc : Stream × State) d => acc.2.noteDecided g acc.1 d) (m, r.st)
  ⟨rel.1.map fun d => ⟨d.i, d.act, d.tag, BitVec.ofNat 64 d.v, d.bad⟩, z.1, z.2, s.rowDemand z.1 r.acc rel.1 last⟩

end Sys2Proof.Machine
end

