-- ==== Sys2Proof/Machine/Microcode.lean ====
section
/-!
DEFINITION. Custom codes (R165, R187 to R204): the micro-store and the stencil store, microwords and nano-words, and the
row sequencer that runs a row of custom routines over the lanes. Vendor routines act as the codes they implement.
-/

namespace Sys2Proof.Machine

/-! ### The stores (R188 to R190, R198) -/

/-- The microword at an address; an address that no bound set covers holds the fill word (R34). -/
def Ridge.microWord (r : Ridge) (a : Nat) : Nat := (Sparse.get (0x80000000 : BitVec 32) r.micro a).toNat

/-- R32, R190: the low `n` bits of a word hold an odd number of ones. -/
def oddParity (n v : Nat) : Bool := popCount n v % 2 == 1

/-- R32, R198: a nano-word with the parity bits that the loader generates: each quarter with its bit holds an odd number
of ones. -/
def withParity (v : Nat) : BitVec 260 :=
  BitVec.ofNat 260 (v % 2 ^ 256 + ((List.range 4).map fun q => b2n (!oddParity 64 (field v (64 * q) 64)) * 2 ^ (256 + q)).sum)

/-- R34, R198: the nano-word that no bound set covers, with its parity bits. -/
def nanoFill : BitVec 260 := BitVec.ofNat 260 (15 * 2 ^ 256)

/-- The nano-word at an address with its parity bits. -/
def Ridge.nanoRaw (r : Ridge) (a : Nat) : Nat := (Sparse.get nanoFill r.nano a).toNat
/-- The data bits of the nano-word at an address. -/
def Ridge.nanoWord (r : Ridge) (a : Nat) : Nat := r.nanoRaw a % 2 ^ 256

/-- R205: the quarters of the nano-word at an address that fail parity. -/
def Ridge.badQuarters (r : Ridge) (a : Nat) : BitVec 4 :=
  BitVec.ofNat 4 ((List.range 4).map fun q =>
    b2n (!oddParity 65 (field (r.nanoRaw a) (64 * q) 64 + field (r.nanoRaw a) (256 + q) 1 * 2 ^ 64)) * 2 ^ q).sum

/-- R205: the read of the microword at `a` and of its nano-word by context `k` fails parity. -/
def Ridge.readFails (r : Ridge) (a k : Nat) : Option ParityFail :=
  let mw := r.microWord a
  let na := field mw 13 10
  if !oddParity 32 mw then some ⟨false, BitVec.ofNat 13 a, BitVec.ofNat 10 na, 0, k⟩
  else if r.badQuarters na ≠ 0 then some ⟨true, BitVec.ofNat 13 a, BitVec.ofNat 10 na, r.badQuarters na, k⟩
  else none

/-- R202: the header address of a custom code, if a directory word of the ridge holds it. -/
def Ridge.customEntry (r : Ridge) (code : Nat) : Option Nat :=
  ((List.range 256).find? fun k => field (r.microWord (0x1000 + k)) 0 12 == code).map fun k =>
    field (r.microWord (0x1000 + k)) 12 13

/-- Header word `k` of a custom code (R203), 0 where the code is not defined. -/
def Ridge.header (r : Ridge) (code k : Nat) : Nat :=
  match r.customEntry code with
  | some a => r.microWord (a + k)
  | none => 0

/-- R203: a custom code uses operand A (or B): its MODE mask is not zero. -/
def Ridge.customUses (r : Ridge) (code : Nat) (p : Pos) : Bool :=
  match p with
  | .a => field (r.header code 1) 0 8 != 0
  | .b => field (r.header code 1) 8 8 != 0
  | .d => field (r.header code 1) 16 8 != 0

/-- The history of a code on a ridge (R128, R203). -/
def Ridge.history (r : Ridge) (code n : Nat) : Nat :=
  if 0x800 ≤ code then field (r.header code 0) 18 4 else basicHistory code n

/-! ### Lanes -/

/-- A lane that holds nothing (R117). -/
def Lane.empty : Lane := ⟨none, false, 0, none⟩
/-- A row that holds nothing. -/
def emptyRow : List Lane := List.replicate 16 Lane.empty

/-- The row in which the elements `xs` stand in their lanes with the values `f`. -/
def rowOf (xs : List Operands) (f : Operands → Nat) : List Lane :=
  (List.range 16).map fun l =>
    match xs.find? fun x => x.i % 16 == l with
    | some x => ⟨some (x.i, x.act, x.tag), x.got, BitVec.ofNat 64 (f x), x.bad⟩
    | none => Lane.empty

/-- What a lane supplies to the shift network: a lane that holds nothing, or an inactive element for which no operand was
fetched or arrived, supplies zero (R117). -/
def Lane.supplies (x : Lane) : Nat := if x.el.isSome && x.got then x.v.toNat else 0

/-- A routine context at dispatch (R196): it starts at `first`. -/
def MicroCtx.start (first : Nat) : MicroCtx :=
  { pc := BitVec.ofNat 13 first, ended := false, ops := [], gotA := false, gotB := false, link := emptyRow, rows := []
    inRow := false, firstRow := true, lastRow := false, drain := false, row := 0, later := [] }

/-- R195: the micro-sequencer state at dispatch. -/
def GroupState.start (ctxs : List MicroCtx) : GroupState :=
  { c0 := 0, c1 := 0, c2 := 0, cl := 0, ua := emptyRow, um := emptyRow, us := emptyRow, uk := emptyRow, sh := emptyRow
    lp := emptyRow, acc := List.replicate 16 0, edge := List.replicate 8 0, ctxs := ctxs, eflags := [] }

/-! ### Words -/

/-- The fields of a unit slice (R200). -/
structure Slice where
  en : Bool
  func : Nat
  src1 : Nat
  src2 : Nat
  src3 : Nat
  dst : Nat
  clw : Nat

/-- R200: a slice from 32 bits. -/
def sliceOf (v : Nat) : Slice := ⟨bitOf v 0, field v 1 12, field v 13 4, field v 17 4, field v 21 4, field v 25 3, field v 28 4⟩

/-- The slice of a unit (R199). -/
def unitSlice (nano : Nat) (u : VUnit) : Slice :=
  match u with
  | .a => sliceOf (field nano 0 32)
  | .m => sliceOf (field nano 32 32)
  | .s => sliceOf (field nano 64 32)
  | .k => sliceOf (field nano 96 32)

/-- The four units in order. -/
def vunits : List VUnit := [.a, .m, .s, .k]

/-- R191: the condition of a microword. -/
def GroupState.cond (gs : GroupState) (ctx : MicroCtx) (c : Nat) : Bool :=
  if c = 1 then gs.c0 == 0
  else if c = 2 then gs.c1 == 0
  else if c = 3 then gs.c2 == 0
  else if c = 4 then ctx.firstRow && !ctx.drain
  else if c = 5 then ctx.lastRow && !ctx.drain
  else if c = 6 then ctx.ops.any fun x => x.act
  else if 8 ≤ c then gs.cl.getLsbD (c - 8)
  else false

/-- R193: the next address. -/
def nextAddr (mw : Nat) (c : Bool) : BitVec 13 := BitVec.ofNat 13 (field mw 0 13 ||| b2n c)

/-- A counter one lower, not below 0 (R192). -/
def countDown (c : BitVec 13) : BitVec 13 := if c = 0 then 0 else c - 1

/-- R192: the counters after operation `ctr` with immediate `imm`; operation 0x7 sets C0 to `seven`. -/
def countersAfter (ctr : Nat) (imm seven : BitVec 13) (c : BitVec 13 × BitVec 13 × BitVec 13) : BitVec 13 × BitVec 13 × BitVec 13 :=
  if ctr = 1 then (imm, c.2.1, c.2.2)
  else if ctr = 2 then (c.1, imm, c.2.2)
  else if ctr = 3 then (c.1, c.2.1, imm)
  else if ctr = 4 then (countDown c.1, c.2.1, c.2.2)
  else if ctr = 5 then (c.1, countDown c.2.1, c.2.2)
  else if ctr = 6 then (c.1, c.2.1, countDown c.2.2)
  else if ctr = 7 then (seven, c.2.1, c.2.2)
  else c

/-- R192: the counter operation `ctr` with immediate `imm` for a member with operation code `op`. -/
def GroupState.counter (gs : GroupState) (ctr imm op : Nat) : GroupState :=
  let c := countersAfter ctr (BitVec.ofNat 13 imm) (BitVec.ofNat 13 (op % 16)) (gs.c0, gs.c1, gs.c2)
  { gs with c0 := c.1, c1 := c.2.1, c2 := c.2.2 }

/-- R194: the shared resources a nano-word enables: units 0 to 3, read ports 4 and 5, write port 6, shift network 7,
L port 8. -/
def resourcesOf (nano : Nat) : List Nat :=
  let slices := vunits.map (unitSlice nano)
  ((List.range 4).filter fun k => (nth ⟨false, 0, 0, 0, 0, 0, 0⟩ slices k).en)
    ++ (if field nano 128 2 ≠ 0 then [4] else []) ++ (if field nano 130 2 ≠ 0 then [5] else [])
    ++ (if field nano 132 2 ≠ 0 then [6] else []) ++ (if bitOf nano 137 then [7] else [])
    ++ (if field nano 142 2 ≠ 0 then [8] else [])

/-- R199: what one step of a nano-word takes of each resource of R120. -/
def stepDemand (nano : Nat) : Demand :=
  let on (k : Nat) : Nat := b2n ((resourcesOf nano).contains k)
  ⟨on 0, on 1, on 2, on 3, on 8, on 7, on 4, on 5, on 6⟩

/-! ### Unit work (R201) -/

/-- The accumulator of one lane cut to sub-words. -/
def accValue (ty : VTy) (acc : BitVec 128) : Nat :=
  let fw := 128 / ty.n
  joinSub ty.w ((List.range ty.n).map fun j => subw fw acc.toNat j)

/-- R114: integer sub-word `j` of a source of unit M: of the accumulator (code 0xA) its whole field. -/
def wideSource (ty : VTy) (code : Nat) (acc : BitVec 128) (v j : Nat) : Int :=
  if code = 10 then toSigned (128 / ty.n) (subw (128 / ty.n) acc.toNat j) else toInt ty.signed ty.w (subw ty.w v j)

/-- The integer multiply codes. -/
def intMul (ty : VTy) (code : Nat) : Bool := etInt ty.et && (code == 0x020 || code == 0x021 || code == 0x022)

/-- R139, R143: the result of integer multiply `code` on exact sources. -/
def mulResult (ty : VTy) (code : Nat) (x y z : Int) : Nat × Flags :=
  if code = 0x021 then (wrapNat ty.w (x * y / 2 ^ ty.w), 0)
  else reduce ty.sat ty.signed ty.w (x * y + if code = 0x022 then z else 0)

/-- R114, R154: the accumulator after an operation whose destination it is: integer products are added field by field into
the addend, other results replace their fields. -/
def accWrite (ty : VTy) (sl : Slice) (old : BitVec 128) (a b c : Nat) (r : Nat × Flags) : BitVec 128 × Flags :=
  let fw := 128 / ty.n
  let q := eachSub ty.n fw fun j =>
    if intMul ty sl.func && sl.func != 0x021 then
      let base : Int := if sl.func = 0x020 then 0 else wideSource ty sl.src3 old c j
      let x := fieldAdd ty.sat fw base (wideSource ty sl.src1 old a j * wideSource ty sl.src2 old b j)
      (wrapNat fw x.1, x.2)
    else if etFp ty.et then (subw ty.w r.1 j, 0)
    else (wrapNat fw (toInt ty.signed ty.w (subw ty.w r.1 j)), 0)
  (BitVec.ofNat 128 q.1, if intMul ty sl.func then q.2 else r.2)

/-- The result of FUNC `code` on three source containers (R201). PEAK takes the sub-word, the one before it and the one
after it; COINC takes a, b and the container of b before (DEDUCED, log entry 40). -/
def unitOp (code : Nat) (ty : VTy) (a b c : Nat) : Nat × Flags :=
  match kindOf code with
  | .peak =>
    eachSub ty.n ty.w fun j =>
      let v := subw ty.w a j
      let lo := quietLt ty (subw ty.w b j) v
      let hi := quietLe ty (subw ty.w c j) v
      (if lo.1 && hi.1 then v else 0, lo.2 ||| hi.2)
  | .compact _ =>
    eachSub ty.n ty.w fun j =>
      let r := quietLt ty (subw ty.w b j) (subw ty.w a j)
      (if r.1 then 2 ^ ty.w - 1 else 0, r.2)
  | .coinc w => coincOp ty w a b c
  | _ => containerOp code ty a b c

/-- The result of a slice on three source containers; an integer multiply reads whole accumulator fields (R114). -/
def sliceOp (sl : Slice) (ty : VTy) (acc : BitVec 128) (a b c : Nat) : Nat × Flags :=
  if intMul ty sl.func && (sl.src1 == 10 || sl.src2 == 10 || sl.src3 == 10) then
    eachSub ty.n ty.w fun j =>
      mulResult ty sl.func (wideSource ty sl.src1 acc a j) (wideSource ty sl.src2 acc b j) (wideSource ty sl.src3 acc c j)
  else unitOp sl.func ty a b c

/-- The first failed check among lanes. -/
def firstBad (xs : List Lane) : Option SFault := xs.findSome? fun x => x.bad

/-- The lane a unit's result stands in: the element of the first source that holds one (R123, R195), active when
every source element is. Choices: log entry 40. -/
def resultLane (srcs : List Lane) (v : Nat) : Lane :=
  let el := srcs.foldl (fun (acc : Option (Nat × Bool × Option Word)) x =>
    match acc, x.el with
    | none, e => e
    | some e, some f => some (e.1, e.2.1 && f.2.1, e.2.2)
    | some e, none => some e) none
  ⟨el, srcs.any fun x => x.el.isSome && x.got, BitVec.ofNat 64 v, firstBad srcs⟩

/-- What one unit does in one step: its result row, its new accumulators and the flags by element. -/
structure UnitWork where
  row : List Lane
  acc : List (BitVec 128)
  flags : List (Nat × Flags)

/-- R200, R201: a unit works on rows of sources. Choices: log entry 40. -/
def unitWork (sl : Slice) (ty : VTy) (s1 s2 s3 : List Lane) (acc : List (BitVec 128)) : UnitWork :=
  let work (l : Nat) : Lane × BitVec 128 × Option (Nat × Flags) :=
    let x := nth Lane.empty s1 l
    let y := nth Lane.empty s2 l
    let z := nth Lane.empty s3 l
    let old := nth 0 acc l
    let r := sliceOp sl ty old x.v.toNat y.v.toNat z.v.toNat
    let lane := resultLane [x, y, z] r.1
    let w := if sl.dst = 4 then accWrite ty sl old x.v.toNat y.v.toNat z.v.toNat r else (old, r.2)
    (lane, w.1, match lane.el with
      | some e => if e.2.1 && w.2 != 0 then some (e.1, w.2) else none
      | none => none)
  let rs := (List.range 16).map work
  ⟨rs.map fun r => r.1, rs.map fun r => r.2.1, rs.filterMap fun r => r.2.2⟩

/-- R200: the latch value of a result row: nonzero in any active sub-word. -/
def anyNonzero (row : List Lane) : Bool :=
  row.any fun x => x.v != 0 && (match x.el with
    | some e => e.2.1
    | none => false)

/-- R125, R127: a row shifted by `d` sub-words, and the edge register after it. The edge register keeps the last 8 sub-words
shifted into it, and an up shift takes the newest `d` of them; a lane rests on the failed checks of the lanes whose sub-words
it receives. Choices: log entry 40. -/
def shiftRow (ty : VTy) (down : Bool) (d : Nat) (row : List Lane) (edge : List Word) : List Lane × List Word :=
  let subs := row.flatMap fun x => splitSub ty.w ty.n x.supplies
  let total := 16 * ty.n
  let moved : List Nat :=
    if down then subs.drop d ++ List.replicate (min d total) 0
    else ((edge.drop (8 - d)).map fun x => x.toNat) ++ subs.take (total - d)
  let lane (l : Nat) : Lane :=
    let x := nth Lane.empty row l
    let from' := (List.range ty.n).filterMap fun j =>
      let p := l * ty.n + j
      if down then (if p + d < total then some ((p + d) / ty.n) else none) else if d ≤ p then some ((p - d) / ty.n) else none
    ⟨x.el, true, BitVec.ofNat 64 (joinSub ty.w ((moved.drop (l * ty.n)).take ty.n)),
      firstBad ((from'.map fun q => nth Lane.empty row q).filter fun y => y.el.isSome)⟩
  ((List.range 16).map lane,
   if down then edge else ((edge ++ ((subs.drop (total - d)).map fun v => BitVec.ofNat 64 v)).drop d))

/-! ### The group while its steps run -/

/-- The sequencer's view while the members of a group run: the machine, the members, the group as it stood before the
step (`old`) and as it becomes, resources taken in the step, elements put out by the last member, members that have begun
a row in this turn, the demands and steps so far, and a parity failure that stopped them. -/
structure MicroRun where
  st : State
  ms : List Stream
  old : GroupState
  gs : GroupState
  taken : List Nat
  out : List Elem
  begun : List Nat
  cost : Demand
  steps : Nat
  parity : Option ParityFail

/-- A member runs a custom code. -/
def Stream.custom (m : Stream) : Bool := decide (0x800 ≤ m.e.op)

/-- R203: the code of member `m` on its ridge declares a look-ahead operation. -/
def MicroRun.looksAhead (r : MicroRun) (g : RidgeId) (m : Stream) : Bool := bitOf ((r.st.ridge g).header m.e.op 0) 17

/-- The members that run custom codes one after another from member `h` on: they work on one row together (R194). -/
def MicroRun.segment (r : MicroRun) (h : Nat) : List Nat :=
  (List.range ((r.ms.drop h).takeWhile Stream.custom).length).map fun k => h + k

/-- The first members of the runs of custom codes. -/
def MicroRun.segmentHeads (r : MicroRun) : List Nat :=
  (List.range r.ms.length).filter fun k =>
    (r.ms[k]?.map Stream.custom).getD false && (k == 0 || !((r.ms[k - 1]?.map Stream.custom).getD false))

/-- Context `k` replaced. -/
def GroupState.setCtx (gs : GroupState) (k : Nat) (c : MicroCtx) : GroupState := { gs with ctxs := gs.ctxs.set k c }

/-- Context `k` changed by `f`. -/
def MicroRun.mapCtx (r : MicroRun) (k : Nat) (f : MicroCtx → MicroCtx) : MicroRun :=
  match r.gs.ctxs[k]? with
  | some c => { r with gs := r.gs.setCtx k (f c) }
  | none => r

/-- Context `k`, as the group stands. -/
def MicroRun.ctx (r : MicroRun) (k : Nat) : MicroCtx := (r.gs.ctxs[k]?).getD (MicroCtx.start 0)

/-- A demand added. -/
def MicroRun.spend (r : MicroRun) (d : Demand) : MicroRun := { r with cost := r.cost.add d }

/-- A failed check of element `i` of member `k` noted (R128: a history element counts as START). -/
def MicroRun.note (r : MicroRun) (k i : Nat) (f : Option SFault) : MicroRun :=
  match f, r.ms[k]? with
  | some f, some m => { r with ms := r.ms.set k (m.noteFault (max i m.e.start) f) }
  | _, _ => r

/-- Who makes the accesses of member `m` for element `i`. -/
def MicroRun.who (r : MicroRun) (g : RidgeId) (m : Stream) (i : Nat) : Who := { m.who g with fr := r.st.fresh, elem := i }

/-! ### Elements between the members (R118) -/

/-- The rows waiting for a run of custom codes after element `x`; behind the last element stands the drain row (R196). -/
def queueElem (len : Nat) (rows : List (List Elem)) (x : Elem) : List (List Elem) :=
  let rows := match rows.getLast? with
    | some row =>
      (match row.getLast? with
        | some y => if y.i / 16 = x.i / 16 then rows.dropLast ++ [row ++ [x]] else rows ++ [[x]]
        | none => rows ++ [[x]])
    | none => [[x]]
  if x.i + 1 = len then rows ++ [[]] else rows

/-- A row has its last lane or the stream's last element (R117); the drain row has neither. -/
def rowComplete (len : Nat) (row : List Elem) : Bool :=
  match row.getLast? with
  | some x => x.i % 16 == 15 || x.i + 1 == len
  | none => true

/-- The elements of a list by rows of 16 lanes. -/
def splitRows (xs : List Elem) : List (List Elem) := xs.foldl (queueElem 0) []

/-- R118: the elements `xs` reach member `k`: one with a basic code passes on what it decides, a run of custom codes takes
them as rows, and behind the last member they are the group's output. -/
def MicroRun.feed (fuel : Nat) (r : MicroRun) (g : RidgeId) (k : Nat) (xs : List Elem) : MicroRun :=
  match fuel with
  | 0 => { r with out := r.out ++ xs }
  | f + 1 =>
    match r.ms[k]? with
    | none => { r with out := r.out ++ xs }
    | some m =>
      if m.custom then r.mapCtx k fun c => { c with rows := xs.foldl (queueElem m.e.len) c.rows }
      else
        (splitRows xs).foldl (fun (r : MicroRun) row =>
          match r.ms[k]? with
          | none => r
          | some m =>
            let q := r.st.memberRow r.st.fresh g m row
            MicroRun.feed f ({ r with st := q.st, ms := r.ms.set k q.m }.spend q.cost) g (k + 1) q.out) r

/-- The elements of a row of lanes. -/
def rowElems (row : List Lane) : List Elem := row.filterMap fun x =>
  match x.el with
  | some (i, act, tag) => some ⟨i, act, tag, x.v, x.bad⟩
  | none => none

/-- R99: the row that a member with operation code `op` puts on its chain output: inactive elements are placeholders. -/
def placeholders (op : Nat) (row : List Lane) : List Lane := row.map fun x =>
  match x.el with
  | some (_, false, _) => { x with v := Config.placeholder op 0 0 x.v.toNat }
  | _ => x

/-- A row put on the chain output of member `k` reaches the next custom member in the same steps, under its own mask
(R99, R194), or goes on as elements. -/
def MicroRun.handOn (r : MicroRun) (g : RidgeId) (k : Nat) (row : List Lane) : MicroRun :=
  match r.ms[k + 1]? with
  | some m =>
    if m.custom then
      let ops := (r.ctx (k + 1)).ops
      let q := row.foldl (fun (acc : List Lane × MicroRun) (x : Lane) =>
        match x.el with
        | none => (acc.1 ++ [Lane.empty], acc.2)
        | some (i, act, tag) =>
          let b := match ops.find? fun y => y.i == i with
            | some y => (y.act, acc.2.st)
            | none =>
              let mb := acc.2.st.maskBit (r.who g m i) m.e i
              (mb.1, mb.2.2)
          (acc.1 ++ [{ x with el := some (i, act && b.1, tag), got := true }], { acc.2 with st := b.2 })) (([] : List Lane), r)
      let off (i : Nat) : Bool := q.1.any fun x => match x.el with
        | some e => e.1 == i && !e.2.1
        | none => false
      q.2.mapCtx (k + 1) fun c => { c with link := q.1, ops := c.ops.map fun y => { y with act := y.act && !off y.i } }
    else r.feed 4 g (k + 1) (rowElems row)
  | none => r.feed 4 g (k + 1) (rowElems row)

/-! ### Operands in the row (R199) -/

/-- The chain element `i` that has reached context `k`. -/
def MicroRun.linkElem (r : MicroRun) (k i : Nat) : Option Elem :=
  (r.ctx k).link.findSome? fun x =>
    match x.el with
    | some (j, act, tag) => if j = i then some ⟨i, act, tag, x.v, x.bad⟩ else none
    | none => none

/-- Operand A or B of every active element of the row of context `k`, fetched once a row (R199); its port steps count. -/
def MicroRun.present (r : MicroRun) (g : RidgeId) (k : Nat) (p : Pos) : MicroRun :=
  match r.ms[k]? with
  | none => r
  | some m =>
    let c := r.ctx k
    if (match p with
      | .a => c.gotA
      | _ => c.gotB) then r
    else
      let n := match p with
        | .a => aSize m.e.op m.e.ty
        | _ => bSize m.e.op m.e.ty
      let step (acc : MicroRun × List Operands × List (Nat × Nat)) (x : Operands) : MicroRun × List Operands × List (Nat × Nat) :=
        if !x.act then (acc.1, acc.2.1 ++ [x], acc.2.2)
        else
          let w := r.who g m x.i
          let q := acc.1.st.source w m.e p n x.i (if p = .a then m.sa else m.sb) (acc.1.linkElem k x.i)
          let bad := if p = .a then pickFault [q.fault, x.bad] else pickFault [x.bad, q.fault]
          let x' : Operands := match p with
            | .a => { x with a := q.v, tag := q.tag, act := !q.bad, bad := bad, got := true }
            | _ => { x with b := q.v, tag := if c.gotA then x.tag else q.tag, act := !q.bad, bad := bad, got := true }
          (({ acc.1 with st := q.st }).note k x.i q.fault, acc.2.1 ++ [x'],
            if m.e.mode p ≤ 3 then acc.2.2 ++ [((acc.1.st.placeOf w m.e p n x.i).v, n)] else acc.2.2)
      let z := c.ops.foldl step (r, [], [])
      let extra := z.1.st.portSteps z.2.2 - 1
      (z.1.mapCtx k fun c => { c with ops := z.2.1, gotA := c.gotA || p == .a, gotB := c.gotB || p == .b }).spend
        (match p with
          | .a => { Demand.none with readA := extra }
          | _ => { Demand.none with readB := extra })

/-- R160, R199: one channel-table lookup for sub-word C2 of the row of context `k`. -/
def MicroRun.lookup (r : MicroRun) (g : RidgeId) (k : Nat) : MicroRun :=
  match r.ms[k]? with
  | none => r
  | some m =>
    let r := if m.e.mode .b = 4 then r else r.present g k .b
    let n := m.e.ty.n
    let s := r.old.c2.toNat % (16 * n)
    match (r.ctx k).ops.find? fun x => x.i % 16 == s / n with
    | none => r
    | some x =>
      let ch := if m.e.mode .b = 4 then m.sb + (x.i * n + s % n) else field x.b (32 * (s % n)) 32
      let f := r.st.channelEntries (r.who g m x.i) [ch]
      let lane : Lane := ⟨some (x.i, x.act, x.tag), true, BitVec.ofNat 64 f.v, if x.bad.isSome then x.bad else f.fault⟩
      let r : MicroRun := { r with st := f.st, gs := { r.gs with lp := r.gs.lp.set (s / n) lane } }
      if x.act then r.note k x.i f.fault else r

/-- R97, R199: sub-word `c` of operand B, addressed as its MODE says. -/
def State.tapSource (s : State) (w : Who) (e : QEntry) (sb c : Nat) (ce : Option Elem) : Fetched :=
  let ty := e.ty
  let n := ty.w / 8
  let i := c / ty.n
  let j := c % ty.n
  if 4 ≤ e.mode .b then
    let q := s.source w e .b ty.esize i sb ce
    ⟨subw ty.w q.v j, q.fault, q.st⟩
  else
    let pl := s.placeOf w e .b ty.esize i
    match pl.fault with
    | some f => ⟨0, some f, pl.st⟩
    | none =>
      let f := pl.st.fetch w (addr64 (pl.v + j * n)) n
      ⟨f.v, pickFault [f.fault, alignFault e .b pl.v ty.esize], f.st⟩

/-- R199: a tap read: sub-word C1 of operand B in every lane and sub-word. A failed check is one of the first active
element of the row. -/
def MicroRun.tap (r : MicroRun) (g : RidgeId) (k : Nat) : List Lane × MicroRun :=
  match r.ms[k]? with
  | none => (emptyRow, r)
  | some m =>
    let ty := m.e.ty
    let c1 := r.old.c1.toNat
    let active := ((r.ctx k).ops.find? fun (x : Operands) => x.act).map fun (x : Operands) => x.i
    let f := r.st.tapSource (r.who g m (active.getD m.next)) m.e m.sb c1 (r.linkElem k (c1 / ty.n))
    let v := joinSub ty.w (List.replicate ty.n f.v)
    let r := { r with st := f.st }
    (List.replicate 16 ⟨none, false, BitVec.ofNat 64 v, f.fault⟩,
      match active with
      | some i => r.note k i f.fault
      | none => r)

/-- R200: a source row of context `k`; `ra` and `rb` are what the read ports present in this step. Choices: log
entry 40. -/
def MicroRun.sourceRow (r : MicroRun) (k code : Nat) (ra rb : List Lane) : List Lane :=
  if code = 1 then ra
  else if code = 2 then rb
  else if code = 3 then r.old.ua
  else if code = 4 then r.old.um
  else if code = 5 then r.old.us
  else if code = 6 then r.old.uk
  else if code = 7 then
    (match r.old.ctxs[k]? with
      | some c => if c.drain then emptyRow else c.link
      | none => emptyRow)
  else if code = 8 then r.old.sh
  else if code = 9 then r.old.lp
  else if code = 10 then
    (match r.ms[k]? with
      | some m => r.old.acc.map fun a => ⟨none, false, BitVec.ofNat 64 (accValue m.e.ty a), none⟩
      | none => emptyRow)
  else emptyRow

/-! ### Results (R199) -/

/-- The flags raised so far for element `i` of member `k`, and the list without them. -/
def takeFlags (xs : List (Nat × Nat × BitVec 6)) (k i : Nat) : BitVec 6 × List (Nat × Nat × BitVec 6) :=
  (xs.foldl (fun acc x => if x.1 = k ∧ x.2.1 = i then acc ||| x.2.2 else acc) 0, xs.filter fun x => !(x.1 == k && x.2.1 == i))

/-- Member `k` holds a commit of element `i`. Before its drain row has ended the last element has not passed (R196), and a
look-ahead code passes its elements at the end of the next row (R126). -/
def MicroRun.hold (r : MicroRun) (g : RidgeId) (k i j written : Nat) (acts : List CommitAct) : MicroRun :=
  match r.ms[k]? with
  | none => r
  | some m =>
    let fl := takeFlags r.gs.eflags k i
    let m' : Stream := { m with held := m.held ++ [⟨i, acts, fl.1, written⟩], j := j }
    { r with
      ms := r.ms.set k (if r.looksAhead g m then m' else m'.pass (min (i + 1) (m.e.len - 1)))
      gs := { r.gs with eflags := fl.2 } }

/-- R97, R101, R199: the destination of element `i` with result lane `x`: its selected values (WR = 0x2) at `size` bytes, or its
result. -/
def MicroRun.destOf (r : MicroRun) (g : RidgeId) (m : Stream) (i : Nat) (x : Lane) (tag : Option Word) (picks : Option (Nat × List Nat)) : Dest :=
  let w := r.who g m i
  let n := m.e.ty.esize
  if !(r.st.ridge g).customUses m.e.op .d then ⟨[], 0, x.bad, m.j, r.st⟩
  else
  match picks with
  | some (size, vs) => if x.bad.isSome then ⟨[], 0, x.bad, m.j, r.st⟩ else r.st.compactDest w m.e size tag m.j vs
  | none =>
    let scalar := bitOf ((r.st.ridge g).header m.e.op 0) 16
    if 3 < m.e.mode .d then ⟨r.st.plainDest scalar m.e n i 0 x.v.toNat tag, 0, x.bad, m.j, r.st⟩
    else
      let pl := r.st.placeOf w m.e .d n i
      let c := match pl.fault with
        | some f => (some f, pl.st)
        | none =>
          let c := pl.st.destCheck w pl.v n
          (pickFault [c.1, alignFault m.e .d pl.v n], c.2)
      ⟨r.st.plainDest scalar m.e n i pl.v x.v.toNat tag, 0, pickFault [x.bad, c.1], m.j, c.2⟩

/-- R199, R101: member `k` commits lane `x`; an inactive element commits nothing and has no fault. -/
def MicroRun.commit (r : MicroRun) (g : RidgeId) (k : Nat) (x : Lane) (picks : Option (Nat × List Nat)) : MicroRun :=
  match x.el, r.ms[k]? with
  | some (i, act, tag), some m =>
    if !act then (if i < m.e.start then r else r.hold g k i m.j 0 [])
    else if i < m.e.start then r.note k i x.bad
    else
      let d := r.destOf g m i x tag picks
      let r := { r with st := d.st }
      match d.fault with
      | some f => r.note k i (some f)
      | none => r.hold g k i d.j d.written d.acts
  | _, _ => r

/-- A row put on the chain output of member `k`; where that is its whole destination, its elements have passed. -/
def MicroRun.forwardNow (r : MicroRun) (g : RidgeId) (k : Nat) (row : List Lane) : MicroRun :=
  let r := r.handOn g k (placeholders ((r.ms[k]?.map fun m => m.e.op).getD 0) row)
  match r.ms[k]? with
  | none => r
  | some m => if m.e.mode .d = 6 then row.foldl (fun (r : MicroRun) (x : Lane) => r.commit g k x none) r else r

/-- R126: a row on the chain output of member `k` goes on now, or after the next row for a look-ahead code. -/
def MicroRun.forwardRow (r : MicroRun) (g : RidgeId) (k : Nat) (row : List Lane) : MicroRun :=
  match r.ms[k]? with
  | none => r
  | some m => if r.looksAhead g m then r.mapCtx k fun c => { c with later := c.later ++ [row] } else r.forwardNow g k row

/-- R156, R199: the values that unit K selects in a lane: hit records for TCOMPR, the element otherwise. -/
def selected (ty : VTy) (func : Nat) (src res : Lane) : List Nat :=
  match src.el with
  | none => []
  | some (i, _, tag) =>
    (List.range ty.n).filterMap fun j =>
      if subw ty.w res.v.toNat j = 0 then none
      else some (if func = 0x420 then hitRecord ty (subw ty.w src.v.toNat j) (i * ty.n + j) tag else src.v.toNat)

/-- R200: a unit's result row goes into its register, and where DST says. -/
def MicroRun.place (r : MicroRun) (g : RidgeId) (k wr : Nat) (u : VUnit) (sl : Slice) (src1 : List Lane) (x : UnitWork) : MicroRun :=
  let gs := match u with
    | .a => { r.gs with ua := x.row }
    | .m => { r.gs with um := x.row, acc := x.acc }
    | .s => { r.gs with us := x.row }
    | .k => { r.gs with uk := x.row }
  let gs := { gs with
    eflags := gs.eflags ++ x.flags.map fun f => (k, f.1, f.2)
    cl := if sl.clw = 0 then gs.cl
      else if anyNonzero x.row then gs.cl ||| BitVec.ofNat 8 (2 ^ (sl.clw - 1)) else gs.cl &&& ~~~(BitVec.ofNat 8 (2 ^ (sl.clw - 1))) }
  let r := { r with gs := gs }
  let r := if sl.dst = 1 ∧ wr = 1 then x.row.foldl (fun (r : MicroRun) (y : Lane) => r.commit g k y none) r else r
  let r := if sl.dst = 2 then r.forwardRow g k x.row else r
  match u, r.ms[k]? with
  | .k, some m =>
    if wr = 2 then
      let vs := (List.range 16).map fun l => selected m.e.ty sl.func (nth Lane.empty src1 l) (nth Lane.empty x.row l)
      let size := if sl.func = 0x420 then 8 else m.e.ty.esize
      let taken := ((List.range 16).map fun l =>
        match (nth Lane.empty x.row l).el with
        | some e => if e.2.1 then (nth [] vs l).length else 0
        | none => 0).sum
      (List.range 16).foldl (fun (r : MicroRun) (l : Nat) => r.commit g k (nth Lane.empty x.row l) (some (size, nth [] vs l)))
        (r.spend { Demand.none with write := (taken + 15) / 16 - 1 })
    else r
  | _, _ => r

/-- R199: the shift network moves the row of the first unit that routes a result to it in this step; without one the row
holds nothing. Choices: log entry 40. -/
def MicroRun.shift (r : MicroRun) (ty : VTy) (nano : Nat) : MicroRun :=
  let row := match vunits.find? fun u => (unitSlice nano u).en && (unitSlice nano u).dst == 3 with
    | some .a => r.gs.ua
    | some .m => r.gs.um
    | some .s => r.gs.us
    | some .k => r.gs.uk
    | none => emptyRow
  let q := shiftRow ty (bitOf nano 138) (field nano 139 3 + 1) row r.gs.edge
  { r with gs := { r.gs with sh := q.1, edge := q.2 } }

/-- R193 to R201: context `k` issues its microword, unless it fails parity (R205) or a context nearer the head has taken
one of its resources. -/
def MicroRun.issue (r : MicroRun) (g : RidgeId) (k : Nat) : MicroRun :=
  match r.ms[k]?, r.old.ctxs[k]? with
  | some m, some c =>
    if !c.inRow || c.ended || r.parity.isSome then r
    else
      let mw := (r.st.ridge g).microWord c.pc.toNat
      let nano := (r.st.ridge g).nanoWord (field mw 13 10)
      match (r.st.ridge g).readFails c.pc.toNat k with
      | some pf => { r with parity := some pf }
      | none =>
        let need := resourcesOf nano
        if need.any fun x => r.taken.contains x then r
        else
          let ty := m.e.ty
          let live := !c.drain
          let r := { r with taken := r.taken ++ need }.spend (stepDemand nano)
          let r := if field nano 128 2 = 1 && live then r.present g k .a else r
          let r := if field nano 130 2 = 1 && live then r.present g k .b else r
          let ra := if field nano 128 2 = 1 && live then rowOf (r.ctx k).ops fun x => x.a else emptyRow
          let t := if field nano 130 2 = 2 && live then r.tap g k
            else (if field nano 130 2 = 1 && live then rowOf (r.ctx k).ops fun x => x.b else emptyRow, r)
          let r := if field nano 142 2 = 1 && live then t.2.lookup g k else t.2
          let one (r : MicroRun) (u : VUnit) : MicroRun :=
            let sl := unitSlice nano u
            if sl.en then
              let s1 := r.sourceRow k sl.src1 ra t.1
              let x := unitWork sl ty s1 (r.sourceRow k sl.src2 ra t.1) (r.sourceRow k sl.src3 ra t.1) r.old.acc
              r.place g k (field nano 132 2) u sl s1 x
            else r
          let r := vunits.foldl one r
          let r := if bitOf nano 137 then r.shift ty nano else r
          let next := nextAddr mw (r.old.cond c (field mw 23 4))
          ({ r with gs := r.gs.counter (field mw 27 4) (field nano 192 13) m.e.op }).mapCtx k fun c' =>
            { c' with pc := next, ended := field mw 27 4 == 8 }
  | _, _ => r

/-- R194: one step of all contexts of the group. Choices: log entry 40. -/
def MicroRun.step (r : MicroRun) (g : RidgeId) : MicroRun :=
  let r := { r with old := r.gs, taken := [], steps := r.steps + 1 }
  (List.range r.ms.length).foldl (fun (r : MicroRun) (k : Nat) => r.issue g k) r

/-! ### Rows (R194, R196) -/

/-- R99, R122: the elements of a row for member `m` with their activity under its mask, the chain element's for the first
of a run (`chained`), and that of the member above it. -/
def MicroRun.rowOps (r : MicroRun) (g : RidgeId) (m : Stream) (chained : Bool) (above : Option (List Operands)) (xs : List Elem) :
    List Operands × MicroRun :=
  xs.foldl (fun (acc : List Operands × MicroRun) (x : Elem) =>
    if x.i < m.first then acc
    else
      let b := acc.2.st.maskBit (r.who g m x.i) m.e x.i
      let up := match above with
        | some ys => (ys.find? fun y => y.i == x.i).all fun y => y.act
        | none => !chained || x.act
      let bad := if chained && x.bad.isSome then x.bad else b.2.1
      (acc.1 ++ [⟨x.i, b.1 && up, if chained then x.tag else none, 0, 0, 0, bad, none, chained⟩], { acc.2 with st := b.2.2 }))
    ([], r)

/-- Context `k` begins a row of elements `xs`, behind the context above it in its run. -/
def MicroRun.beginCtx (r : MicroRun) (g : RidgeId) (h k : Nat) (xs : List Elem) : MicroRun :=
  match r.ms[k]? with
  | none => r
  | some m =>
    let chained := k == h && m.takesChain
    let o := r.rowOps g m chained (if k = h then none else some (r.ctx (k - 1)).ops) xs
    let link := if chained then
        (List.range 16).map fun l =>
          match o.1.find? (fun y => y.i % 16 == l), xs.find? (fun x => x.i % 16 == l) with
          | some y, some x => ⟨some (x.i, y.act, x.tag), true, x.v, x.bad⟩
          | _, _ => Lane.empty
      else (r.ctx k).link
    let r := o.2.mapCtx k fun c =>
      { c with
        ended := false, ops := o.1, gotA := false, gotB := false, link := link, inRow := true, drain := xs.isEmpty
        lastRow := xs.any fun x => x.i + 1 == m.e.len
        row := match xs.getLast? with
          | some x => x.i / 16
          | none => c.row + 1 }
    let r := o.1.foldl (fun (r : MicroRun) (y : Operands) => if y.act then r.note k y.i y.bad else r) r
    { r with ms := match r.ms[k]?, xs.getLast? with
        | some m, some x => r.ms.set k { m with next := x.i + 1 }
        | _, _ => r.ms }

/-- The run of custom codes from member `h` on begins its next row, if a whole one waits and it has begun none in this
turn (R119). -/
def MicroRun.beginRow (r : MicroRun) (g : RidgeId) (h : Nat) : MicroRun :=
  let c := r.ctx h
  let len := (r.ms[h]?.map fun m => m.e.len).getD 0
  match c.rows with
  | [] => r
  | xs :: rest =>
    if c.inRow || r.begun.contains h || !rowComplete len xs then r
    else
      (r.segment h).foldl (fun (r : MicroRun) k => r.beginCtx g h k xs)
        { r.mapCtx h fun c => { c with rows := rest } with begun := r.begun ++ [h] }

/-- The row that a result row belongs to. -/
def rowIndex (row : List Lane) : Nat := ((row.findSome? fun x => x.el).map fun e => e.1 / 16).getD 0

/-- R126: at the end of a row, what a look-ahead code held of earlier rows goes on and passes. -/
def MicroRun.releaseLater (r : MicroRun) (g : RidgeId) (k : Nat) : MicroRun :=
  match r.ms[k]? with
  | none => r
  | some m =>
    if !r.looksAhead g m then r
    else
      let c := r.ctx k
      let due (row : List Lane) : Bool := c.drain || decide (rowIndex row < c.row)
      let r := (c.later.filter due).foldl (fun (r : MicroRun) row => r.forwardNow g k row)
        (r.mapCtx k fun c => { c with later := c.later.filter fun row => !due row })
      match r.ms[k]? with
      | none => r
      | some m =>
        let upTo := m.held.foldl (fun acc h => if h.i / 16 < c.row then max acc (h.i + 1) else acc) 0
        { r with ms := r.ms.set k (m.pass (min upTo (m.e.len - 1))) }

/-- R196: context `k` ends a row; after its drain row every element has passed, and flags of elements never written count
too. -/
def MicroRun.endCtx (r : MicroRun) (g : RidgeId) (k : Nat) : MicroRun :=
  let r := r.releaseLater g k
  let r := r.mapCtx k fun c => { c with inRow := false, firstRow := false }
  match r.ms[k]? with
  | none => r
  | some m =>
    if (r.ctx k).drain then
      let mine := r.gs.eflags.filter fun x => x.1 == k && decide (m.e.start ≤ x.2.1)
      let m' : Stream := { m with held := m.held ++ mine.map fun x => ⟨x.2.1, [], x.2.2, 0⟩ }
      { r with
        ms := r.ms.set k (m'.pass m.e.len)
        gs := { r.gs with eflags := r.gs.eflags.filter fun x => x.1 != k } }
    else r

/-- The rows whose contexts have all issued END, end (R194). -/
def MicroRun.endRows (r : MicroRun) (g : RidgeId) : MicroRun :=
  r.segmentHeads.foldl (fun (r : MicroRun) h =>
    if (r.ctx h).inRow && (r.segment h).all fun k => (r.ctx k).ended then (r.segment h).foldl (fun (r : MicroRun) k => r.endCtx g k) r else r) r

/-- The sequencer runs steps of the group, at most `fuel` of them, until the rows begun in this turn have ended. A row
that does not end holds the group (R197), and goes on in the next command. -/
def MicroRun.run (fuel : Nat) (r : MicroRun) (g : RidgeId) : MicroRun :=
  match fuel with
  | 0 => r
  | f + 1 =>
    let r := r.segmentHeads.foldl (fun (r : MicroRun) h => r.beginRow g h) r
    if r.parity.isSome || !(r.gs.ctxs.any fun c => c.inRow) then r
    else MicroRun.run f ((r.step g).endRows g) g

/-- The micro-sequencer state of the group whose first member stands in slot `key`. -/
def State.groupState (s : State) (g : RidgeId) (key : Nat) (ms : List Stream) : GroupState :=
  match (s.ridge g).groups.find? fun x => x.1 == key with
  | some x => x.2
  | none => GroupState.start (ms.map fun m => MicroCtx.start (field ((s.ridge g).header m.e.op 2) 0 13))

/-- R118, R194, R196: one turn of a group: the elements `xs` enter its first member, and the members run. -/
def State.groupTurn (s : State) (g : RidgeId) (ms : List Stream) (xs : List Elem) : MicroRun :=
  let key := (ms.head?.map fun m => m.slot.val).getD 0
  let gs := s.groupState g key ms
  let r : MicroRun :=
    { st := s, ms := ms, old := gs, gs := gs, taken := [], out := [], begun := [], cost := Demand.none, steps := 0, parity := none }
  let r := if xs.isEmpty then r else r.feed 5 g 0 xs
  if ms.any Stream.custom then
    let r := r.run 65536 g
    let rg := r.st.ridge g
    { r with st := r.st.setRidge g { rg with groups := (rg.groups.filter fun x => x.1 != key) ++ [(key, r.gs)] } }
  else r

end Sys2Proof.Machine
end

