-- ==== Sys2Proof/Machine/ControlStore.lean ====
section
/-!
DEFINITION. Control-store parity (R205 to R207, R211): accounting, machine checks and the rewrite.
-/

namespace Sys2Proof.Machine

/-- R211: XINFO of a control-store failure: SOURCE, quarters, addresses and, for 0x21, microwords completed.
Choices: log entry 30. -/
def parityInfo (source : Nat) (pf : ParityFail) (words : Nat) : Nat :=
  source + (if pf.nano then pf.qmask.toNat else 0) * 2 ^ 8 + pf.uaddr.toNat * 2 ^ 16 + words * 2 ^ 32 + pf.naddr.toNat * 2 ^ 35

/-- The SOURCE of a failure (R211). -/
def paritySource (core : Bool) (pf : ParityFail) : Nat :=
  if core then (if pf.nano then 2 else 1) else (if pf.nano then 4 else 3)

/-- The store and address of the failing word. -/
def failedWord (pf : ParityFail) : Bool × Nat := (pf.nano, if pf.nano then pf.naddr.toNat else pf.uaddr.toNat)

/-- UC_PARITY after a failure: counts and the place of the most recent one. -/
def State.countParity (s : State) (g : RidgeId) (core : Bool) (pf : ParityFail) : State :=
  let b := rgBlk g
  let s := if pf.nano then s.countOf b 0x1300 12 12 1 else s.countOf b 0x1300 0 12 1
  let s := s.setFieldOf b 0x1300 24 13 pf.uaddr.toNat
  let s := s.setFieldOf b 0x1300 37 10 pf.naddr.toNat
  let s := s.setFieldOf b 0x1300 47 4 (if pf.nano then pf.qmask.toNat else 0)
  let s := s.setFlagOf b 0x1300 51 core
  s.setFlagOf b 0x1300 52 true

/-- R205: the word of a failure as the store holds it from then on: it fails at every further read (R207). Its data bits
stay; a failure that the store's own bits do not show yet turns the parity bits named. Choices: log entry 30. -/
def Ridge.spoil (r : Ridge) (pf : ParityFail) : Ridge :=
  if pf.nano then
    let a := pf.naddr.toNat
    let turned := ((List.range 4).map fun q =>
      b2n (pf.qmask.getLsbD q && !(r.badQuarters a).getLsbD q) * 2 ^ (256 + q)).sum
    { r with nano := Sparse.set nanoFill r.nano a (BitVec.ofNat 260 (r.nanoRaw a) ^^^ BitVec.ofNat 260 turned) }
  else
    let a := pf.uaddr.toNat
    let w := r.microWord a
    if oddParity 32 w then { r with micro := Sparse.set (0x80000000 : BitVec 32) r.micro a (BitVec.ofNat 32 w ^^^ 0x80000000) } else r

/-- R207: the word of a rewrite as the SMC's copy has it. -/
def Ridge.restore (r : Ridge) (word : Bool × Nat) : Ridge :=
  if word.1 then { r with nano := Sparse.set nanoFill r.nano word.2 (withParity (r.nanoWord word.2)) }
  else
    let w := r.microWord word.2
    if oddParity 32 w then r
    else { r with micro := Sparse.set (0x80000000 : BitVec 32) r.micro word.2 (BitVec.ofNat 32 w ^^^ 0x80000000) }

/-- R206, R207: a failure is counted, the ridge queued for the sweep and a rewrite of the word started; a second failure
of one word before the next sweep makes the site faulty. Choices: log entry 30. -/
def State.noteParity (s : State) (g : RidgeId) (core : Bool) (pf : ParityFail) : State :=
  let s := s.countParity g core pf
  let r := s.ridge g
  let word := failedWord pf
  let known := r.failedWords.contains word
  s.setRidge g { r.spoil pf with
    rewrite := if r.rewrite.contains word then r.rewrite else r.rewrite ++ [word]
    sweepQueued := true
    siteFaulty := r.siteFaulty || known
    failedWords := if known then r.failedWords else r.failedWords ++ [word] }

end Sys2Proof.Machine
end

