-- ==== Sys2Proof/Machine/StreamRows.lean ====
section
/-!
DEFINITION. Step groups (R118 to R120): which group is ready, one row of a group through its members, the ridgeline ends
(R131, R132), and control-store parity failures on the row side (R206).
-/

namespace Sys2Proof.Machine

/-! ### Ready groups (R119) -/

/-- The members of the group that the stream in a slot belongs to. Choices: log entry 26. -/
def State.groupOf (s : State) (g : RidgeId) (m : Stream) : List Stream :=
  match m.chid with
  | some c => s.membersOn g c
  | none => [m]

/-- The lowest stream slot of a group. -/
def groupSlot (ms : List Stream) : Nat := (ms.map fun m => m.slot.val).foldl min 15

/-- R196: the micro-sequencer state of the group of members `ms`, if it has one. -/
def State.groupMicro (s : State) (g : RidgeId) (ms : List Stream) : Option GroupState :=
  (ms.head?.bind fun m => (s.ridge g).groups.find? fun x => x.1 == m.slot.val).map fun x => x.2

/-- R197: a row of the group is in progress, and it holds the ridge. -/
def State.rowHeld (s : State) (g : RidgeId) (ms : List Stream) : Bool :=
  (s.groupMicro g ms).any fun x => x.ctxs.any fun c => c.inRow

/-- The group has a custom row in progress or a whole one waiting, the drain row included. -/
def State.microBusy (s : State) (g : RidgeId) (ms : List Stream) : Bool :=
  let len := (ms.head?.map fun m => m.e.len).getD 0
  (s.groupMicro g ms).any fun x => x.ctxs.any fun c => c.inRow || (c.rows.head?.any fun row => rowComplete len row)

/-- The first element behind the next row of a memory-fed member. -/
def Stream.rowEnd (m : Stream) : Nat := min m.e.len ((m.next / 16 + 1) * 16)

/-- R109: with its next row a member of an instance holds at most 256 elements that are not committed. -/
def State.fetchAhead (s : State) (m : Stream) : Bool :=
  match m.chid with
  | some c => decide (m.rowEnd ≤ (s.chain c).safe + 256)
  | none => true

/-- R119: the group of members `ms` with first member `m` is ready for a row, as far as its ports say; that its operands
are there shows when the row begins (`State.groupRow`). -/
def State.groupReady (s : State) (g : RidgeId) (ms : List Stream) (m : Stream) : Bool :=
  let busy := s.microBusy g ms
  if ms.any fun x => x.finished.isSome then false
  else
    match m.chid with
    | none => decide (m.next < m.e.len) || busy
    | some c =>
      let p := s.port g c
      (s.chain c).admitted
        && (decide (s.chainOut g c < 2) || decide (p.outRows.length < p.credits))
        && (busy || (s.fetchAhead m && if s.chainIn g c < 2 then decide (m.next < m.e.len) else !p.arrived.isEmpty))

/-- The first members of the groups of a ridge, in order of the groups' lowest slots. -/
def State.groupHeads (s : State) (g : RidgeId) : List Stream :=
  (List.range 16).flatMap fun k =>
    (s.ridge g).streams.filter fun m => decide (m.pos = 0) && groupSlot (s.groupOf g m) == k

/-- R119: the ready groups in the order of their turns: from the one after the group served last on. A row in progress
goes before all others (R197). -/
def State.readyGroups (s : State) (g : RidgeId) : List Stream :=
  let ready := (s.groupHeads g).filter fun m => s.groupReady g (s.groupOf g m) m
  match ready.filter fun m => s.rowHeld g (s.groupOf g m) with
  | m :: _ => [m]
  | [] =>
    let later (m : Stream) : Bool := decide ((s.ridge g).rrSlot < groupSlot (s.groupOf g m))
    ready.filter later ++ ready.filter fun m => !later m

/-- R119: the ready group whose turn it is. -/
def State.nextGroup (s : State) (g : RidgeId) : Option Stream := (s.readyGroups g).head?

/-! ### The ridgeline (R131, R132) -/

/-- R117, R131: elements put on the chain output form rows of 16 lanes; a row is complete with lane 15 or the last
element. -/
def ChainPort.put (p : ChainPort) (len : Nat) (xs : List Elem) : ChainPort :=
  xs.foldl (fun (p : ChainPort) x =>
    let row := p.forming ++ [x]
    if x.i % 16 = 15 ∨ x.i + 1 = len then { p with forming := [], outRows := p.outRows ++ [row] } else { p with forming := row }) p

/-- R132: the CHID whose row the ridgeline port of ridge `g` towards OUT code `dir` sends next: round robin over those with a
row and a credit, after `last`. -/
def State.nextSender (s : State) (g : RidgeId) (dir last : Nat) : Option (Fin 16) :=
  ((List.finRange 16).map fun k : Fin 16 => (⟨(last + 1 + k.val) % 16, by omega⟩ : Fin 16)).find? fun c =>
    s.chainOut g c == dir && !(s.port g c).outRows.isEmpty && decide (0 < (s.port g c).credits)

/-- R131, R132: in one step the port towards `dir` sends one row, which takes a credit. -/
def State.sendRow (s : State) (g : RidgeId) (dir : Nat) : State :=
  let r := s.ridge g
  match s.nextSender g dir (if dir = 2 then r.rrLower else r.rrUpper) with
  | none => s
  | some c =>
    let s := s.setRidge g (if dir = 2 then { r with rrLower := c.val } else { r with rrUpper := c.val })
    let p := s.port g c
    match p.outRows with
    | [] => s
    | row :: rest =>
      let s := s.setPort g c { p with outRows := rest, credits := p.credits - 1 }
      let h := neighbour g dir
      let q := s.port h c
      s.setPort h c { q with inFlight := q.inFlight ++ [row] }

/-- R132: in `steps` steps each port sends at most one row a step; no more than 64 have a credit (R105). -/
def State.sendRows (s : State) (g : RidgeId) (steps : Nat) : State :=
  (List.range (min steps 64)).foldl (fun (s : State) _ => (s.sendRow g 2).sendRow g 3) s

/-- R119, R131: the group of a ridge takes the row that arrived first; its credit starts back to the sender. -/
def State.takeRow (s : State) (g : RidgeId) (c : Fin 16) : List Elem × State :=
  let p := s.port g c
  match p.arrived with
  | [] => ([], s)
  | row :: rest =>
    let s := s.setPort g c { p with arrived := rest }
    let h := neighbour g (s.chainIn g c)
    let q := s.port h c
    (row, s.setPort h c { q with creditsBack := q.creditsBack + 1 })

/-! ### One row (R119) -/

/-- The indices of the next row of a memory-fed member. -/
def Stream.rowElems (m : Stream) : List Elem :=
  (List.range (m.rowEnd - m.next)).map fun k => indexElem (m.next + k)

/-- The elements with which the next row of a group begins; a group with a custom row to go on with takes none. -/
def State.groupInput (s : State) (g : RidgeId) (ms : List Stream) (m : Stream) : List Elem × State :=
  if s.microBusy g ms then ([], s)
  else
    match m.chid with
    | none => (m.rowElems, s)
    | some c => if s.chainIn g c < 2 then (m.rowElems, s) else s.takeRow g c

/-- LN_STEPS counts steps (R135): those that carried a row, and all. -/
def State.countSteps (s : State) (g : RidgeId) (busy total : Nat) : State :=
  (s.countOf (rgBlk g) 0x1200 0 32 busy).countOf (rgBlk g) 0x1200 32 32 total

/-- An access of the member's row waits at the deep store (`State.deepHeld`). -/
def Stream.waits (m : Stream) : Bool :=
  match m.fault with
  | some f => f.2.order == 0
  | none => false

/-! ### Parity on the row side (R206) -/

/-- R206: a failure in the row of the group of `m` stops every member at the lowest element in process. Choices: log
entry 26. -/
def State.parityStop (s : State) (g : RidgeId) (m : Stream) (pf : ParityFail) : State :=
  let ms := s.groupOf g m
  let k := ms.foldl (fun acc x => min acc (max x.passed x.e.start)) m.e.len
  let bad := match ms[pf.member]? with
    | some x => x
    | none => m
  let s := s.putStream g (bad.noteFault k ⟨6, 0x07, 0⟩)
  let s := s.machineCheck (.stream g m.th) (parityInfo (paritySource false pf) { pf with qmask := 0 } 0) 0
  s.settle g m.slot true

/-- R206: a parity failure in a row of the group of `m`. -/
def State.groupParity (s : State) (g : RidgeId) (m : Stream) (pf : ParityFail) : State := (s.noteParity g false pf).parityStop g m pf

/-- R206: a parity failure on the idle microword stops no stream and is reported to the SMC. -/
def State.idleParity (s : State) (g : RidgeId) (pf : ParityFail) : State :=
  (s.noteParity g false pf).machineCheck .other (parityInfo (paritySource false pf) { pf with qmask := 0 } 0) 0

/-- R206: a parity failure on the row side of ridge `g`: in the row of the group whose turn it is, or on the idle
microword. -/
def State.rowParity (s : State) (g : RidgeId) (pf : ParityFail) : State :=
  match s.nextGroup g with
  | some m => (s.countSteps g 1 1).groupParity g m pf
  | none => (s.countSteps g 0 1).idleParity g pf

/-! ### One row (R119) -/

/-- R119, R120: one row of the group whose first member is `m`, and the steps it takes on LN_STEPS and the ridgeline ports;
nothing when an operand of the row is not there yet. Choices: log entry 25. -/
def State.groupRow (s : State) (g : RidgeId) (m : Stream) : Option State :=
  let ms := s.groupOf g m
  let inp := s.groupInput g ms m
  let r := inp.2.groupTurn g ms inp.1
  if r.ms.any fun x => x.waits then none
  else
    let steps := max r.steps r.cost.steps
    let s := r.ms.foldl (fun (s : State) x => s.putStream g x) r.st
    let s := (s.bump).countSteps g steps steps
    let s := s.setRidge g { s.ridge g with rrSlot := groupSlot ms }
    let s := match m.chid with
      | none => s
      | some c => if s.chainOut g c < 2 then s else s.setPort g c ((s.port g c).put m.e.len r.out)
    let s := s.sendRows g steps
    some (match r.parity with
      | some pf => s.groupParity g m pf
      | none => s.settle g m.slot)

/-- A step that carries the idle microword (R119): it counts in TOTAL, the ports send, and the idle microword is read with
its parity (R205). -/
def State.idleStep (s : State) (g : RidgeId) : State :=
  let s := (s.countSteps g 0 1).sendRows g 1
  match (s.ridge g).readFails 0 0 with
  | some pf => s.idleParity g pf
  | none => s

/-- The stream engine of a ridge works: the ridge runs, and no dust sheet holds its requests (R282). -/
def State.sequencerRuns (s : State) (g : RidgeId) : Bool := s.ridgeRuns g && !s.sheeted (.stream g 0)

/-- STEP_GROUP_ROW: the first ready group whose operands are there runs one row; without one the step carries the idle
microword, as it does under a dust sheet and in a lane swap. Choices: log entry 25. -/
def execStepGroupRow (g : RidgeId) (pf : Option ParityFail) (s : State) : Host.Outcome State Fault Refusal :=
  if !s.ridgeRuns g then .next s
  else if !s.sequencerRuns g || (s.ridge g).swap.isSome then
    match pf with
    | some pf => .next ((s.countSteps g 0 1).idleParity g pf)
    | none => .next (s.idleStep g)
  else
    match pf with
    | some pf => .next (s.rowParity g pf)
    | none =>
      match (s.readyGroups g).findSome? fun m => s.groupRow g m with
      | some s' => .next s'
      | none => .next (s.idleStep g)

/-- RIDGELINE_ROW_ARRIVAL: the oldest row in flight to ridge `g` arrives. -/
def execRidgelineRowArrival (g : RidgeId) (chid : Fin 16) (s : State) : Host.Outcome State Fault Refusal :=
  let p := s.port g chid
  match p.inFlight with
  | [] => .next s
  | row :: rest => .next (s.setPort g chid { p with inFlight := rest, arrived := p.arrived ++ [row] })

/-- RIDGELINE_CREDIT_RETURN: a credit on its way back reaches the sending ridge `g`. -/
def execRidgelineCreditReturn (g : RidgeId) (chid : Fin 16) (s : State) : Host.Outcome State Fault Refusal :=
  let p := s.port g chid
  if p.creditsBack = 0 then .next s
  else .next (s.setPort g chid { p with creditsBack := p.creditsBack - 1, credits := p.credits + 1 })

end Sys2Proof.Machine
end

