-- ==== Sys2Proof/Machine/LaunchChecks.lean ====
section
/-!
DEFINITION. The launch checks of a descriptor (R89), with the entries of the codes (R136, R137, R143 to R165), chain
topology (R106) and the overlap of destination and sources (R100).
-/

namespace Sys2Proof.Machine

/-! ### Check 1: the code -/

/-- R136, R165, R203: the code is defined on the ridge and takes the ETYPE. -/
def codeDefined (r : Ridge) (e : QEntry) : Bool :=
  if e.op < 0x800 then basicType e.op e.etype
  else (r.customEntry e.op).isSome && decide (e.etype ≤ 10) && bitOf (r.header e.op 0) e.etype

/-! ### Check 2: reserved fields, modes, chain flags -/

/-- Operand A is used by the code. -/
def usesA (r : Ridge) (e : QEntry) : Bool := if e.op < 0x800 then useA e.op != .unused else r.customUses e.op .a

/-- Operand B is used by the code and the descriptor: HIST's may be absent (R88, R158). -/
def usesB (r : Ridge) (e : QEntry) : Bool :=
  if e.op < 0x800 then useB e.op != .unused && !(useB e.op == .weight && e.absent .b) else r.customUses e.op .b

/-- Operand D is used by the code: every basic code writes D; a custom code with DMODES zero does not (R203). -/
def usesD (r : Ridge) (e : QEntry) : Bool := decide (e.op < 0x800) || r.customUses e.op .d

/-- R85: RND is no reserved value. -/
def rndOk (e : QEntry) : Bool := decide (e.rnd ≤ 4) || e.rnd == 15

/-- R88: the reserved parts of an operand's doublewords are zero. -/
def operandReserved (e : QEntry) (p : Pos) : Bool :=
  let m := e.mode p
  field (e.first p) 52 12 == 0 && decide (m < 8)
    && (m != 5 || field (e.first p) 3 45 == 0)
    && (m != 6 || e.base p == 0)
    && (m == 1 || m == 2 || m == 3 || e.second p == 0)

/-- R88, R137, R203: the MODE of operand A is permitted. -/
def modeA (r : Ridge) (e : QEntry) : Bool :=
  let m := e.mode .a
  m != 7 && (m == 6) == e.chinA &&
    (if 0x800 ≤ e.op then bitOf (r.header e.op 1) m
     else if e.op = 0x211 then m == 0 || m == 6
     else true)

/-- R88, R137, R143, R154, R156, R163, R203: the MODE of operand B is permitted. -/
def modeB (r : Ridge) (e : QEntry) : Bool :=
  let m := e.mode .b
  m != 7 && (m == 6) == e.chinB &&
    (if 0x800 ≤ e.op then bitOf (r.header e.op 1) (8 + m)
     else
      match useB e.op with
      | .pair => m == 4 || m == 5
      | .doubleword => m == 4
      | .taps => m == 0
      | _ => true)

/-- R88, R137, R148, R149, R156, R158, R203: the MODE of D is permitted; MODE 0x7 in a chain only in the tail (R106). -/
def modeD (r : Ridge) (e : QEntry) (tail : Bool) : Bool :=
  let m := e.mode .d
  (m != 6 || e.chout) && (m != 7 || !e.member || tail) &&
    (if 0x800 ≤ e.op then
      bitOf (r.header e.op 1) (16 + m) && (m != 7 || bitOf (r.header e.op 0) 15) && (m != 4 || bitOf (r.header e.op 0) 16)
     else
      match kindOf e.op with
      | .reduction => m == 4 || m == 5
      | .maskPack => m == 0
      | .hist => m == 0
      | .compact _ => m == 7
      | _ => m != 4 && m != 7)

/-- An unused operand has both doublewords zero and takes no chain input (R88, R137). Choices: log entry 27. -/
def unusedOk (e : QEntry) (p : Pos) (chin : Bool) : Bool := e.absent p && !chin

/-- R106: where a member of a CHID stands on its ridge: MEMBERS and the ends of SE_CHAINn, the members dispatched
before it, and whether they were launched by the same thread. -/
structure ChainPlace where
  members : Nat
  input : Nat
  output : Nat
  before : Nat
  sameThread : Bool

/-- The place of the next member of CHID `c` on ridge `g` from thread `n`. -/
def State.chainPlace (s : State) (g : RidgeId) (n : Fin 8) (c : Fin 16) : ChainPlace :=
  let ms := s.membersOn g c
  ⟨s.chainMembers g c, s.chainIn g c, s.chainOut g c, ms.length, ms.all fun m => m.th == n⟩

/-- The member is the last one on its ridge. -/
def ChainPlace.last (p : ChainPlace) : Bool := p.before + 1 == p.members

/-- R106: chain flags and CHID fit the loaded topology; without a chain flag CHID is 0. Choices: log entry 27. -/
def chainFits (e : QEntry) (p : ChainPlace) : Bool :=
  if !e.member then e.chid == 0
  else
    let takes := e.chinA || e.chinB
    p.members != 0 && p.sameThread
      && (takes == (if p.before = 0 then p.input != 0 else true))
      && (e.chout == (if p.last then p.output != 0 else true))
      && (!e.chout || decide (0x800 ≤ e.op) || givesChain e.op)

/-- Launch check 2 of R89. Choices: log entry 27. -/
def checkFields (r : Ridge) (e : QEntry) (p : ChainPlace) : Bool :=
  field (e.word 0) 44 20 == 0 && decide (e.etype ≤ 10) && rndOk e
    && operandReserved e .a && operandReserved e .b && operandReserved e .d
    && (if usesA r e then modeA r e else unusedOk e .a e.chinA)
    && (if usesB r e then modeB r e else unusedOk e .b e.chinB)
    && (if usesD r e then modeD r e (p.last && p.output == 0) else unusedOk e .d false)
    && chainFits e p

/-! ### Check 3: lengths, alignment, overlap -/

/-- R84, R136, R203: PACK is allowed for the ETYPE and by the code's entry. -/
def packOk (r : Ridge) (e : QEntry) : Bool :=
  packAllowed e.etype e.pack
    && (if 0x800 ≤ e.op then bitOf (r.header e.op 0) (11 + e.pack) else basicPack e.op e.pack)

/-- R88: an index vector, an address vector or a scalar read or written at `size` is aligned. -/
def alignedOk (e : QEntry) (p : Pos) (size : Nat) : Bool :=
  let m := e.mode p
  if m = 2 then e.second p % 4 == 0
  else if m = 3 then e.second p % 8 == 0
  else if m = 4 then e.base p % size == 0
  else true

/-- The alignment of a MODE 0x4 destination: a 16-byte result needs 8 (R149). -/
def scalarAlign (code : Nat) (ty : VTy) : Nat := min 8 (dSize code ty)

/-- R88, R149: a V-register destination holds the results. -/
def vregFits (e : QEntry) : Bool :=
  e.mode .d != 5 || kindOf e.op == .reduction || decide (e.len * dSize e.op e.ty ≤ 32)

/-- R145, R148, R157, R160, R164: what single codes ask of LEN, START, PACK and modes. -/
def codeShape (e : QEntry) : Bool :=
  let by8 := e.len % 8 == 0 && e.start % 8 == 0
  match kindOf e.op with
  | .maskPack => by8
  | .transpose => by8
  | .coinc w => decide (w ≤ packN e.pack)
  | .channel => e.mode .b == 4 || decide (e.pack ≤ 1)
  | _ => !(decide (0x140 ≤ e.op ∧ e.op ≤ 0x14A) && e.chinA && decide (8 < aSize e.op e.ty))

/-- Places in memory at regular steps: `count` of them, the first at `at0`, each of `size` bytes. -/
structure Track where
  at0 : Int
  step : Int
  size : Nat
  count : Nat

/-- A place of the track starts in `[lo, hi)`. -/
def Track.startsIn (x : Track) (lo hi : Int) : Bool :=
  if x.count = 0 ∨ hi ≤ lo then false
  else if x.step = 0 then decide (lo ≤ x.at0 ∧ x.at0 < hi)
  else
    let up := decide (0 < x.step)
    let st := if up then x.step else -x.step
    let low := if up then x.at0 else x.at0 + x.step * (x.count - 1)
    let k := if lo ≤ low then 0 else (lo - low + st - 1) / st
    decide (k < x.count) && decide (low + k * st < hi)

/-- R100: the tracks touch a common byte. -/
def Track.overlaps (x y : Track) : Bool :=
  let loOf (t : Track) : Int := min t.at0 (t.at0 + t.step * (t.count - 1))
  let hiOf (t : Track) : Int := max t.at0 (t.at0 + t.step * (t.count - 1)) + t.size
  if hiOf x ≤ loOf y ∨ hiOf y ≤ loOf x then false
  else (List.range x.count).any fun (i : Nat) => let a := x.at0 + x.step * i; y.startsIn (a - y.size + 1) (a + x.size)

/-- R100: element i of both tracks has one address, for every i. -/
def Track.inPlace (x y : Track) : Bool := x.count == y.count && x.at0 == y.at0 && (x.step == y.step || decide (x.count ≤ 1))

/-- The elements of an operand in MODE 0x0 or 0x1 with elements of `n` bytes, or the bytes of a bitmap. -/
def QEntry.track (e : QEntry) (p : Pos) (n : Nat) (bitmap : Bool) : Option Track :=
  let m := e.mode p
  if bitmap then (if m = 0 then some ⟨e.base p + (e.start / 8 : Nat), 1, 1, (e.len + 7) / 8 - e.start / 8⟩ else none)
  else if m = 0 then some ⟨e.base p + (e.start * n : Nat), n, n, e.len - e.start⟩
  else if m = 1 then some ⟨e.base p + e.start * e.stride p * n, e.stride p * n, n, e.len - e.start⟩
  else none

/-- R154: the fixed tap range of an FIR code. -/
def QEntry.tapTrack (e : QEntry) : Option Track :=
  match kindOf e.op with
  | .fir t => some ⟨e.base .b, 1, 1, (if etInt e.etype then t + 1 else t) * (e.ty.w / 8)⟩
  | _ => none

/-- A destination and a source conflict: they overlap and are not in place. -/
def conflict (d a : Option Track) (mayPlace : Bool) : Bool :=
  match d, a with
  | some d, some a => d.overlaps a && !(mayPlace && d.inPlace a)
  | _, _ => false

/-- R89, R100, R154, R158: D overlaps no source other than in place. Choices: log entry 27. -/
def overlapOk (r : Ridge) (e : QEntry) : Bool :=
  let mask := kindOf e.op == .maskPack
  let d := if kindOf e.op == .hist || !usesD r e then none else e.track .d (dSize e.op e.ty) mask
  let a := if usesA r e then e.track .a (aSize e.op e.ty) (e.op == 0x211) else none
  let b := if usesB r e && useB e.op != .taps then e.track .b (bSize e.op e.ty) false else none
  !(conflict d a (!mask && e.op != 0x211)) && !(conflict d b (!mask)) && !(conflict d e.tapTrack false)

/-- Launch check 3 of R89; `others` are the members of the instance that passed their launch checks. Choices: log
entry 27. -/
def checkShape (r : Ridge) (e : QEntry) (others : List Stream) : Bool :=
  decide (e.start ≤ e.len) && packOk r e
    && alignedOk e .a (aSize e.op e.ty) && (!usesB r e || alignedOk e .b (scalarB e.op e.ty))
    && alignedOk e .d (scalarAlign e.op e.ty)
    && vregFits e && codeShape e
    && (!e.member || (e.order && others.all fun m => m.e.len == e.len && m.e.start == e.start))
    && overlapOk r e

/-- R89: the code of the first launch check that fails, 0 when all pass. Choices: log entry 27. -/
def launchCheck (r : Ridge) (e : QEntry) (p : ChainPlace) (others : List Stream) : Nat :=
  if !codeDefined r e then 0x01
  else if !checkFields r e p then 0x02
  else if !checkShape r e others then 0x09
  else 0

end Sys2Proof.Machine
end

