-- ==== Sys2Proof/Machine/StreamLaunch.lean ====
section
/-!
DEFINITION. Dispatch (R92), chain admission and timeout (R107, R108), completion with the status record (R93, R96, R98),
and how streams are discarded (R95).
-/

namespace Sys2Proof.Machine

/-! ### Which descriptor is dispatched (R92, R94) -/

/-- R92: the head of a queue: its first entry not dispatched, once every entry before it has completed or is a
member of the same chain. Choices: log entry 28. -/
def queueHead (dq : List QEntry) : Option QEntry :=
  match dq.find? fun e => !e.dispatched with
  | none => none
  | some e =>
    let before := dq.filter fun x => x.dispatched
    if before.all fun x => x.member && e.member && x.chid == e.chid then some e else none

/-- R94: the slots of ridge `g` that are reserved for chain members. -/
def State.reservedSlots (s : State) (g : RidgeId) : Nat := ((List.finRange 16).map fun c => s.chainMembers g c).sum

/-- The lowest free stream slot of ridge `g`; one under a dust sheet waits (R282). Choices: log entry 28. -/
def State.freeSlot (s : State) (g : RidgeId) : Option (Fin 16) :=
  (List.finRange 16).find? fun k => ((s.ridge g).stream k).isNone && !s.matrix.sheets.contains (.stream g k)

/-- R94: an unchained stream finds a slot that is not reserved. -/
def State.plainSlotFree (s : State) (g : RidgeId) : Bool :=
  let plain := (s.ridge g).streams.filter fun m => m.chid.isNone
  decide (plain.length + s.reservedSlots g < 16)

/-- R92: a member of CHID `c` may be dispatched on ridge `g`: no earlier instance is active, and the instance that
gathers has room for it. -/
def State.memberMayStart (s : State) (g : RidgeId) (c : Fin 16) : Bool :=
  let x := s.chain c
  if s.chainMembers g c = 0 then !(x.active && x.closed) && s.plainSlotFree g
  else !x.active || (!x.closed && decide ((s.membersOn g c).length < s.chainMembers g c))

/-- R92: entry `e` at the head of its queue is eligible on ridge `g`. -/
def State.eligible (s : State) (g : RidgeId) (e : QEntry) : Bool :=
  (s.freeSlot g).isSome && (if e.member then s.memberMayStart g e.chid else s.plainSlotFree g)

/-- The eligible head of thread `n`'s queue. -/
def State.eligibleHead (s : State) (g : RidgeId) (n : Fin 8) : Option QEntry :=
  match queueHead (s.thread (threadOf g n)).dq with
  | some e => if s.eligible g e then some e else none
  | none => none

/-- R92: the thread whose turn it is, after the one served last, with its head. -/
def State.nextDispatch (s : State) (g : RidgeId) : Option (Fin 8 × QEntry) :=
  (List.range 8).findSome? fun k =>
    let n : Fin 8 := ⟨((s.ridge g).rrThread + 1 + k) % 8, by omega⟩
    (s.eligibleHead g n).map fun e => (n, e)

/-! ### Dispatch -/

/-- A stream as it takes its slot. -/
def Stream.start (slot : Fin 16) (n : Fin 8) (e : QEntry) (chid : Option (Fin 16)) (pos first : Nat) : Stream where
  slot := slot
  th := n
  e := { e with dispatched := true }
  chid := chid
  pos := pos
  first := first
  next := first
  passed := e.start
  fault := none
  found := []
  launchBad := false
  finished := none
  flags := 0
  j := 0
  written := 0
  held := []
  os := OpState.start e.ty
  sa := 0
  sb := 0
  sb1 := 0
  vw := []
  scal := []
  before := []

/-- The entry of sequence number `seq` is marked as dispatched. -/
def Thread.markDispatched (th : Thread) (seq : BitVec 32) : Thread :=
  { th with dq := th.dq.map fun e => if e.seq = seq then { e with dispatched := true } else e }

/-- The stream takes its slot and its queue entry is marked; a member belongs to the instance that gathers. -/
def State.placeStream (s : State) (g : RidgeId) (m : Stream) : State :=
  let t := threadOf g m.th
  let s := s.setThread t ((s.thread t).markDispatched m.e.seq)
  let s := s.setRidge g { s.ridge g with streams := (s.ridge g).streams ++ [m], rrThread := m.th.val }
  match m.chid with
  | some c => if (s.chain c).active then s else s.setChain c { ChainInst.reset with active := true }
  | none => s

/-- The fault a launch check leaves on a member of an instance. -/
def launchFault (code : Nat) : SFault := ⟨7, BitVec.ofNat 8 code, 0⟩

/-- R89: a descriptor whose launch check failed with `code`: alone it completes, in an instance it waits for it. -/
def Stream.failLaunch (m : Stream) (code : Nat) : Stream :=
  if m.chid.isSome then { m with launchBad := true, fault := some (m.e.start, launchFault code) }
  else { (m.finish (BitVec.ofNat 8 code) m.e.start 0) with launchBad := true }

/-- R87, R101: a stream whose checks passed: with START = LEN it reads nothing; otherwise it reads its once-read values,
and a failure is the fault of START. -/
def State.launchReads (s : State) (g : RidgeId) (m : Stream) : Stream × State :=
  if m.e.start = m.e.len then (if m.chid.isSome then m else m.finish 0 m.e.len 0, s)
  else
    let v := s.onceValues (m.who g) m.e (usesA (s.ridge g) m.e) (usesB (s.ridge g) m.e)
    let m := { m with sa := v.1, sb := v.2.1, sb1 := v.2.2.1 }
    match v.2.2.2.1 with
    | none => (m, v.2.2.2.2)
    | some f =>
      let m := m.noteFault m.e.start f
      (if m.chid.isSome then m else m.finish f.code m.e.start f.addr, v.2.2.2.2)

/-- The first element of an unchained stream, history included (R128). -/
def State.firstElement (s : State) (g : RidgeId) (e : QEntry) : Nat := e.start - (s.ridge g).history e.op (packN e.pack)

/-- R92, R89: entry `e` of thread `n` is dispatched into `slot`: launch checks, then the once-read values. A read of a
busy window (R225) puts the dispatch off. -/
def State.dispatch (s : State) (g : RidgeId) (n : Fin 8) (slot : Fin 16) (e : QEntry) : State :=
  let place := s.chainPlace g n e.chid
  let inInstance := e.member && place.members != 0
  let others := if inInstance then ((s.instanceMembers e.chid).map fun (x : RidgeId × Stream) => x.2).filter fun m => !m.launchBad else []
  let m := Stream.start slot n e (if inInstance then some e.chid else none) (if inInstance then place.before else 0)
    (s.firstElement g e)
  let code := launchCheck (s.ridge g) e place others
  if code ≠ 0 then s.placeStream g (m.failLaunch code)
  else
    let r := s.launchReads g m
    if r.1.waits then s else r.2.placeStream g r.1

/-- STREAM_DISPATCH: the eligible queue head whose thread's turn it is takes a stream slot of ridge `g`. Choices:
log entry 10. -/
def execStreamDispatch (g : RidgeId) (s : State) : Host.Outcome State Fault Refusal :=
  if !s.sequencerRuns g || (s.ridge g).draining then .next s
  else
    match s.nextDispatch g, s.freeSlot g with
    | some (n, e), some slot => .next (s.dispatch g n slot e)
    | _, _ => .next s

/-! ### Admission and timeout (R107, R108, R129) -/

/-- R129: the history of a member over `below`, that of the members downstream of it. XPOSE8 works on whole blocks of 8
elements (R164), so that it and the members above it begin with a block (R130). Choices: log entry 65. -/
def State.historyOver (s : State) (g : RidgeId) (m : Stream) (below : Nat) : Nat :=
  let h := below + (s.ridge g).history m.e.op (packN m.e.pack)
  if kindOf m.e.op == .transpose then (h + 7) / 8 * 8 else h

/-- R129: each member's first element: history over itself and every member downstream of it. -/
def State.withHistory (s : State) (ms : List (RidgeId × Stream)) : Nat × List (RidgeId × Stream) :=
  match ms with
  | [] => (0, [])
  | (g, m) :: rest =>
    let r := s.withHistory rest
    let h := s.historyOver g m r.1
    (h, (g, { m with first := m.e.start - h, next := m.e.start - h }) :: r.2)

/-- R89, R108: an instance that never moved an element ends: the failed member nearest the head reports its code,
every other 0x08, each at its START. Choices: log entry 26. -/
def abortMembers (reported : Bool) (ms : List (RidgeId × Stream)) : List (RidgeId × Stream) :=
  match ms with
  | [] => []
  | (g, m) :: rest =>
    match m.launchBad, m.fault with
    | true, some f =>
      if reported then (g, m.finish 0x08 m.e.start 0) :: abortMembers reported rest
      else (g, m.finish f.2.code m.e.start 0) :: abortMembers true rest
    | _, _ => (g, m.finish 0x08 m.e.start 0) :: abortMembers reported rest

/-- The streams of a list take the place of those with their slots. -/
def State.putMembers (s : State) (ms : List (RidgeId × Stream)) : State :=
  ms.foldl (fun (s : State) (x : RidgeId × Stream) => s.putStream x.1 x.2) s

/-- R107: every ridge of CHID `c` has dispatched MEMBERS members. -/
def State.gathered (s : State) (c : Fin 16) : Bool :=
  ridgeIds.all fun g => (s.membersOn g c).length == s.chainMembers g c

/-- R107: the credits of every OUT hop of CHID `c` are reserved. -/
def State.reserveCredits (s : State) (c : Fin 16) : State :=
  (s.chainPath c).foldl (fun (s : State) g =>
    if s.chainOut g c < 2 then s else s.setPort g c { s.port g c with credits := field (s.chainReg g c) 8 7 }) s

/-- R107, R129: an instance without failed launch is admitted. Choices: log entry 26. -/
def State.admitChain (s : State) (c : Fin 16) : State :=
  let ms := s.instanceMembers c
  let start := match ms with
    | x :: _ => x.2.e.start
    | [] => 0
  let s := s.putMembers (s.withHistory ms).2
  let s := (s.reserveCredits c).setChain c { s.chain c with closed := true, admitted := true, safe := start }
  s.settleChain c

/-- R89, R108: the instance of CHID `c` is closed without moving an element. -/
def State.abortInstance (s : State) (c : Fin 16) (reported : Bool) : State :=
  (s.putMembers (abortMembers reported (s.instanceMembers c))).setChain c { s.chain c with closed := true }

/-- CHAIN_ADMISSION: the instance of a CHID all of whose members are dispatched is admitted; with a failed launch check
among them it stops at once. -/
def execChainAdmission (chid : Fin 16) (s : State) : Host.Outcome State Fault Refusal :=
  let x := s.chain chid
  if !x.active || x.closed || !s.gathered chid then .next s
  else if (s.instanceMembers chid).any fun m => m.2.launchBad then .next (s.abortInstance chid false)
  else .next (s.admitChain chid)

/-- CHAIN_TIMEOUT: ridge `g` has counted TIMEOUT × 1,024 steps from the dispatch of its first member: every dispatched
member completes with 0x08. -/
def execChainTimeout (g : RidgeId) (chid : Fin 16) (s : State) : Host.Outcome State Fault Refusal :=
  let x := s.chain chid
  if !x.active || x.closed || (s.membersOn g chid).isEmpty then .next s
  else .next (s.abortInstance chid true)

/-! ### Completion (R93, R96, R98) -/

/-- What is written once at completion (R98): bytes of a scalar destination, bytes of the V register, and flags. -/
structure Once where
  scalar : Option (List Byte)
  vbytes : List (Nat × Byte)
  flags : Flags

/-- R98, R149, R203: the result that stream `m`, ending with `code`, still has to write; `scalar` says that its custom code
produces a scalar. -/
def Stream.once (m : Stream) (scalar : Bool) (code : Byte) : Once :=
  let e := m.e
  if kindOf e.op == .reduction then
    if code ≠ 0 then ⟨none, [], 0⟩
    else
      let r := reduceResult e.op e.ty m.os.parts
      if e.mode .d = 4 then ⟨some r.1, [], r.2⟩ else ⟨none, r.1.zipIdx.map fun p => (p.2, p.1), r.2⟩
  else if e.mode .d = 4 then ⟨if code = 0 ∧ !m.scal.isEmpty then some m.scal else none, [], 0⟩
  else if e.mode .d = 5 ∧ scalar then ⟨none, if code = 0 then m.scal.zipIdx.map fun p => (p.2, p.1) else [], 0⟩
  else if e.mode .d = 5 then ⟨none, m.vw, 0⟩
  else ⟨none, [], 0⟩

/-- The V register with some bytes replaced (R98). -/
def setVBytes (v : BitVec 256) (ps : List (Nat × Byte)) : BitVec 256 :=
  ps.foldl (fun (v : BitVec 256) (p : Nat × Byte) => BitVec.ofNat 256 (setField v.toNat (8 * p.1) 8 p.2.toNat)) v

/-- V register `n` of a thread set at once. -/
def Thread.setV (th : Thread) (n : BitVec 3) (v : BitVec 256) : Thread :=
  { th with r := (writeV 0 n v).foldl (fun (r : CoreRegs) w => r.apply w) th.r }

/-- The COUNT of a status record (R96). Choices: log entry 28. -/
def countField (m : Stream) (x : StreamEnd) : Nat :=
  if x.code ≠ 0 ∧ !m.e.order then 0
  else if m.e.mode .d = 7 then m.written
  else x.index - m.e.start

/-- R96: the 32 bytes of a status record. -/
def statusRecord (m : Stream) (x : StreamEnd) (count : Nat) (flags : Flags) : List Byte :=
  leBytes 4 m.e.seq.toNat ++ [x.code, flags.setWidth 8, BitVec.ofNat 8 (m.e.chid.val + b2n m.e.member * 16), 0]
    ++ leBytes 4 x.index ++ leBytes 4 count ++ leBytes 8 x.addr.toNat ++ leBytes 8 m.e.addr.toNat

/-- R96: the bulk offset of the status record. -/
def State.statOffset (s : State) (g : RidgeId) (m : Stream) : Nat :=
  s.fieldOf (rgBlk g) 0x1010 13 8 * 8192 + m.th.val * 0x400 + m.e.seq.toNat % 32 * 0x20

/-- R96, R251: the status record is written, or lost outside the bulk. -/
def State.writeStatus (s : State) (g : RidgeId) (m : Stream) (bs : List Byte) : State :=
  let off := s.statOffset g m
  if off + 32 ≤ s.bulkSize g then s.sramWrite (.stream g m.th) (ledgeBase + g.val * 0x400000 + off) bs
  else s.setFlagOf (rgBlk g) 0x1410 54 true

/-- The state without stream `m` and its queue entry; an instance whose last member goes leaves its CHID free. -/
def State.removeStream (s : State) (g : RidgeId) (m : Stream) : State :=
  let t := threadOf g m.th
  let th := s.thread t
  let s := s.setThread t { th with dq := th.dq.filter fun e => e.seq != m.e.seq }
  let r := s.ridge g
  let s := s.setRidge g { r with
    streams := r.streams.filter fun x => x.slot != m.slot
    groups := r.groups.filter fun x => x.1 != m.slot.val }
  match m.chid with
  | none => s
  | some c =>
    if ridgeIds.any fun g => (s.ridge g).streams.any fun x => x.chid == some c then s
    else (s.setChain c ChainInst.reset).clearPorts c

/-- R93: the end of stream `m` as `x`, with result flags: status record, flags into TS, then EVENT. -/
def State.report (s : State) (g : RidgeId) (m : Stream) (x : StreamEnd) (flags : Flags) : State :=
  let t := threadOf g m.th
  let s := s.writeStatus g m (statusRecord m x (countField m x) flags)
  let s := s.setThread t ((s.thread t).raise (flags &&& 0x1F))
  (s.removeStream g m).postEvent t.val m.e.event

/-- R98: the scalar or V-register result is written; a scalar destination that fails its check changes the end: no
element is committed, so no flag is left (R96). A scalar carries no tag: in the port of an alignment queue it is not
delivered and advances DROP (R149, R391). -/
def State.writeOnce (s : State) (g : RidgeId) (m : Stream) (x : StreamEnd) : Option (State × StreamEnd × Flags) :=
  let o := m.once (m.custom && bitOf ((s.ridge g).header m.e.op 0) 16) x.code
  let t := threadOf g m.th
  let a := m.e.base .d
  match o.scalar with
  | some bs =>
    match s.destCheck (m.who g) a bs.length with
    | (some f, s) => if f.order = 0 then none else some (s, ⟨f.code, m.e.start, BitVec.ofNat 48 a⟩, 0)
    | (none, s) =>
      match s.region a with
      | .queuePort q => some (s.countDrop q 1, x, m.flags ||| o.flags)
      | _ => some ((s.memWrite (.stream g m.th) a bs).st, x, m.flags ||| o.flags)
  | none =>
    if o.vbytes.isEmpty then some (s, x, m.flags ||| o.flags)
    else
      let n := BitVec.ofNat 3 (m.e.base .d)
      let th := s.thread t
      some (s.setThread t (th.setV n (setVBytes (th.v n) o.vbytes)), x, m.flags ||| o.flags)

/-- A result of the stream is still on its way to the release side. Choices: log entry 28. -/
def State.delivering (s : State) (g : RidgeId) (slot : Fin 16) : Bool :=
  s.queues.toList.any fun q => q.entering.any fun x => x.g == g && x.slot == slot

/-- STREAM_COMPLETE: a stream whose last element is committed and whose writes are acknowledged reports. Choices:
log entry 28. -/
def execStreamComplete (g : RidgeId) (slot : Fin 16) (s : State) : Host.Outcome State Fault Refusal :=
  match (s.ridge g).stream slot with
  | none => .next s
  | some m =>
    match m.finished with
    | none => .next s
    | some x =>
      if !s.ridgeRuns g || s.delivering g slot then .next s
      else
        match s.writeOnce g m x with
        | none => .next s
        | some r => .next (r.1.report g m r.2.1 r.2.2)

/-! ### Streams discarded (R95) -/

/-- R95, R110: stream `m` of ridge `g` goes without a status record, under the dust sheet (R281); an admitted
instance stops at its safe index. Choices: log entry 26. -/
def State.discardStream (s : State) (g : RidgeId) (m : Stream) : State :=
  let drop (q : AlnQueue) : AlnQueue := { q with entering := q.entering.filter fun x => !(x.g == g && x.slot == m.slot) }
  let s := { s with queues := s.queues.map drop }.cover (.stream g m.slot)
  match m.chid with
  | none => s.removeStream g m
  | some c =>
    let x := s.chain c
    let s := s.removeStream g m
    if (s.chain c).admitted && m.finished.isNone then
      let stop := match x.stop with
        | some k => min k x.safe
        | none => x.safe
      (s.setChain c { s.chain c with stop := some stop }).settleChain c
    else s

/-- R95: the streams of ridge `g` that `p` picks are discarded. -/
def State.discardStreams (s : State) (g : RidgeId) (p : Stream → Bool) : State :=
  ((s.ridge g).streams.filter p).foldl (fun (s : State) m =>
    match (s.ridge g).stream m.slot with
    | some m => s.discardStream g m
    | none => s) s

end Sys2Proof.Machine
end

