-- ==== Sys2Proof/Machine/Memories.lean ====
section
/-!
DEFINITION. The on-die memories as commands (R240 to R265): accesses of single words, write-back, aliases, channel
table, mailbox, doorbells, semaphores, and ledge retention.
-/

namespace Sys2Proof.Machine

/-! ### Accesses -/

/-- R244: where the machine checks of a master's access go; one of a stream port goes to the launching thread of the
ridge's first active stream (DESIGN CHOICE, log entry 13). -/
def State.requesterOf (s : State) (m : Master) : Requester :=
  match m with
  | .stream g _ =>
    (match (s.ridge g).streams.head? with
      | some x => .stream g x.th
      | none => .stream g 0)
  | m => Master.requester m

/-- Every byte of an access lies in a region that `p` picks and that master `m` has a path to (R268). -/
def State.allReach (s : State) (m : Master) (a n : Nat) (p : Region → Bool) : Bool :=
  decide (0 < n) && (List.range n).all fun k => p (s.region (a + k)) && s.path m (s.region (a + k))

/-- Ledge bytes, own side or matrix side. -/
def inLedge (r : Region) : Bool :=
  match r with
  | .ledge _ _ => true
  | .scaffold _ _ => true
  | _ => false

/-- Mailbox data bytes. -/
def inMailbox (r : Region) : Bool :=
  match r with
  | .mailbox _ => true
  | _ => false

/-- Channel-table bytes. -/
def inChannelTable (r : Region) : Bool :=
  match r with
  | .channelTable _ => true
  | _ => false

/-- Alias bytes. -/
def inAlias (r : Region) : Bool :=
  match r with
  | .aliasOf _ _ => true
  | _ => false

/-- The bytes an access moves. -/
def accLen (acc : Access) : Nat :=
  match acc with
  | .read n => n
  | .write bs => bs.length

/-- The access comes from an ingress engine, whose saddle writes keep the tag words (R365). -/
def isIngress (m : Master) : Bool :=
  match m with
  | .ingress _ => true
  | _ => false

/-- A read keeps its bytes in `readData`; a write stores them (R244, R365). -/
def State.serve (s : State) (m : Master) (a : Nat) (acc : Access) : State :=
  let who := s.requesterOf m
  match acc with
  | .read n =>
    let r := s.memRead who a n
    { r.st with readData := r.bytes }
  | .write bs => if isIngress m then s.sramWrite who a bs else (s.memWrite who a bs).st

/-- The aligned word of an address. -/
def wordAt (a : Nat) : Nat := a / 8 * 8

/-- LEDGE_ACCESS: a bank of a ledge serves one request; the word first addressed is found with the disturbance `upset`. -/
def execLedgeAccess (m : Master) (addr : BitVec 48) (acc : Access) (upset : BitVec 72) (s : State) : Host.Outcome State Fault Refusal :=
  let a := addr.toNat
  if s.dieOn && s.allReach m a (accLen acc) inLedge then .next ((s.upset (wordAt a) upset).serve m a acc) else .next s

/-- ECC_WRITEBACK: the bank writes a corrected word back; a word that became uncorrectable meanwhile is counted and
stays. -/
def execEccWriteback (addr : BitVec 48) (s : State) : Host.Outcome State Fault Refusal :=
  let w := wordAt addr.toNat
  if s.dieOn && s.sram.writeback.contains w then
    match s.wordClass w with
    | .uncorrectable =>
      .next (({ s with sram := { s.sram with writeback := s.sram.writeback.filter (· != w) } }).noteWord .other w .uncorrectable)
    | _ => .next (s.storeWord w (s.wordRead w))
  else .next s

/-- R253: an alias write is 1, 2, 4 or 8 bytes, naturally aligned. -/
def aliasShape (a n : Nat) : Bool := (n == 1 || n == 2 || n == 4 || n == 8) && a % n == 0

/-- ALIAS_OPERATION: one indivisible read-modify-write that sets or clears bits. -/
def execAliasOperation (m : Master) (addr : BitVec 48) (bytes : List (BitVec 8)) (s : State) : Host.Outcome State Fault Refusal :=
  let a := addr.toNat
  if s.dieOn && aliasShape a bytes.length && s.allReach m a bytes.length inAlias then
    .next (s.memWrite (s.requesterOf m) a bytes).st
  else .next s

/-- CHANNEL_TABLE_LOOKUP: a bank serves one lookup of entry `c`. -/
def execChannelTableLookup (m : Master) (c : Fin 2097152) (upset : BitVec 72) (s : State) : Host.Outcome State Fault Refusal :=
  let a := ctBase + 8 * c.val
  if s.dieOn && s.allReach m a 8 inChannelTable then .next ((s.upset a upset).serve m a (.read 8)) else .next s

/-- CHANNEL_TABLE_WRITE: entries are written, each atomically. -/
def execChannelTableWrite (m : Master) (addr : BitVec 48) (bytes : List (BitVec 8)) (s : State) : Host.Outcome State Fault Refusal :=
  let a := addr.toNat
  if s.dieOn && s.allReach m a bytes.length inChannelTable then .next (s.serve m a (.write bytes)) else .next s

/-- MAILBOX_DATA_ACCESS: a data bank of the mailbox serves one request. -/
def execMailboxDataAccess (m : Master) (addr : BitVec 48) (acc : Access) (upset : BitVec 72) (s : State) : Host.Outcome State Fault Refusal :=
  let a := addr.toNat
  if s.dieOn && s.allReach m a (accLen acc) inMailbox then .next ((s.upset (wordAt a) upset).serve m a acc) else .next s

/-! ### Doorbells and semaphores (R261 to R265) -/

/-- R261: only control cores and the SMC access semaphores and doorbells. -/
def mayRing (m : Master) : Bool :=
  match m with
  | .core _ => true
  | .smc => true
  | _ => false

/-- DOORBELL_WRITE: posts event v[7:0] to the owner of the doorbell. -/
def execDoorbellWrite (m : Master) (tag : Fin 257) (v : BitVec 64) (s : State) : Host.Outcome State Fault Refusal :=
  if s.dieOn && mayRing m then .next (s.ringDoorbell tag.val v.toNat) else .next s

/-- R283: the owner is a thread under the dust sheet. -/
def State.ownerCovered (s : State) (owner : Fin 257) : Bool :=
  if h : owner.val < 256 then s.sheeted (.core ⟨owner.val, by omega⟩) else false

/-- SEMAPHORE_ACQUIRE: a read of semaphore `n` by an owner tag; one that completes for a covered thread breaks (R283). -/
def execSemaphoreAcquire (owner : Fin 257) (n : Fin 256) (s : State) : Host.Outcome State Fault Refusal :=
  if s.dieOn then
    let r := s.semAcquire owner n
    let s' := { r.2 with readData := leBytes 8 r.1 }
    let x := s'.sem n
    .next (if s.ownerCovered owner && x.holder == some owner then s'.setSem n { x with breaking := true } else s')
  else .next s

/-- SEMAPHORE_RELEASE: a write of semaphore `n` by an owner tag. -/
def execSemaphoreRelease (owner : Fin 257) (n : Fin 256) (s : State) : Host.Outcome State Fault Refusal :=
  if s.dieOn then .next (s.semRelease owner n) else .next s

/-- SEMAPHORE_BREAK: a break on its way reaches the mailbox and is served. -/
def execSemaphoreBreak (n : Fin 256) (s : State) : Host.Outcome State Fault Refusal :=
  if (s.sem n).breaking then .next (s.setSem n (s.sem n).break) else .next s

/-- R265: what a write to MBX_SEMFORCE does: a held semaphore breaks. Choices: log entry 59. -/
def State.forceBreak (s : State) (n : Nat) : State :=
  let k : Fin 256 := ⟨n % 256, by omega⟩
  if (s.sem k).holder.isSome then s.setSem k (s.sem k).break else s

/-! ### Retention (R254) -/

/-- R254: no stream of the ridge is queued or active and all its threads are in the reset state. Choices: log entry
62. -/
def State.ridgeIdle (s : State) (g : RidgeId) : Bool :=
  (s.ridge g).streams.isEmpty && threadNos.all fun n =>
    let th := s.thread (threadOf g n)
    th.dq.isEmpty && th.st == .reset

/-- The RSV_DOMn register of the site that carries ridge `g`. -/
def State.domOff (s : State) (g : RidgeId) : Option Nat := (s.siteOf g).map fun st => 0x100 + 8 * st.val

/-- R68: VCORE_SAFE as a CODE. -/
def codeSafe : Nat := 100

/-- The CODE of a domain set. -/
def State.setCode (s : State) (off code : Nat) : State := s.setFieldOf 0x03 off 0 7 code

/-- R63, R70: the domain of ridge `g`'s site is switched off or starts at VCORE_SAFE. Choices: log entry 62. -/
def State.ridgeDomain (s : State) (g : RidgeId) (isOn : Bool) : State :=
  match s.domOff g with
  | some off => s.setCode off (if isOn then codeSafe else 0)
  | none => s

/-- R254: a write of RET to LD_PWR. Choices: log entry 62. -/
def State.writeRet (s : State) (g : RidgeId) (ret : Bool) : State :=
  let b := rgBlk g
  let now := s.flagOf b 0x1408 0
  if ret then
    if now then s
    else if s.ridgeIdle g then
      (((s.setReg b 0x1408 3).ridgeDomain g false).cover (.ridge g)).dropWaiting (.ridge g)
    else s.cfgerr b
  else if now then (s.setReg b 0x1408 4).ridgeDomain g true
  else s

/-- RETENTION_ENTER: LD_PWR.RET = 1. -/
def execRetentionEnter (g : RidgeId) (s : State) : Host.Outcome State Fault Refusal :=
  if s.inRun then .next (s.writeRet g true) else .next s

/-- RETENTION_WAKE: LD_PWR.RET = 0. -/
def execRetentionWake (g : RidgeId) (s : State) : Host.Outcome State Fault Refusal :=
  if s.inRun then .next (s.writeRet g false) else .next s

/-- WAKE_COMPLETE: 12 us after the write of RET = 0 the first access is served. Choices: log entry 62. -/
def execWakeComplete (g : RidgeId) (s : State) : Host.Outcome State Fault Refusal :=
  if s.flagOf (rgBlk g) 0x1408 2 then .next (s.setFlagOf (rgBlk g) 0x1408 2 false) else .next s

end Sys2Proof.Machine
end

