-- ==== Sys2Proof/Machine/RateServo.lean ====
section
/-!
DEFINITION. The rate servo (R62 to R76): one update of every servo-regulated domain, alarms and settling.
-/

namespace Sys2Proof.Machine

/-- The 35 servo domains: VCORE_ST00 to VCORE_ST33 and VCORE_FAB. -/
def domains : List (Fin 35) := List.finRange 35
/-- Offset of RSV_DOMn. -/
def domReg (n : Fin 35) : Nat := 0x100 + 8 * n.val
/-- The guard rate of R68, in M steps/s. -/
def guardRate : Nat := 1550

/-- R62, R63, R254: the domain is switched on: VCORE_FAB, a site that carries a ridge not held in retention, one that a
ridge moves onto, or one under its full site test. -/
def State.domainOn (s : State) (n : Fin 35) : Bool :=
  if h : n.val < 34 then
    let st : SiteId := ⟨n.val, h⟩
    (match s.ridgeAt st with
      | some g => !s.flagOf (rgBlk g) 0x1408 1
      | none => false)
    || (match s.repair.move with
      | some m => m.2 == st
      | none => false)
    || s.repair.items.contains (.site st)
  else true

/-- R68: the next CODE under AUTO at a measured rate and a target, both in M steps/s. -/
def autoCode (code rate target : Nat) : Nat :=
  if rate < guardRate then min 120 (code + 4)
  else if rate < target then min 120 (code + 1)
  else if rate * 100 ≤ target * 102 then code
  else max 8 (code - 1)

/-- R71: the two monitors disagree by more than 5 % (of the higher reading: DESIGN CHOICE, log entry 15). -/
def monitorsDisagree (a b : Nat) : Bool := decide (max a b < 20 * (max a b - min a b))

/-- What one update finds and decides for a domain. -/
structure DomainUpdate where
  code : Nat
  rate : Nat
  tj : Int
  fault : Bool
  settled : Bool

/-- R68, R71, R75: the new CODE of a domain in servo mode `mode` (0 AUTO, 1 HOLD, 2 MANUAL). DESIGN CHOICE (log entry 54): a
monitor fault holds CODE at 120 in every mode, HOLD and MANUAL included. -/
def State.domainUpdate (s : State) (n : Fin 35) (mode target : Nat) (r : RateReading) : DomainUpdate :=
  let reg := s.reg 0x03 (domReg n)
  let old := if field reg 0 7 = 0 then codeSafe else field reg 0 7
  let rate := min r.mon0 r.mon1
  let fault := bitOf reg 38 || monitorsDisagree r.mon0 r.mon1
  let manual := field reg 8 7
  let code :=
    if fault then 120
    else if mode = 1 then old
    else if mode = 2 ∧ manual ≠ 0 then manual
    else autoCode old rate target
  let inBand := decide (target ≤ rate ∧ rate * 100 ≤ target * 102)
  ⟨code, rate, r.tj, fault, inBand || (code == old && (code == 8 || code == 120))⟩

/-- R72: the alarm condition. -/
def DomainUpdate.raises (u : DomainUpdate) (code : Nat) : Bool := decide (100 < u.tj) || (code == 120 && decide (u.rate < guardRate))
/-- R72: an update that counts towards clearing an alarm. -/
def DomainUpdate.calm (u : DomainUpdate) : Bool := decide (u.tj ≤ 97) && decide (guardRate ≤ u.rate)

/-- R72, R74: an alarm of domain `n` raised or cleared: the record, and the accounts when raised. -/
def State.alarm (s : State) (n : Fin 35) (u : DomainUpdate) (raised : Bool) : State :=
  let s := s.setFlagOf 0x03 (domReg n) 37 raised
  let s := s.note 0x0002 [n.val, wrapNat 8 u.tj, u.code, b2n raised]
  if raised then (s.setFlagOf 0x03 0x08 3 true).countOf 0x03 0x20 0 16 1 else s

/-- The state with the servo counters of domain `n` replaced. -/
def State.setServo (s : State) (n : Fin 35) (x : Servo) : State := { s with servo := s.servo.set n.val x n.isLt }

/-- R68 to R74: the update of a domain that is on. DESIGN CHOICE (log entry 54): RATE, of 12 bits, shows a higher measured rate as
4095. -/
def State.updateDomain (s : State) (n : Fin 35) (u : DomainUpdate) : State :=
  let reg := s.reg 0x03 (domReg n)
  let alarm := bitOf reg 37
  let reg := setField (setField (setField reg 0 7 u.code) 16 12 (min u.rate 4095)) 28 8 (wrapNat 8 u.tj)
  let reg := setField (setField reg 36 1 (b2n (u.code == 120))) 38 1 (b2n u.fault)
  let s := s.setReg 0x03 (domReg n) reg
  let old := s.servo[n]
  let good := if alarm && u.calm then old.good + 1 else 0
  let settled := if u.settled then min 8 (old.settled + 1) else 0
  let s := s.setServo n ⟨if 10 ≤ good then 0 else good, settled⟩
  if !alarm && u.raises u.code then s.alarm n u true
  else if 10 ≤ good then s.alarm n u false
  else s

/-- R63, R74: a domain that is off has CODE 0, no alarm and no monitor fault, and starts to settle anew; an alarm that ends so
is recorded with the last reading and CODE. -/
def State.domainOff (s : State) (n : Fin 35) : State :=
  let reg := s.reg 0x03 (domReg n)
  let s := if bitOf reg 37 then s.note 0x0002 [n.val, field reg 28 8, field reg 0 7, 0] else s
  (s.setReg 0x03 (domReg n) (setField (setField reg 0 7 0) 36 3 0)).setServo n ⟨0, 0⟩

/-- R76: under HOLD, some domain on measures below the guard rate. -/
def State.holdExit (s : State) (rs : List RateReading) : Bool :=
  s.fieldOf 0x03 0x10 0 2 == 1 && domains.any fun n =>
    s.domainOn n && (match rs[n.val]? with
      | some r => decide (min r.mon0 r.mon1 < guardRate)
      | none => false)

/-- R68: the summary bits of RSV_STATUS and the time in alarm. -/
def State.servoSummary (s : State) : State :=
  let on := domains.filter fun n => s.domainOn n
  let shortfall := on.any fun n => s.flagOf 0x03 (domReg n) 37
  let s := s.setFlagOf 0x03 0x08 1 (on.all fun n => decide (8 ≤ (s.servo[n]).settled))
  let s := s.setFlagOf 0x03 0x08 2 shortfall
  let s := s.setFlagOf 0x03 0x08 4 (on.any fun n => s.flagOf 0x03 (domReg n) 38)
  if shortfall then s.countOf 0x03 0x20 16 48 10 else s

/-- R66 to R76: one update of every servo-regulated domain; a domain without a reading in `rs` is left as it is. -/
def State.servoUpdate (s : State) (rs : List RateReading) : State :=
  let s := if s.holdExit rs then (s.setFieldOf 0x03 0x10 0 2 0).setFlagOf 0x03 0x08 5 true else s
  let mode := s.fieldOf 0x03 0x10 0 2
  let target := 10 * s.fieldOf 0x03 0x10 4 8
  let s := domains.foldl (fun (s : State) n =>
    if s.domainOn n then
      (match rs[n.val]? with
        | some r => s.updateDomain n (s.domainUpdate n mode target r)
        | none => s)
    else s.domainOff n) s
  s.servoSummary

end Sys2Proof.Machine
end

