-- ==== Sys2Proof/Machine/DeepStore.lean ====
section
/-!
DEFINITION. The deep store as commands (R213 to R239): training and link integrity, refresh, one grant of an interface, ECC
windows, migration, the bank map of R237 and an interface outage.
-/

namespace Sys2Proof.Machine

/-! ### Interface registers -/

/-- DS_STATUS.LOST. -/
def State.lostIf (s : State) (i : Fin 32) : Bool := s.flagOf (dsBlk i) 0x08 2
/-- The 32 interfaces. -/
def ifaces : List (Fin 32) := List.finRange 32

/-! ### The bank map (R221, R237) -/

/-- R237: physical bank `pb` is healthy: not recorded as retired, on an interface that is not lost. -/
def State.healthyBank (s : State) (pb : Nat) : Bool := !s.dram.recordedBad.contains pb && !s.lostIf (ifaceOf pb)

/-- R221: STATE of a bank that is no slot. -/
def State.spareState (s : State) (pb : Nat) : BitVec 2 :=
  if s.lostIf (ifaceOf pb) then 3 else if s.dram.recordedBad.contains pb then 2 else 1

/-- A natural number of at least 2 has no divisor from 2 to itself. -/
def isPrime (n : Nat) : Bool := decide (2 ≤ n) && (List.range n).all fun d => decide (d < 2) || n % d != 0

/-- R237: the largest prime not above `n`. -/
def primeBelow (n : Nat) : Nat :=
  match n with
  | 0 => 0
  | k + 1 => if isPrime (k + 1) then k + 1 else primeBelow k

/-- R237: each slot of the default map takes its own bank when healthy, otherwise the next healthy bank of `spare`. -/
def State.fillSlots (s : State) (spare : List Nat) (ns : List Nat) : List Nat :=
  match ns with
  | [] => []
  | n :: rest =>
    if s.healthyBank (defaultBank n) then defaultBank n :: s.fillSlots spare rest
    else
      match spare with
      | p :: more => p :: s.fillSlots more rest
      | [] => s.fillSlots [] rest

/-- R237: the banks of the slots, in order of slot. -/
def State.slotBanks (s : State) : List Nat :=
  let healthy := ((List.range 1024).map defaultBank).filter s.healthyBank
  if 1021 ≤ healthy.length then
    s.fillSlots (((List.range 3).map fun k => defaultBank (1021 + k)).filter s.healthyBank) (List.range 1021)
  else healthy.take (primeBelow healthy.length)

/-- R237: the whole map: the slots, then every other bank in order of default entry. -/
def State.builtMap (s : State) : List MapEntry :=
  let slots := s.slotBanks
  let rest := ((List.range 1024).map defaultBank).filter fun pb => !slots.contains pb
  slots.map (fun pb => ⟨BitVec.ofNat 10 pb, 0⟩) ++ rest.map fun pb => ⟨BitVec.ofNat 10 pb, s.spareState pb⟩

/-- The map entries that differ from the default ones, by number. -/
def mapDiffs (n : Nat) (es : List MapEntry) : List (Nat × MapEntry) :=
  match es with
  | [] => []
  | e :: rest => if e = defaultMapEntry n then mapDiffs (n + 1) rest else (n, e) :: mapDiffs (n + 1) rest

/-- R237: the bank map is built from the retired banks and the lost interfaces. -/
def State.buildMap (s : State) : State := { s with dram := { s.dram with map := mapDiffs 0 s.builtMap } }

/-- The state with map entry `n` replaced. -/
def State.setMapEntry (s : State) (n : Nat) (e : MapEntry) : State :=
  { s with dram := { s.dram with map := Sparse.set (defaultMapEntry n) s.dram.map n e } }

/-- The map entry that holds physical bank `pb`. -/
def State.entryOf (s : State) (pb : Nat) : Option Nat := (List.range 1024).find? fun n => (s.mapEntry n).pb.toNat == pb

/-! ### Migration (R234 to R236) -/

/-- Healthy scaffold banks by entry; `tested` picks those that passed their test (R477). -/
def State.spareBanks (s : State) (tested : Bool) : List Nat :=
  (List.range 1024).filter fun n =>
    let e := s.mapEntry n
    e.st == 1 && (!tested || (s.dram.passed.contains e.pb.toNat && !s.dram.testing.contains e.pb.toNat))

/-- R235 step 1: a migration of slot `slot` to the bank of entry `n`. -/
def State.startMigration (s : State) (slot n cause : Nat) : State :=
  s.setReg 0x10 0x50 (1 + b2n (cause != 0) * 2 + slot * 2 ^ 8 + (s.mapEntry n).pb.toNat * 2 ^ 20)

/-- R236, R468: a bank that must be retired without scaffold stays in service, and its record is written. -/
def State.recordBankBad (s : State) (pb cause : Nat) : State :=
  { s.note 0x0105 [pb, cause] with
    dram := { s.dram with recordedBad := if s.dram.recordedBad.contains pb then s.dram.recordedBad else s.dram.recordedBad ++ [pb] } }

/-- The queue without its head. -/
def State.dropMigration (s : State) : State := { s with dram := { s.dram with migQueue := s.dram.migQueue.drop 1 } }

/-- R235: the next migration of the queue starts; a bank that is no slot any longer needs none. Choices: log entry
36. -/
def State.nextMigration (s : State) (pb cause : Nat) : State :=
  match s.entryOf pb with
  | none => s.dropMigration
  | some slot =>
    if s.slots ≤ slot then s.dropMigration
    else
      match s.spareBanks true, s.spareBanks false with
      | n :: _, _ => s.startMigration slot n cause
      | [], _ :: _ => s
      | [], [] => if cause = 0 then s.dropMigration else (s.recordBankBad pb cause).dropMigration

/-- MIGRATION_START: the repair controller starts the next queued migration; with none queued, the sweep asks for
the slot whose turn it is (R452). Choices: log entry 36. -/
def execMigrationStart (s : State) : Host.Outcome State Fault Refusal :=
  if s.migrating || s.dram.outage != 0 || !s.inRun then .next s
  else
    match s.dram.migQueue with
    | (pb, cause) :: _ => .next (s.nextMigration pb cause)
    | [] =>
      if s.flagOf 0x0B 0x10 0 && !(s.spareBanks true).isEmpty then
        let slot := s.repair.nextSlot % s.slots
        let pb := (s.mapEntry slot).pb.toNat
        let s := { s with
          dram := { s.dram with migQueue := [(pb, 0)] }
          repair := { s.repair with nextSlot := (slot + 1) % s.slots } }
        .next (s.nextMigration pb 0)
      else .next s

/-- R235 step 4: the entries of the slot and of the target are exchanged; the freed bank is retired, or tested next.
Choices: log entry 36. -/
def State.endMigration (s : State) : State :=
  let slot := s.fieldOf 0x10 0x50 8 10
  let target := s.fieldOf 0x10 0x50 20 10
  let cause := match s.dram.migQueue with
    | q :: _ => q.2
    | [] => 0
  match s.entryOf target with
  | none => s
  | some n =>
    let freed := (s.mapEntry slot).pb
    let s := (s.setMapEntry slot ⟨BitVec.ofNat 10 target, 0⟩).setMapEntry n ⟨freed, if cause = 0 then 1 else 2⟩
    let s := (s.setFlagOf 0x10 0x50 0 false).dropMigration
    let s := { s with dram := { s.dram with passed := s.dram.passed.filter fun p => p != target && p != freed.toNat } }
    if cause = 0 then { s with dram := { s.dram with testing := s.dram.testing ++ [freed.toNat] } }
    else s.recordBankBad freed.toNat cause

/-- MIGRATION_ROW_COPY: a row copy has been written and FENCE advances; after the last row the migration ends.
Choices: log entries 10 and 36. -/
def execMigrationRowCopy (s : State) : Host.Outcome State Fault Refusal :=
  if !s.migrating || s.dram.outage != 0 then .next s
  else
    let s := s.setFieldOf 0x10 0x50 32 17 (s.fence + 1)
    .next (if s.fence = 65536 then s.endMigration else s)

/-! ### Outage (R238, R355) -/

/-- R238 step 2: a running migration is abandoned. -/
def State.abandonMigration (s : State) : State :=
  if s.migrating then (s.setFlagOf 0x10 0x50 0 false).dropMigration else s

/-- R219, R238 step 1: interface `i` is lost; from now on deep-store accesses complete without data. Choices: log
entry 34. -/
def State.loseInterface (s : State) (i : Fin 32) : State :=
  let b := dsBlk i
  let s := s.setFieldOf b 0x08 1 3 2
  let s := s.abandonMigration
  { s with dram := { s.dram with
      outage := 1
      lostNow := s.dram.lostNow ++ [i]
      retraining := s.dram.retraining.filter fun x => x.1 != i
      recentring := s.dram.recentring.filter fun x => x.1 != i
      refreshed := s.dram.refreshed.filter fun x => x.1 != i
      testing := [] } }

/-- An address below the end of the deep-store range. -/
def isDeep (a : Nat) : Bool := decide (a < deepEnd)

/-- A transaction is a piece of the load on which its thread is parked. -/
def State.ofParkedLoad (s : State) (x : Txn) : Bool :=
  match x.m with
  | .core t =>
    x.isRead && !x.covered && (match (s.thread t).park with
      | some (.load addr _ _ sz _ _) => decide (addr.toNat ≤ x.addr.toNat ∧ x.addr.toNat < addr.toNat + szBytes sz)
      | _ => false)
  | _ => false

/-- R238 step 2: the outstanding transactions have drained, parked loads that still wait to enter among them. Choices: log
entry 34. -/
def State.deepDrained (s : State) : Bool :=
  !(s.matrix.flight.any fun x => x.isDeep) && !s.matrix.waiting.any fun x => x.isDeep && s.ofParkedLoad x

/-- R238 step 4: a window that reaches above TOP is disabled with DROPPED set; every other enabled one is zeroed. -/
def State.remapWindow (s : State) (n : Nat) : State :=
  let off := 0x100 + 8 * n
  match s.window n with
  | none => s
  | some (b, z) =>
    if s.deepSize < b + z then ((s.setFlagOf 0x10 off 48 false).setFlagOf 0x10 off 50 false).setFlagOf 0x10 off 51 true
    else s.setFlagOf 0x10 off 50 true

/-- OUTAGE_REMAP: once the outstanding transactions have drained, the new map is built and recorded; the content is
lost and the windows are dropped or zeroed. Choices: log entry 34. -/
def execOutageRemap (s : State) : Host.Outcome State Fault Refusal :=
  if s.dram.outage != 1 || !s.deepDrained then .next s
  else
    let lost := s.dram.lostNow
    let s := { s with dram := { s.dram.lose with outage := 2, lostNow := [] } }
    let s := s.buildMap
    let s := lost.foldl (fun (s : State) (i : Fin 32) => s.note 0x0106 [i.val, s.slots]) s
    .next ((List.range 16).foldl (fun (s : State) n => s.remapWindow n) s)

/-! ### Training and link integrity (R214, R217 to R219) -/

/-- R214: the highest DS_CTRL.RATE of the order code. -/
def State.maxRate (s : State) : Nat := if s.fuses.speed20 then 6 else 2

/-- R214: RETRAIN = 1: every interface in service trains again; accesses wait meanwhile. -/
def State.retrainAll (s : State) : State :=
  ifaces.foldl (fun (s : State) i => if s.trained i then s.setFlagOf (dsBlk i) 0x08 1 false else s) s

/-- TRAINING_COMPLETE: interface `i` is trained, or lost after three failures. Choices: log entry 34. -/
def execTrainingComplete (i : Fin 32) (ok : Bool) (s : State) : Host.Outcome State Fault Refusal :=
  if !s.dieOn || s.trained i || s.lostIf i then .next s
  else if ok then .next (s.setFlagOf (dsBlk i) 0x08 1 true)
  else .next (s.loseInterface i)

/-- R218: the re-centring of a channel may start: its interface is trained, a REFpb is the last command issued on the
channel, the other channel is not being re-centred, and no full retrain of the channel runs. -/
def State.mayRecentre (s : State) (i : Fin 32) (ch : Fin 2) : Bool :=
  s.dieOn && s.trained i && s.dram.refreshed.contains (i, ch) && !(s.dram.recentring.any fun x => x.1 == i)
    && !s.dram.retraining.contains (i, ch)

/-- RECENTRING: the re-centring of a channel of a trained interface starts, or ends where it is under way; it changes no
content, and the channel's transactions wait meanwhile. Choices: log entry 34. -/
def execRecentring (i : Fin 32) (ch : Fin 2) (s : State) : Host.Outcome State Fault Refusal :=
  if s.dram.recentring.contains (i, ch) then .next { s with dram := { s.dram with recentring := s.dram.recentring.filter fun x => x != (i, ch) } }
  else if s.mayRecentre i ch then .next { s with dram := { s.dram with recentring := s.dram.recentring ++ [(i, ch)] } }
  else .next s

/-- R219: the channel was retrained less than 10 s ago. Choices: log entry 18. -/
def State.retrainedLately (s : State) (i : Fin 32) (ch : Fin 2) : Bool :=
  s.dram.retrained.any fun x => x.1 == i && x.2.1 == ch && decide (s.power.uptimeMs ≤ x.2.2 + 10000)

/-- R219: a full retrain of a channel becomes necessary: it starts, or a second one within 10 s loses the interface.
Choices: log entry 34. -/
def State.startRetrain (s : State) (i : Fin 32) (ch : Fin 2) : State :=
  if s.retrainedLately i ch then s.loseInterface i
  else
    let b := dsBlk i
    let s := ((s.setFlagOf b 0x08 3 true).setFlagOf b 0x08 5 true).countOf b 0x18 48 8 1
    { s with dram := { s.dram with
        retraining := s.dram.retraining ++ [(i, ch)]
        retrained := (s.dram.retrained.filter fun x => !(x.1 == i && x.2.1 == ch)) ++ [(i, ch, s.power.uptimeMs)] } }

/-- EDC_RETRY: retry `attempt` of a burst; a failed third retry, or 16 bursts within 1 ms, retrains the channel.
Choices: log entry 34. -/
def execEdcRetry (i : Fin 32) (ch : Fin 2) (attempt : Fin 3) (ok : Bool) (sixteen : Bool) (s : State) : Host.Outcome State Fault Refusal :=
  if !s.dieOn || !s.trained i || s.dram.retraining.contains (i, ch) then .next s
  else
    let s := s.countOf (dsBlk i) 0x18 32 16 1
    .next (if (attempt = 2 ∧ !ok) ∨ sixteen then s.startRetrain i ch else s)

/-- RETRAIN_COMPLETE: a full retrain of a channel ends, or fails and loses the interface. -/
def execRetrainComplete (i : Fin 32) (ch : Fin 2) (ok : Bool) (s : State) : Host.Outcome State Fault Refusal :=
  if !s.dram.retraining.contains (i, ch) then .next s
  else if ok then
    let left := s.dram.retraining.filter fun x => x != (i, ch)
    let s := { s with dram := { s.dram with retraining := left } }
    .next (s.setFlagOf (dsBlk i) 0x08 3 (left.any fun x => x.1 == i))
  else .next (s.loseInterface i)

/-- DRAM_TEMPERATURE_READ: the reading sets HOT above 85 degrees C. -/
def execDramTemperatureRead (i : Fin 32) (celsius : Int) (s : State) : Host.Outcome State Fault Refusal :=
  if s.dieOn && s.trained i then .next (s.setFlagOf (dsBlk i) 0x08 4 (decide (85 < celsius))) else .next s

/-! ### Grants (R230, R231) -/

/-- No grant has been given yet. -/
def noGrant : Grant := ⟨none, 0, 0, 0, none⟩

/-- The grant of interface `i`. -/
def State.dsGrant (s : State) (i : Fin 32) : Grant := Sparse.get noGrant s.dram.grants i.val
/-- The state with that grant replaced. -/
def State.setDsGrant (s : State) (i : Fin 32) (g : Grant) : State :=
  { s with dram := { s.dram with grants := Sparse.set noGrant s.dram.grants i.val g } }

/-- R226: `y` is a transaction that the window logic makes for data transaction `x`. -/
def companionOf (x y : Txn) : Bool := y.aux.isSome && x.aux.isNone && y.no == x.no && y.addr == x.addr && y.m == x.m

/-- R225, R226: the window logic still keeps a transaction from its interface: its window is busy, its check read or merge
read is under way, or, for a check write, its data write is. In an outage nothing is kept (R238). Choices: log entry 66. -/
def State.inWindowLogic (s : State) (x : Txn) : Bool :=
  let busy := match s.txnPlace x with
    | .windowed n _ _ => s.flagOf 0x10 (0x100 + 8 * n) 50
    | _ => false
  s.dram.outage == 0 &&
    (busy || s.matrix.flight.any (fun y => companionOf x y && y.isRead)
      || (!x.isRead && s.matrix.flight.any fun y => companionOf y x))

/-- The requests that stand before interface `i`. -/
def State.deepRequests (s : State) (i : Fin 32) : List Txn :=
  s.matrix.flight.filter fun x => x.isDeep && s.txnTarget x == i.val && !s.inWindowLogic x

/-- R214, R218, R219, R235: a request waits at its interface, at the fence or for its channel. In an outage nothing waits
(R238). -/
def State.deepWaits (s : State) (x : Txn) : Bool := s.dram.outage == 0 && s.granuleWaits (s.txnRaw x)

/-- R230: the requests that interface `i` can serve: of each master the first, in its order, if it does not wait. -/
def State.deepReady (s : State) (i : Fin 32) : List Txn :=
  let all := s.deepRequests i
  all.filter fun x => firstOfMaster all x && s.inTurn x && !s.deepWaits x

/-- R231: whether the running grant of interface `i` is of QoS 0 to 11. -/
def State.bulkGrantRuns (s : State) (i : Fin 32) : Bool :=
  let g := s.dsGrant i
  grantGoesOn g (s.deepReady i) && decide (g.qos.toNat < 12)

/-! ### Refresh (R229, R231) -/

/-- Refreshes that bank `pb` owes. -/
def State.owedBy (s : State) (pb : Nat) : Nat := Sparse.get 0 s.dram.owed pb
/-- The state with that debt replaced. -/
def State.setOwed (s : State) (pb n : Nat) : State := { s with dram := { s.dram with owed := Sparse.set 0 s.dram.owed pb n } }

/-- R218: a REFpb is the last command on the channel of bank `pb`. -/
def Dram.refreshOn (d : Dram) (pb : Nat) : Dram :=
  { d with refreshed := (d.refreshed.filter fun x => x != (ifaceOf pb, channelOf pb)) ++ [(ifaceOf pb, channelOf pb)] }

/-- R229: bank `pb` owes the given number of refreshes after a REFpb. -/
def State.refreshBank (s : State) (pb n : Nat) : State :=
  { s.setOwed pb n with dram := ((s.setOwed pb n).dram).refreshOn pb }

/-- R229, R231: the emergency refreshes of interface `i` are issued where that is permitted; each debt is 7 again.
Choices: log entry 34. -/
def State.emergency (s : State) (i : Fin 32) : State :=
  if s.bulkGrantRuns i then s
  else
    (((List.range 32).map fun k => 32 * i.val + k).filter fun pb => decide (7 < s.owedBy pb)).foldl
      (fun (s : State) pb => s.refreshBank pb 7) s

/-- REFRESH_OWED: bank `pb` becomes owed one more refresh; a retrain stops no refresh (R219). Choices: log entry 34. -/
def execRefreshOwed (pb : Fin 1024) (s : State) : Host.Outcome State Fault Refusal :=
  if s.dieOn && !s.lostIf (ifaceOf pb.val) then
    .next ((s.setOwed pb.val (s.owedBy pb.val + 1)).emergency (ifaceOf pb.val))
  else .next s

/-- R229: a request is queued for bank `pb`, of data or of a check granule. -/
def State.bankAsked (s : State) (pb : Nat) : Bool :=
  s.matrix.flight.any fun x => x.isDeep && s.bankOf (s.txnRaw x) == pb

/-- REFRESH_ISSUE: an owed refresh is issued while the bank has no queued request. -/
def execRefreshIssue (pb : Fin 1024) (s : State) : Host.Outcome State Fault Refusal :=
  if s.dieOn && decide (0 < s.owedBy pb.val) && !s.bankAsked pb.val then .next (s.refreshBank pb.val (s.owedBy pb.val - 1))
  else .next s

/-! ### Serving (R220, R226, R228) -/

/-- The stored bits of the word that transaction `x` first addresses disturbed. -/
def State.deepUpset (s : State) (x : Txn) (u : BitVec 72) : State :=
  if u = 0 then s
  else
    let data (raw : Nat) : Dram := s.dram.setBytes raw (leBytes 8 (leNat (s.deepBytes raw 8) ^^^ (u.toNat % 2 ^ 64)))
    match (s.txnPlace x).word (wordAt x.addr.toNat) with
    | .raw raw => { s with dram := data raw }
    | .windowed _ raw check =>
      { s with dram := (data raw).setByte check (s.dram.byte check ^^^ BitVec.ofNat 8 (u.toNat / 2 ^ 64)) }
    | .checkRange => s

/-- R295: bytes of the load on which thread `t` is parked come back. -/
def Thread.deposit (th : Thread) (a : Nat) (bs : List Byte) : Thread :=
  match th.park with
  | some (.load addr signed rt sz fwd got) =>
    let new := (pairBytes a bs).filter fun c =>
      decide (addr.toNat ≤ c.1 ∧ c.1 < addr.toNat + szBytes sz) && !got.any fun d => d.1 == c.1
    { th with park := some (.load addr signed rt sz fwd (got ++ new)) }
  | _ => th
where
  /-- Bytes with their addresses. -/
  pairBytes (a : Nat) (bs : List Byte) : List (Nat × Byte) :=
    match bs with
    | [] => []
    | b :: rest => (a, b) :: pairBytes (a + 1) rest

/-- R282: the response of a covered transaction is discarded and counted; another one reaches its master. -/
def State.respond (s : State) (x : Txn) (bs : List Byte) : State :=
  if x.covered then s.countOf 0x04 0x10 32 32 1
  else
    match x.acc, x.m with
    | .read _, .core t => { s.setThread t ((s.thread t).deposit x.addr.toNat bs) with readData := bs }
    | .read _, _ => { s with readData := bs }
    | .write _, _ => s

/-- The pieces of the access that `x` is a piece of leave the matrix. -/
def State.dropAccess (s : State) (x : Txn) : State :=
  let other (y : Txn) : Bool := !(y.m == x.m && y.no == x.no)
  { s with matrix := { s.matrix with waiting := s.matrix.waiting.filter other, flight := s.matrix.flight.filter other } }

/-- R238, R355: in an outage a transaction completes without data. A store of a core is lost as a whole, with one machine
check at its address; a parked load raises its exception. Choices: log entry 34. -/
def State.completeLost (s : State) (x : Txn) : State :=
  match x.m, x.acc with
  | .core t, .write _ => if x.covered then s else (s.dropAccess x).machineCheck (.thread t) 0x18 x.base.toNat
  | .core t, .read _ => if s.ofParkedLoad x then (s.dropAccess x).syncException t ⟨0x03, 6, x.addr.toNat⟩ else s
  | _, _ => s

/-- A transaction leaves the matrix; waiting requests that it held back enter (R279). -/
def State.retireTxn (s : State) (rest : List Txn) : State :=
  { s with matrix := { s.matrix with flight := rest } }

/-- R225: the place of a word for a transaction: under the windows as they were when it entered. -/
def Txn.placeAt (x : Txn) (s : State) (w : Nat) : DeepPlace :=
  match x.place with
  | some p => p.word w
  | none => s.deepPlace w

/-- R220, R224, R226, R228: a deep-store transaction is performed; those of the window logic have no effect of their own. -/
def State.performDeep (s : State) (x : Txn) (upset : BitVec 72) : State :=
  if x.aux.isSome then s
  else if s.dram.outage ≠ 0 then s.completeLost x
  else
    let a := x.addr.toNat
    let s := s.deepUpset x upset
    match x.acc with
    | .read n =>
      let r := s.deepReadAt (s.requesterOf x.m) x.placeAt a n
      r.st.respond x r.bytes
    | .write bs => (s.deepWriteAt (s.requesterOf x.m) x.placeAt a bs).st.respond x []

/-- DEEP_STORE_GRANT: interface `i` serves one transaction under its grant; `upset` disturbs the word it first
addresses. Choices: log entry 58. -/
def execDeepStoreGrant (i : Fin 32) (upset : BitVec 72) (s : State) : Host.Outcome State Fault Refusal :=
  if !s.dieOn then .next s
  else
    let s := s.emergency i
    match serveGrant (s.dsGrant i) (s.reg (dsBlk i) 0x10) (s.deepReady i) with
    | none => .next s
    | some (x, g) =>
      match takeFirst (fun y => y == x) s.matrix.flight with
      | none => .next s
      | some (_, rest) =>
        let pb := s.bankOf (s.txnRaw x)
        let left := (takeFirst (fun y => y == x) (s.deepRequests i)).map fun r => r.2
        let s := (s.setDsGrant i (g.settle (left.getD []))).retireTxn rest
        let s := { s with dram := { s.dram with refreshed := s.dram.refreshed.filter fun c => c != (ifaceOf pb, channelOf pb) } }
        .next (s.performDeep x upset).promoteWaiting

/-! ### Windows (R223, R225) -/

/-- R225: window `n` with this content would overlap another enabled window. -/
def State.windowOverlaps (s : State) (n v : Nat) : Bool :=
  let b := field v 0 21 * 65536
  let z := field v 24 21 * 65536
  (List.range 16).any fun k =>
    k != n && (match s.window k with
      | some (b', z') => decide (b < b' + z' ∧ b' < b + z)
      | none => false)

/-- R225: the window may be enabled with this content. -/
def State.windowMayOpen (s : State) (n v : Nat) : Bool :=
  field v 24 21 != 0 && !s.windowOverlaps n v && decide ((field v 0 21 + field v 24 21) * 65536 ≤ s.deepSize)

/-- R225: zeroing stops: as much of the window as was reached is zero. Choices: log entries 5 and 35. -/
def State.stopZeroing (s : State) (n : Nat) : State :=
  match s.window n with
  | some (b, z) =>
    let k := min (Config.zeroedBytes s.fresh) z
    { s.bump with dram := s.dram.zeroRange b (b + k) }
  | none => s

/-- R225: a write to DS_WINn: `w` is what the field rules of R10 to R13 make of it, with INIT among its acts.
Choices: log entry 35. -/
def State.writeWindow (s : State) (n : Nat) (w : WriteResult) : State :=
  let off := 0x100 + 8 * n
  let old := s.reg 0x10 off
  let wasOn := bitOf old 48
  let moved := field old 0 45 != field w.new 0 45
  let body := if wasOn && moved then setField w.new 0 45 (field old 0 45) else w.new
  let opens := bitOf body 48 && !wasOn
  let refused := opens && !s.windowMayOpen n body
  let s := if wasOn && !bitOf body 48 && bitOf old 50 then s.stopZeroing n else s
  let new := if refused then setField body 48 1 0 else body
  let on := bitOf new 48
  let busy := on && (bitOf old 50 || bitOf w.acts 49)
  let s := s.setReg 0x10 off (setField new 50 1 (b2n busy))
  if w.err || (wasOn && moved) || refused then s.cfgerr 0x10 else s

/-- WINDOW_ZEROING_DONE: every granule of window `n` is zero and BUSY clears. Choices: log entry 35. -/
def execWindowZeroingDone (n : Fin 16) (s : State) : Host.Outcome State Fault Refusal :=
  let off := 0x100 + 8 * n.val
  if !s.flagOf 0x10 off 50 || s.dram.outage == 1 || !s.dieOn then .next s
  else
    match s.window n.val with
    | none => .next s
    | some (b, z) => .next ({ s with dram := s.dram.zeroRange b (b + z) }.setFlagOf 0x10 off 50 false)

end Sys2Proof.Machine
end

