-- ==== Sys2Proof/Machine/Links.lean ====
section
/-!
DEFINITION. The 128 links (R356 to R381): lock, frames on their routes, saddle routes, event rings, block 0, egress, link
failure, and the link-group reset.
-/

namespace Sys2Proof.Machine

/-! ### Link registers -/

/-- The link group of a device link. -/
def linkGroup (l : Fin 128) : Fin 16 := ⟨l.val / 8, by omega⟩
/-- The number of a device link within its group. -/
def linkNo (l : Fin 128) : Nat := l.val % 8
/-- Device link `k` of group `n`. -/
def linkOf (n : Fin 16) (k : Fin 8) : Fin 128 := ⟨8 * n.val + k.val, by omega⟩
/-- The 128 device links. -/
def deviceLinks : List (Fin 128) := List.finRange 128
/-- LG_LINKk of a device link. -/
def State.linkCfg (s : State) (l : Fin 128) : Nat := s.reg (lgBlk (linkGroup l)) (0x100 + 8 * linkNo l)
/-- RXMODE: 1 FLP, 2 ETH25, 3 LEG8. -/
def rxMode (cfg : Nat) : Nat := field cfg 0 3
/-- TXMODE: 1 FLP, 2 ETH25, 4 DEC. -/
def txMode (cfg : Nat) : Nat := field cfg 3 3
/-- M of a link. -/
def blocksPerPeriod (cfg : Nat) : Nat := field cfg 25 5
/-- EXPID of a link. -/
def expectedId (cfg : Nat) : Nat := field cfg 30 8
/-- SADDLE of a link. -/
def saddleRoute (cfg : Nat) : Nat := field cfg 39 2
/-- PAYLEN of a link. -/
def payLen (cfg : Nat) : Nat := field cfg 41 12
/-- The transmit side is locked to the bunch clock. -/
def lockedTx (cfg : Nat) : Bool := txMode cfg == 1 || txMode cfg == 4
/-- Offset of LG_LSTATk. -/
def lstatOff (l : Fin 128) : Nat := 0x180 + 8 * linkNo l
/-- LOCK. -/
def State.linkLocked (s : State) (l : Fin 128) : Bool := s.flagOf (lgBlk (linkGroup l)) (lstatOff l) 0
/-- FAILED. -/
def State.linkFailed (s : State) (l : Fin 128) : Bool := s.flagOf (lgBlk (linkGroup l)) (lstatOff l) 1
/-- LINKEN of a link in COL_GRPn. -/
def State.linkEnabled (s : State) (l : Fin 128) : Bool := s.flagOf 0x08 (0x40 + 8 * (linkGroup l).val) (linkNo l)
/-- A count in LG_LSTATk: CRCERR at 16, FMTERR at 32. -/
def State.countLink (s : State) (l : Fin 128) (lo : Nat) (yes : Bool) : State :=
  if yes then s.countOf (lgBlk (linkGroup l)) (lstatOff l) lo 16 1 else s

/-! ### Col unit input (R363, R382) -/

/-- R384: the later of the crossing handed over last and this one. -/
def laterCrossing (seen : Option Word) (e : Word) : Option Word :=
  match seen with
  | none => some e
  | some x => some (if crossingDiff e.toNat x.toNat < 0 then x else e)

/-- R384: a crossing that the col path has evaluated already. -/
def State.evaluated (s : State) (e : Word) : Bool :=
  !s.col.waitMarker && decide (crossingDiff e.toNat s.col.next.toNat < 0)

/-- R363: a header is handed to the col unit, which keeps what contributes (R382) until the crossing is evaluated
(R386). Choices: log entry 17. -/
def State.handOver (s : State) (l : Fin 128) (f : Frame) (e : Word) : State :=
  if s.linkFailed l then s
  else
    let x := s.side l
    let s := s.setSide l { x with seen := laterCrossing x.seen e }
    if f.ftype ≠ 0 ∨ f.linkid.toNat ≠ expectedId (s.linkCfg l) ∨ !s.linkEnabled l ∨ !s.col.hasSection ∨ s.evaluated e then s
    else { s with col := { s.col with heads := s.col.heads ++ [(e, l, f.summary)] } }

/-! ### Saddle routes (R365 to R368, R250) -/

/-- Offset of LG_SADs. -/
def sadOff (sd : Fin 2) : Nat := 0x200 + 8 * sd.val
/-- The ridge whose saddle route `sd` of group `n` fills (R20). -/
def saddleRidge (n : Fin 16) (sd : Fin 2) : RidgeId := ⟨2 * n.val + sd.val, by omega⟩
/-- The other saddle bank. -/
def otherBank (b : Fin 2) : Fin 2 := ⟨1 - b.val, by omega⟩

/-- R367, R250: the bank being filled; a missing bank is never it. -/
def State.saddleCur (s : State) (n : Fin 16) (sd : Fin 2) : Fin 2 :=
  let cur : Fin 2 := ⟨s.fieldOf (lgBlk n) (sadOff sd) 29 1 % 2, by omega⟩
  if s.saddleLost (saddleRidge n sd) cur then otherBank cur else cur

/-- FULL0 or FULL1. -/
def State.saddleFull (s : State) (n : Fin 16) (sd b : Fin 2) : Bool := s.flagOf (lgBlk n) (sadOff sd) (27 + b.val)

/-- Bank `b` is present and released. -/
def State.saddleFree (s : State) (n : Fin 16) (sd b : Fin 2) : Bool :=
  !s.saddleLost (saddleRidge n sd) b && !s.saddleFull n sd b

/-- CUR and FILL of a route. -/
def State.setSaddle (s : State) (n : Fin 16) (sd cur : Fin 2) (fill : Nat) : State :=
  (s.setFieldOf (lgBlk n) (sadOff sd) 29 1 cur.val).setFieldOf (lgBlk n) (sadOff sd) 31 10 fill

/-- The route's event. -/
def State.postSaddle (s : State) (n : Fin 16) (sd : Fin 2) : State :=
  s.postEvent (s.fieldOf (lgBlk n) (sadOff sd) 0 9) (s.fieldOf (lgBlk n) (sadOff sd) 16 8)

/-- R368: the saddle lies in a region: its ridge is powered, not in retention, not offline and not being moved, and a
bank is left. -/
def State.saddleThere (s : State) (g : RidgeId) : Bool :=
  s.ledgeOn g && !(s.ridge g).offline && !(s.ridge g).moving && !(s.saddleLost g 0 && s.saddleLost g 1)

/-- R367: a bank with room for `w` words, if any: a full bank posts the event and the route goes on in the other one
if that is released. -/
def State.saddleRoom (s : State) (n : Fin 16) (sd : Fin 2) (w : Nat) : Option (Fin 2 × Nat) × State :=
  let cur := s.saddleCur n sd
  let other := otherBank cur
  let fill := s.fieldOf (lgBlk n) (sadOff sd) 31 10
  if !s.saddleFree n sd cur then
    (if s.saddleFree n sd other then (some (other, 0), s) else (none, s))
  else if fill + w ≤ 512 then (some (cur, fill), s)
  else
    let s := (s.setFlagOf (lgBlk n) (sadOff sd) (27 + cur.val) true).postSaddle n sd
    if s.saddleFree n sd other then (some (other, 0), s) else (none, s)

/-- R365: the words of a frame from address `a`: payload as far as it goes, and a tag word for each of the `w`
words; a word without payload has BAD. Choices: log entry 51. -/
def State.saddleWords (s : State) (a : Nat) (data : List Byte) (w : Nat) (tag16 : BitVec 16) (bad : Bool) : State :=
  let s := s.sramWrite .other a data
  (List.range w).foldl (fun (s : State) k =>
    s.setTagWord (a + 128 * k) ⟨tag16, true, bad || decide (data.length ≤ 128 * k)⟩) s

/-- R365, R367, R368: a frame on saddle route `sd`; `bad` marks every one of its words. Choices: log entry 51. -/
def State.saddleFrame (s : State) (n : Fin 16) (sd : Fin 2) (f : Frame) (e : Word) (pl : Nat) (bad : Bool) : State :=
  let g := saddleRidge n sd
  let w := (pl * 8 + 127) / 128
  let drop (s : State) : State := s.countOf (lgBlk n) (sadOff sd) 41 16 1
  if !s.saddleThere g then drop s
  else
    match s.saddleRoom n sd w with
    | (none, s) => drop s
    | (some (b, fill), s) =>
      let a := ledgeBase + g.val * 0x400000 + 0x200000 + b.val * 0x10000 + fill * 128
      let data := (f.payload.take pl).flatMap fun x => leBytes 8 x.toNat
      let s := (s.saddleWords a data w (e.setWidth 16) bad).setSaddle n sd b (fill + w)
      if s.flagOf (lgBlk n) (sadOff sd) 24 then s.postSaddle n sd else s

/-- R367, R250: a release of bank `b`: it acts on a full, present bank; the bank that is taken up again fills from its
start. -/
def State.releaseBank (s : State) (n : Fin 16) (sd b : Fin 2) : State :=
  if !s.saddleFull n sd b || s.saddleLost (saddleRidge n sd) b then s
  else
    let cur := s.saddleCur n sd
    let s := s.setFlagOf (lgBlk n) (sadOff sd) (27 + b.val) false
    if b = cur then s.setSaddle n sd cur 0
    else if s.saddleFull n sd cur then s.setSaddle n sd b 0
    else s

/-- R367: a write to LG_SADs; of two releases at once the bank other than the one being filled comes first. -/
def State.writeSad (s : State) (n : Fin 16) (sd : Fin 2) (w : WriteResult) : State :=
  let s := s.setReg (lgBlk n) (sadOff sd) w.new
  let rel (b : Fin 2) : Bool := bitOf w.acts (25 + b.val)
  let cur := s.saddleCur n sd
  let s := if rel (otherBank cur) then s.releaseBank n sd (otherBank cur) else s
  let s := if rel cur then s.releaseBank n sd cur else s
  if w.err then s.cfgerr (lgBlk n) else s

/-! ### Event rings (R369 to R371) -/

/-- R369: the ring's length in 32-byte units. -/
def State.ringUnits (s : State) (n : Fin 16) : Nat := 2 ^ (7 + s.fieldOf (lgBlk n) 0x220 0 5)
/-- The ring's base address. -/
def State.ringBase (s : State) (n : Fin 16) : Nat := s.fieldOf (lgBlk n) 0x220 12 36 * 4096
/-- EN of the ring. -/
def State.ringOn (s : State) (n : Fin 16) : Bool := s.flagOf (lgBlk n) 0x220 5

/-- R369: the 32-byte header of a record. -/
def ringHeader (tag : Word) (len link status : Nat) (summary seq : BitVec 32) : List Byte :=
  leBytes 8 tag.toNat ++ leBytes 4 len ++ leBytes 1 link ++ leBytes 1 status ++ leBytes 2 0 ++ leBytes 4 summary.toNat
    ++ leBytes 4 seq.toNat ++ leBytes 8 0

/-- Every byte from `a` lies in the deep store. -/
def State.allDeep (s : State) (a n : Nat) : Bool := (wordsOf a n).all fun w => s.region w == .deep

/-- R370: a record of `u` units at write position `wp`: its place and the units it uses with a wrap marker, if they leave a
unit free before `rp`. -/
def ringPlace (t wp rp u : Nat) : Option (Nat × Nat) :=
  let gap := if rp = wp then t else (rp + t - wp) % t
  let wraps := t < wp + u
  let used := if wraps then t - wp + u else u
  if u < t ∧ used < gap then some (if wraps then 0 else wp, used) else none

/-- R218, R219, R225, R235: a write of a ring record has to wait. -/
def State.ringHeld (s : State) (writes : List (Nat × List Byte)) : Bool := writes.any fun w => s.deepHeld w.1 w.2.length

/-- The writes of a ring record, in order. -/
def State.ringWrites (s : State) (writes : List (Nat × List Byte)) : State :=
  writes.foldl (fun (s : State) w => (s.deepWrite .other w.1 w.2).st) s

/-- R369, R370: a record for link `k` on the ring of group `n`; WP follows when its writes are acknowledged.
Choices: log entries 7, 35 and 51. -/
def State.ringFrame (s : State) (n : Fin 16) (k : Nat) (data : List Byte) (status : Nat) (tag : Word)
    (summary : BitVec 32) : State :=
  let g := s.group n
  let t := s.ringUnits n
  let u := 1 + (data.length + 31) / 32
  let base := s.ringBase n
  let drop := s.countOf (lgBlk n) 0x228 32 16 1
  if !s.ringOn n || s.dram.outage != 0 then drop
  else
    match ringPlace t g.ringW (s.fieldOf (lgBlk n) 0x230 0 32) u with
    | none => drop
    | some (pos, _) =>
      if !s.allDeep (base + 32 * pos) (32 * u) || !s.allDeep (base + 32 * g.ringW) 32 then drop
      else
        let marker := ringHeader 0 0 0 8 0 0
        let pad := (List.range (32 * (u - 1) - data.length)).map fun j => Config.ringPadding s.fresh j
        let header := ringHeader tag data.length k status summary g.ringSeq
        let record := (base + 32 * pos, header ++ data ++ pad)
        let writes := if pos = g.ringW then [record] else [(base + 32 * g.ringW, marker), record]
        let held := s.ringHeld writes
        let s := (if held then s else s.ringWrites writes).bump
        s.setGroup n { g with
          ringW := (pos + u) % t
          ringSeq := g.ringSeq + 1
          ringPend := g.ringPend ++ [⟨(pos + u) % t, if held then writes else []⟩] }

/-- RING_WP_ADVANCE: the writes of the oldest record are acknowledged: WP passes it and the event is posted. Writes that
waited for the deep store are made first; a write that meets an outage is never acknowledged. Choices: log entries 35
and 51. -/
def execRingWpAdvance (n : Fin 16) (s : State) : Host.Outcome State Fault Refusal :=
  let g := s.group n
  match g.ringPend with
  | [] => .next s
  | x :: rest =>
    if !x.writes.isEmpty && (s.ringHeld x.writes || s.dram.outage != 0) then .next s
    else
      let s := ((s.ringWrites x.writes).setGroup n { g with ringPend := rest }).setFieldOf (lgBlk n) 0x228 0 32 x.wp
      .next (if s.flagOf (lgBlk n) 0x230 56 then
        s.postEvent (s.fieldOf (lgBlk n) 0x230 32 9) (s.fieldOf (lgBlk n) 0x230 48 8) else s)

/-- WP, RP and SEQ zero, nothing on the way. -/
def State.clearRing (s : State) (n : Fin 16) : State :=
  let s := (s.setFieldOf (lgBlk n) 0x228 0 32 0).setFieldOf (lgBlk n) 0x230 0 32 0
  s.setGroup n { s.group n with ringW := 0, ringSeq := 0, ringPend := [] }

/-- The ring would reach above the top of the usable deep store. -/
def State.ringAbove (s : State) (v : Nat) : Bool := decide (s.deepSize < field v 12 36 * 4096 + 2 ^ (12 + field v 0 5))

/-- R371: a write to LG_RINGCTL. -/
def State.writeRingCtl (s : State) (n : Fin 16) (w : WriteResult) : State :=
  let old := s.reg (lgBlk n) 0x220
  let wasOn := bitOf old 5
  let moved := wasOn && (field old 0 5 != field w.new 0 5 || field old 12 36 != field w.new 12 36)
  let body := if moved then setField (setField w.new 0 5 (field old 0 5)) 12 36 (field old 12 36) else w.new
  let opens := bitOf body 5 && !wasOn
  let refused := opens && s.ringAbove body
  let s := s.setReg (lgBlk n) 0x220 (if refused then setField body 5 1 0 else body)
  let s := if opens && !refused then s.clearRing n else s
  if w.err || moved || refused then s.cfgerr (lgBlk n) else s

/-- R370, R13: a write to LG_RINGRP; an RP outside the ring is a reserved encoding; `low`: the write covers RP. -/
def State.writeRingRp (s : State) (n : Fin 16) (low : Bool) (w : WriteResult) : State :=
  let outside := low && decide (s.ringUnits n ≤ field w.new 0 32)
  let new := if outside then setField w.new 0 32 (s.fieldOf (lgBlk n) 0x230 0 32) else w.new
  let s := s.setReg (lgBlk n) 0x230 new
  if w.err || outside then s.cfgerr (lgBlk n) else s

/-- R371: the end of an outage: every ring is empty and LOST, and one that reaches above TOP is switched off. -/
def State.outageRings (s : State) : State :=
  (List.finRange 16).foldl (fun (s : State) n =>
    let s := (s.clearRing n).setFlagOf (lgBlk n) 0x228 48 true
    if s.ringAbove (s.reg (lgBlk n) 0x220) then s.setFlagOf (lgBlk n) 0x220 5 false else s) s

/-- OUTAGE_END: accesses resume under the new map (R238 step 5, R371). -/
def execOutageEnd (s : State) : Host.Outcome State Fault Refusal :=
  if s.dram.outage = 2 then .next ({ s with dram := { s.dram with outage := 0 } }.outageRings) else .next s

/-! ### Lock (R359, R361) -/

/-- R359: among the sync headers `xs` (true: valid), 64 valid ones follow each other; `n` came just before. -/
def locksOn (n : Nat) (xs : List Bool) : Bool :=
  match xs with
  | [] => decide (64 ≤ n)
  | x :: rest => decide (64 ≤ n) || locksOn (if x then n + 1 else 0) rest

/-- R359, R361: 16 invalid ones within a window of 64; `c` of the window came before, `b` of them invalid. -/
def losesLock (c b : Nat) (xs : List Bool) : Bool :=
  match xs with
  | [] => decide (16 ≤ b)
  | x :: rest =>
    if 16 ≤ b then true
    else if c = 64 then losesLock 1 (b2n !x) rest
    else losesLock (c + 1) (b + b2n !x) rest

/-- The sync headers or code groups of what a link in receive mode `mode` takes: whether each is valid. -/
def rxValid (rx : Received) : List Bool :=
  match rx with
  | .blocks xs => xs.map fun b => b.sync == 1 || b.sync == 2
  | .groups xs => xs.map fun c => c != .invalid

/-- What a receive side in mode `mode` takes: code groups in LEG8, blocks in the other modes. -/
def rxFits (rx : Received) (mode : Nat) : Bool :=
  match rx with
  | .blocks _ => mode == 1 || mode == 2
  | .groups _ => mode == 3

/-- R359, R361: `rx` gives lock: 64 consecutive valid sync headers, or K28.5 for LEG8. Choices: log entry 16. -/
def rxLocks (rx : Received) : Bool :=
  match rx with
  | .blocks _ => locksOn 0 (rxValid rx)
  | .groups xs => xs.contains (.control 0xBC)

/-! ### Deframing (R358, R361) -/

/-- The bytes of a block, the one sent first first. -/
def blockBytes (b : Block66) : List Byte := leBytes 8 b.bits.toNat
/-- R358: a header block: type 0x78. -/
def isHeader (b : Block66) : Bool := b.sync == 2 && leAt (blockBytes b) 0 1 == 0x78
/-- R358: a data block. -/
def isDataBlock (b : Block66) : Bool := b.sync == 1
/-- R358: a trailer block: type 0xCC, its control characters idle. -/
def isTrailer (b : Block66) : Bool := b.sync == 2 && leAt (blockBytes b) 0 1 == 0xCC && leAt (blockBytes b) 5 3 == 0

/-- The whole 8-byte words of `bs`. -/
def wholeWords (bs : List Byte) : List Word := (List.range (bs.length / 8)).map fun i => BitVec.ofNat 64 (leAt bs (8 * i) 8)

/-- R358: the frame of the 7 header bytes `head` and the payload `body`; `crc` holds the CRC bytes that came, if any. -/
def frameOf (head body : List Byte) (crc : Option (List Byte)) (foreign : Bool) : Frame :=
  let h := leNat head
  { tag := BitVec.ofNat 12 h
    linkid := BitVec.ofNat 8 (field h 12 8)
    ftype := BitVec.ofNat 4 (field h 20 4)
    summary := BitVec.ofNat 32 (field h 24 32)
    payload := wholeWords body
    crcOk := crc == some (leBytes 4 (crc32c (head ++ body)))
    foreign := foreign }

/-- R358, R360: the FLP frame that blocks spell from its header block on, and whether it has ended: at its trailer, or at
a block that is neither data nor trailer. -/
def flpDeframe (blocks : List Block66) : Option (Frame × Bool) :=
  match blocks with
  | [] => none
  | h :: rest =>
    if !isHeader h then none
    else
      let data := rest.takeWhile isDataBlock
      let head := (blockBytes h).drop 1
      let body := data.flatMap blockBytes
      match rest.drop data.length with
      | [] => some (frameOf head body none false, false)
      | t :: _ => some (frameOf head body (if isTrailer t then some (slice (blockBytes t) 1 4) else none) (!isTrailer t), true)

/-- The byte of a data code group. -/
def groupByte (c : CodeGroup) : Option Byte :=
  match c with
  | .data b => some b
  | _ => none

/-- R361, R360: the LEG8 frame that code groups spell from K27.7 on, and whether it has ended; none where no whole header
came. K29.7 that does not follow whole payload words and the CRC ends the frame as a foreign block does (DESIGN CHOICE,
log entry 16). -/
def leg8Deframe (groups : List CodeGroup) : Option (Frame × Bool) :=
  match groups with
  | .control 0xFB :: rest =>
    let bs := (rest.takeWhile fun c => (groupByte c).isSome).filterMap groupByte
    let head := bs.take 7
    let body := bs.drop 7
    let n := body.length - 4
    if bs.length < 7 then none
    else
      match rest.drop bs.length with
      | [] => some (frameOf head body none false, false)
      | t :: _ =>
        if t = .control 0xFD ∧ 4 ≤ body.length ∧ n % 8 = 0 then some (frameOf head (body.take n) (some (body.drop n)) false, true)
        else some (frameOf head body none true, true)
  | _ => none

/-- R359: the part of a frame that came before lock was lost. -/
def rxOpenFrame (rx : Received) : Option Frame :=
  match (match rx with
    | .blocks xs => flpDeframe xs
    | .groups xs => leg8Deframe xs) with
  | some (f, false) => some f
  | _ => none

/-! ### Frames (R360 to R364, R373) -/

/-- R358 to R365: a frame ends: it is handed over, checked and written to its routes; `cut` says that loss of lock
ended it, which is a CRC error and no error of length (DESIGN CHOICE, log entry 16). -/
def State.receiveFrame (s : State) (l : Fin 128) (f : Frame) (cut : Bool) : State :=
  let n := linkGroup l
  let cfg := s.linkCfg l
  let pl := payLen cfg
  let e := BitVec.ofNat 64 (extendTag 12 s.bxc f.tag.toNat)
  let headBad := f.ftype != 0 || f.linkid.toNat != expectedId cfg
  let foreign := f.foreign && !cut
  let crcBad := cut || (!f.crcOk && !f.foreign)
  let lenBad := pl != 0 && f.payload.length != pl && !cut
  let s := ((s.handOver l f e).countLink l 16 crcBad).countLink l 32 (headBad || foreign || lenBad)
  if headBad then s
  else
    let s := if saddleRoute cfg = 1 then s.saddleFrame n 0 f e pl (crcBad || foreign)
      else if saddleRoute cfg = 2 then s.saddleFrame n 1 f e pl (crcBad || foreign)
      else s
    if bitOf cfg 38 && !foreign then
      let blocks := f.payload.take (if pl = 0 then 2048 else pl)
      let status := b2n crcBad + 2 * b2n (decide (blocks.length < f.payload.length))
      s.ringFrame n (linkNo l) (blocks.flatMap fun x => leBytes 8 x.toNat) status e f.summary
    else s

/-- The receive side of a link runs in mode `mode` and has lock. -/
def State.receives (s : State) (l : Fin 128) (mode : Nat) : Bool := s.inRun && rxMode (s.linkCfg l) == mode && s.linkLocked l

/-- FLP_FRAME: an FLP frame is deframed, checked and written to its routes. -/
def execFlpFrame (l : Fin 128) (blocks : List Block66) (s : State) : Host.Outcome State Fault Refusal :=
  match flpDeframe blocks with
  | some (f, true) => .next (if s.receives l 1 then s.receiveFrame l f false else s)
  | _ => .next s

/-- LEG8_FRAME: a LEG8 frame is handled as an FLP frame; one without a whole header is a format error. Choices: log
entry 16. -/
def execLeg8Frame (l : Fin 128) (groups : List CodeGroup) (s : State) : Host.Outcome State Fault Refusal :=
  match leg8Deframe groups with
  | some (f, ended) => .next (if ended && s.receives l 3 then s.receiveFrame l f false else s)
  | none => .next (s.countLink l 32 (s.receives l 3 && groups.head? == some (.control 0xFB)))

/-- The Ethernet CRC-32, sent least significant byte first. Choices: log entry 60. -/
def ethernetFcs (bs : List Byte) : List Byte := leBytes 4 ((bs.foldl (crcByte 0xEDB88320) 0xFFFFFFFF) ^^^ 0xFFFFFFFF)

/-- ETH25_FRAME: an Ethernet frame, FCS included, becomes an untagged ring record; pause frames are discarded. Choices:
log entry 51. -/
def execEth25Frame (l : Fin 128) (bytes : List (BitVec 8)) (fecBad : Bool) (s : State) : Host.Outcome State Fault Refusal :=
  let data := bytes.take (bytes.length - 4)
  let bad := fecBad || bytes.drop (bytes.length - 4) != ethernetFcs data
  if !s.receives l 2 || beNat (slice data 12 2) = 0x8808 then .next s
  else
    let s := s.countLink l 16 bad
    if bitOf (s.linkCfg l) 38 then
      .next (s.ringFrame (linkGroup l) (linkNo l) (data.take 9596)
        (b2n bad + 2 * b2n (decide (9596 < data.length)) + 4) 0 0)
    else .next s

/-- BLOCK_LOCK: what a receive side takes gives it lock. -/
def execBlockLock (x : LinkInput) (s : State) : Host.Outcome State Fault Refusal :=
  if s.inRun && rxFits x.rx (rxMode (s.linkCfg x.link)) && rxLocks x.rx then
    .next (s.setFlagOf (lgBlk (linkGroup x.link)) (lstatOff x.link) 0 true)
  else .next s

/-- LOCK_LOSS: what a locked receive side takes loses its lock; an open frame ends as a CRC error. Choices: log entry
16. -/
def execLockLoss (x : LinkInput) (openFrame : Received) (s : State) : Host.Outcome State Fault Refusal :=
  let l := x.link
  let mode := rxMode (s.linkCfg l)
  if !s.linkLocked l || !rxFits x.rx mode || !losesLock 0 0 (rxValid x.rx) then .next s
  else
    let s := match rxOpenFrame openFrame with
      | some f => if mode = 2 || !rxFits openFrame mode then s else s.receiveFrame l f true
      | none => s
    .next (s.setFlagOf (lgBlk (linkGroup l)) (lstatOff l) 0 false)

/-! ### Failure (R380) and transmit range (R357) -/

/-- LINK_FAILURE: FAILED and FAIL_SEEN, the record, event 0xC0 + n to the SMC, and DEAD flags due. -/
def execLinkFailure (l : Fin 128) (s : State) : Host.Outcome State Fault Refusal :=
  let b := lgBlk (linkGroup l)
  if !s.inRun || rxMode (s.linkCfg l) = 0 || s.linkFailed l then .next s
  else
    let s := (s.setFlagOf b (lstatOff l) 1 true).setFlagOf b (lstatOff l) 2 true
    let s := (s.note 0x0003 [l.val]).postEvent 256 (0xC0 + (linkGroup l).val)
    .next (s.setSide l { s.side l with deadDue := true })

/-- LINK_FAIL_CLEAR: FAILED clears after unbroken lock. -/
def execLinkFailClear (l : Fin 128) (s : State) : Host.Outcome State Fault Refusal :=
  if s.linkFailed l && s.linkLocked l then .next (s.setFlagOf (lgBlk (linkGroup l)) (lstatOff l) 1 false) else .next s

/-- R259, R257: the SMC sets DEAD (bit 54) of channel-table entry `c`, atomically. -/
def State.markDead (s : State) (c : Nat) : State :=
  s.mergeWord .other (ctBase + 8 * c) fun old => leBytes 8 (setField (leNat old) 54 1 1)

/-- LINK_DEAD_MARKING: DEAD in the entries CHBASE to CHBASE + CHCOUNT - 1. -/
def execLinkDeadMarking (l : Fin 128) (s : State) : Host.Outcome State Fault Refusal :=
  if !(s.side l).deadDue || !s.dieOn then .next s
  else
    let chan := s.reg (lgBlk (linkGroup l)) (0x140 + 8 * linkNo l)
    let s := s.setSide l { s.side l with deadDue := false }
    .next ((List.range (field chan 21 22)).foldl (fun (s : State) k => s.markDead (field chan 0 21 + k)) s)

/-- R357: 66 x M x f_BCLK lies within 1.25 to 28.125 Gb/s, at `khz` kHz. -/
def txInRange (cfg khz : Nat) : Bool :=
  decide (1250000 ≤ 66 * blocksPerPeriod cfg * khz ∧ 66 * blocksPerPeriod cfg * khz ≤ 28125000)

/-- R357: a transmit side goes to electrical idle, or sends again. -/
def State.setTxRange (s : State) (l : Fin 128) (out : Bool) : State :=
  (s.setFlagOf (lgBlk (linkGroup l)) (lstatOff l) 3 out).setSide l { s.side l with electricalIdle := out }

/-- There is no bunch clock (R400). -/
def State.noClock (s : State) : Bool := s.flagOf 0x07 0x08 4

/-- TXRANGE: the locked rate leaves the range or returns to it. -/
def execTxrange (l : Fin 128) (khz : Nat) (s : State) : Host.Outcome State Fault Refusal :=
  let cfg := s.linkCfg l
  if s.inRun && lockedTx cfg && !s.noClock then .next (s.setTxRange l !(txInRange cfg khz)) else .next s

/-! ### Block 0 and DEC slots (R374, R375, R387) -/

/-- R390: the col path is quiet. -/
def State.colQuiet (s : State) : Bool := s.col.waitMarker || !s.col.hasSection

/-- R374: the data bits of a block 0. -/
def block0Bits (x : Word × Byte) : BitVec 24 := BitVec.ofNat 24 (x.1.toNat % 4096 + x.2.toNat * 4096)

/-- R393, R395: what slot `j` of DEC link `l` carries in the present period. Choices: log entry 55. -/
def State.decSlot (s : State) (l : Fin 128) (j : Nat) : SlotOut :=
  let q := (List.finRange 16).find? fun q =>
    let v := s.reg 0x09 (0x100 + 8 * q.val)
    bitOf v 0 && field v 30 7 == l.val && field v 37 5 == j
  match q with
  | some q => if (s.alnQueue q).released = some (BitVec.ofNat 64 s.bxc) then (s.alnQueue q).slot else .idle
  | none => .idle

/-- BLOCK0_TRANSMIT: one bunch period of a locked transmit side: block 0 with the lowest crossing not yet sent, else
the last one again, and the DEC slots; only idle blocks while the col path is quiet. Choices: log entry 7. -/
def execBlock0Transmit (l : Fin 128) (s : State) : Host.Outcome State Fault Refusal :=
  let cfg := s.linkCfg l
  let m := blocksPerPeriod cfg
  let x := s.side l
  if !s.inRun || !lockedTx cfg || s.noClock || x.electricalIdle then .next s
  else if s.colQuiet then .next (s.setSide l { x with block0 := none, slots := List.replicate (m - 1) .idle })
  else
    let slots := if txMode cfg = 4 then (List.range (m - 1)).map fun j => s.decSlot l (j + 1) else List.replicate (m - 1) .idle
    match x.unsent, x.last with
    | c :: rest, _ => .next (s.setSide l { x with unsent := rest, last := some c, block0 := some (block0Bits c), slots := slots })
    | [], some c => .next (s.setSide l { x with block0 := some (block0Bits c), slots := slots })
    | [], none =>
      .next (s.bump.setSide l { x with block0 := some ((Config.blockZero s.fresh).setWidth 24), slots := slots })

/-! ### Egress (R376 to R379) -/

/-- R376: the number of command entries of the region. -/
def State.egCount (s : State) (n : Fin 16) : Nat := (2 ^ (12 + s.fieldOf (lgBlk n) 0x240 0 4) - 1024) / 32
/-- The region's base address. -/
def State.egBase (s : State) (n : Fin 16) : Nat := s.fieldOf (lgBlk n) 0x240 12 36 * 4096
/-- The address of command entry `i`. -/
def State.egEntryAddr (s : State) (n : Fin 16) (i : Nat) : Nat := s.egBase n + 1024 + 32 * i

/-- R368 of the egress engine: every byte lies in the usable deep store, outside an outage, or in a bulk that it
reaches. -/
def State.egReach (s : State) (n : Fin 16) (a len : Nat) : Bool :=
  s.allReach (.egress n) a len fun r =>
    match r with
    | .deep => s.dram.outage == 0
    | .ledge _ off => decide (off < 0x200000)
    | _ => false

/-- R377: what is wrong with an entry or its template: an out-of-range or a nonzero reserved field. Choices: log
entry 51. -/
def State.egInvalid (s : State) (n : Fin 16) (e tmpl : List Byte) : Bool :=
  let len := leAt e 8 4
  let link := leAt e 12 1
  decide (len = 0 ∨ 16777216 < len ∨ 7 < link ∨ 15 < leAt e 13 1 ∨ leAt e 14 1 / 2 ≠ 0 ∨ leAt e 28 4 ≠ 0)
    || txMode (s.linkCfg (linkOf n ⟨link % 8, by omega⟩)) != 2
    || decide (leAt tmpl 0x18 1 / 64 ≠ 0) || (slice tmpl 0x1A 38).any fun b => b != 0

/-- R379: a finished entry: its STATUS byte is written, RP passes it, and its event is posted. -/
def State.finishEntry (s : State) (n : Fin 16) (x : Egress) : State :=
  let a := s.egEntryAddr n x.idx + 0x0F
  let s := if s.egReach n a 1 then (s.memWrite .other a [x.status]).st else s
  let s := s.setFieldOf (lgBlk n) 0x248 16 16 ((x.idx + 1) % s.egCount n)
  if x.post then s.postEvent (s.fieldOf (lgBlk n) 0x248 49 9) (s.fieldOf (lgBlk n) 0x248 41 8) else s

/-- R379: entries finish in entry order; one whose STATUS write has to wait for the deep store holds those behind it. -/
def State.finishEntries (s : State) (n : Fin 16) (xs : List Egress) : State :=
  match xs with
  | [] => s.setGroup n { s.group n with eg := [] }
  | x :: rest =>
    if x.status = 0 ∨ s.deepHeld (s.egEntryAddr n x.idx + 0x0F) 1 then s.setGroup n { s.group n with eg := x :: rest }
    else (s.finishEntry n x).finishEntries n rest

/-- EGRESS_ENTRY: the engine takes the next command entry and validates it, when the deep store serves its reads.
Choices: log entries 35 and 51. -/
def execEgressEntry (n : Fin 16) (s : State) : Host.Outcome State Fault Refusal :=
  let g := s.group n
  let count := s.egCount n
  let i := g.egNext % count
  let a := s.egEntryAddr n i
  if !s.inRun || !s.flagOf (lgBlk n) 0x240 4 || i = s.fieldOf (lgBlk n) 0x248 0 16 || !s.egReach n a 32 then .next s
  else
    let r := s.memRead .other a 32
    let e := r.bytes
    let ta := s.egBase n + 64 * (leAt e 13 1 % 16)
    let tr := r.st.memRead .other ta 64
    if s.deepHeld a 32 || s.deepHeld ta 64 then .next s else
    let s := tr.st
    let bad := !s.egReach n ta 64 || s.egInvalid n e tr.bytes
    let x : Egress := {
      idx := i
      link := ⟨leAt e 12 1 % 8, by omega⟩
      addr := BitVec.ofNat 48 (leAt e 0 8)
      len := leAt e 8 4
      tmpl := tr.bytes
      post := bitOf (leAt e 14 1) 0
      tag := BitVec.ofNat 64 (leAt e 16 8)
      recid := BitVec.ofNat 32 (leAt e 24 4)
      sent := 0
      status := if bad then 3 else if leAt e 0 8 < 2 ^ 48 then 0 else 2 }
    let s := s.setGroup n { s.group n with egNext := (i + 1) % count }
    .next (s.finishEntries n (g.eg ++ [x]))

/-- One's complement sum of 16-bit big-endian words, folded. -/
def ipSum (bs : List Byte) : Nat :=
  let total := ((List.range (bs.length / 2)).map fun i => beNat (slice bs (2 * i) 2)).foldl (· + ·) 0
  let once := total % 65536 + total / 65536
  once % 65536 + once / 65536

/-- R376: an IPv4 header for `len` bytes of UDP datagram. -/
def ipHeader (tmpl : List Byte) (ident : BitVec 16) (len : Nat) : List Byte :=
  let head := beBytes 1 0x45 ++ beBytes 1 (leAt tmpl 0x18 1 * 4) ++ beBytes 2 (20 + len) ++ beBytes 2 ident.toNat
    ++ beBytes 2 0x4000 ++ slice tmpl 0x19 1 ++ beBytes 1 17
  let addrs := slice tmpl 0x0C 8
  head ++ beBytes 2 (65535 - ipSum (head ++ addrs)) ++ addrs

/-- R376, R378: the frame of one datagram with `data` from byte `x.sent` of the record. -/
def Egress.frame (x : Egress) (ident : BitVec 16) (data : List Byte) : List Byte :=
  let seg := leBytes 4 x.recid.toNat ++ leBytes 4 x.sent ++ leBytes 4 x.len ++ leBytes 4 x.tag.toNat
  let udpLen := 8 + 16 + data.length
  let body := slice x.tmpl 0 12 ++ beBytes 2 0x0800 ++ ipHeader x.tmpl ident udpLen ++ slice x.tmpl 0x14 4
    ++ beBytes 2 udpLen ++ beBytes 2 0 ++ seg ++ data
  body ++ ethernetFcs body

/-- The entries with the first unfinished one of link `k` replaced. -/
def replaceEntry (k : Fin 8) (y : Egress) (xs : List Egress) : List Egress :=
  match xs with
  | [] => []
  | x :: rest => if x.link = k ∧ x.status = 0 then y :: rest else x :: replaceEntry k y rest

/-- EGRESS_DATAGRAM: one datagram of the first unfinished entry of link `k` is read and sent, when the deep store serves
the read; a source read that faults ends the entry with STATUS 0x02, the last datagram with 0x01. Without such an entry,
entries that waited for their STATUS write finish. Choices: log entries 35 and 51. -/
def execEgressDatagram (n : Fin 16) (k : Fin 8) (s : State) : Host.Outcome State Fault Refusal :=
  let g := s.group n
  match g.eg.find? fun x => x.link == k && x.status == 0 with
  | none => .next (s.finishEntries n g.eg)
  | some x =>
    if !s.inRun || !s.flagOf (lgBlk n) 0x240 4 then .next s
    else
      let len := min (32 * s.fieldOf (lgBlk n) 0x248 32 9) (x.len - x.sent)
      let a := x.addr.toNat + x.sent
      let r := s.memRead .other a len
      if !s.egReach n a len then .next (s.finishEntries n (replaceEntry k { x with status := 2 } g.eg))
      else if s.deepHeld a len then .next s
      else if r.bad && decide (a < deepEnd) then .next (r.st.finishEntries n (replaceEntry k { x with status := 2 } g.eg))
      else
        let ident := g.ident[k]
        let y := { x with sent := x.sent + len, status := if x.sent + len < x.len then 0 else 1 }
        let s := r.st.setGroup n { g with
          ident := g.ident.set k.val (ident + 1) k.isLt
          lastDatagram := x.frame ident r.bytes }
        .next (s.finishEntries n (replaceEntry k y g.eg))

/-- R379, R13: a write to LG_EGPTR; a WP beyond the entries is a reserved encoding; `low`: the write covers WP. -/
def State.writeEgPtr (s : State) (n : Fin 16) (low : Bool) (w : WriteResult) : State :=
  let outside := low && decide (s.egCount n ≤ field w.new 0 16)
  let new := if outside then setField w.new 0 16 (s.fieldOf (lgBlk n) 0x248 0 16) else w.new
  let s := s.setReg (lgBlk n) 0x248 new
  if w.err || outside then s.cfgerr (lgBlk n) else s

/-! ### Link-group reset (R381) -/

/-- A key of block `blk` that a link-group reset returns to its reset value: not LG_CHANk, and LG_LINKk only in the
apply phase. -/
def groupResetKey (blk : Nat) (apply : Bool) (key : Nat) : Bool :=
  let off := key % 65536
  key / 65536 == blk && !decide (0x140 ≤ off ∧ off < 0x180) && (apply || !decide (0x100 ≤ off ∧ off < 0x140))

/-- R381: the tag words of a ridge's saddle become TV = 0, BAD = 0. -/
def State.clearSaddleTags (s : State) (g : RidgeId) : State :=
  let lo := ledgeBase + g.val * 0x400000
  let clear (t : Nat × TagWord) : Option (Nat × TagWord) :=
    if lo ≤ t.1 ∧ t.1 < lo + 0x400000 then
      (if t.2.tag16 = 0 then none else some (t.1, { t.2 with tv := false, bad := false }))
    else some t
  { s with sram := { s.sram with tags := s.sram.tags.filterMap clear } }

/-- R281, R381: a reset of link group `n`, in the apply phase or at power-down; its engines come under the sheet. -/
def State.resetGroup (s : State) (apply : Bool) (n : Fin 16) : State :=
  let s := s.resetRegs (groupResetKey (lgBlk n) apply)
  let s := ((s.setGroup n LinkGroup.reset).cover (.group n)).dropWaiting (.group n)
  let s := (List.finRange 8).foldl (fun (s : State) k => s.setSide (linkOf n k) LinkSide.reset) s
  (s.clearSaddleTags (saddleRidge n 0)).clearSaddleTags (saddleRidge n 1)

/-- R381: every link group. -/
def State.resetGroups (s : State) (apply : Bool) : State := (List.finRange 16).foldl (fun (s : State) n => s.resetGroup apply n) s

end Sys2Proof.Machine
end

