-- ==== Sys2Proof/Machine/ColAlign.lean ====
section
/-!
DEFINITION. The col path (R382 to R390) and the alignment queues (R391 to R399).
-/

namespace Sys2Proof.Machine

/-! ### Evaluation (R382 to R385) -/

/-- A sum of counts that saturates at 0xFFFF. -/
def satSum16 (xs : List Nat) : Nat := xs.foldl (fun acc x => min 0xFFFF (acc + x)) 0

/-- R382: the contribution of a header of link `l` under the present COL_LINKj. Choices: log entry 17. -/
def State.contribution (s : State) (l : Fin 128) (summary : BitVec 32) : Nat :=
  let cfg := s.reg 0x08 (0x200 + 8 * l.val)
  let v := field summary.toNat (field cfg 0 5) (field cfg 5 4 + 1)
  let x := min 0xFFFF (v * field cfg 16 8 / 16)
  if field cfg 32 16 < x then x else 0

/-- R383: G_n(E). -/
def State.groupSum (s : State) (e : Word) (n : Nat) : Nat :=
  satSum16 ((s.col.heads.filter fun h => h.1 == e && (linkGroup h.2.1).val == n).map fun h => s.contribution h.2.1 h.2.2)

/-- R383: bit j of group n's result, from the group sums of crossing E and the ones before it, newest first. -/
def State.resultBit (s : State) (sums : List (List Nat)) (n j : Nat) : Bool :=
  let win := s.fieldOf 0x08 (0x40 + 8 * n) 8 2
  let w := satSum16 ((sums.take (win + 1)).map fun g => nth 0 g n)
  decide (s.fieldOf 0x08 (0xC0 + 8 * n) (16 * j) 16 < w)

/-- R385: SEL(k, m). -/
def State.summitSel (s : State) (k m : Nat) : Nat := s.fieldOf 0x08 (0x600 + 0x10 * k + 8 * (m / 8)) (6 * (m % 8)) 6

/-- R385: the 8 decision bits from the 64 inputs. -/
def State.decide8 (s : State) (input : Nat → Bool) : Byte :=
  let entry (k : Nat) : Nat :=
    let x := (List.range 16).foldl (fun acc m => acc + b2n (input (s.summitSel k m)) * 2 ^ m) 0
    (Sparse.get 0 s.col.lut (65536 * k + x)).toNat
  BitVec.ofNat 8 (entry 0 + 4 * entry 1 + 16 * entry 2 + 64 * entry 3)

/-- R384: a link takes part in completion. -/
def State.takesPart (s : State) (l : Fin 128) : Bool := s.linkEnabled l && s.linkLocked l && !s.linkFailed l

/-- R384: every link that takes part has handed over a header for crossing `e` or a later one. -/
def State.crossingComplete (s : State) (e : Word) : Bool :=
  deviceLinks.all fun l =>
    !s.takesPart l || (match (s.side l).seen with
      | some x => decide (0 ≤ crossingDiff x.toNat e.toNat)
      | none => false)

/-- R387: an evaluated crossing waits on a transmit side; of five the oldest is skipped. -/
def State.holdCrossing (s : State) (l : Fin 128) (c : Word × Byte) : State :=
  if !lockedTx (s.linkCfg l) then s
  else
    let x := s.side l
    if x.unsent.length < 4 then s.setSide l { x with unsent := x.unsent ++ [c] }
    else (s.setSide l { x with unsent := x.unsent.drop 1 ++ [c] }).countOf 0x08 0x08 32 16 1

/-- R383 to R387: crossing NEXT is evaluated. -/
def State.evaluate (s : State) : State :=
  let e := s.col.next
  let sums := ((List.range 16).map (s.groupSum e) :: s.col.sums).take 4
  let d := s.decide8 fun i => s.resultBit sums (i / 4) (i % 4)
  let s := { s with col := { s.col with
    heads := s.col.heads.filter fun h => h.1 != e
    sums := sums
    next := e + 1 } }
  deviceLinks.foldl (fun (s : State) l => s.holdCrossing l (e, d)) s

/-- COL_EVALUATION: every group is complete for the next crossing, and BXC has reached it. -/
def execColEvaluation (s : State) : Host.Outcome State Fault Refusal :=
  if s.inRun && !s.colQuiet && decide (0 ≤ crossingDiff s.bxc s.col.next.toNat) && s.crossingComplete s.col.next then
    .next s.evaluate
  else .next s

/-- COL_DEADLINE: BXC reaches E + DEADLINE while some group is not complete for E; MISSED advances. A crossing that is
complete belongs to COL_EVALUATION. -/
def execColDeadline (s : State) : Host.Outcome State Fault Refusal :=
  if s.inRun && !s.colQuiet && !s.crossingComplete s.col.next
      && decide ((s.fieldOf 0x08 0x10 0 8 : Int) ≤ crossingDiff s.bxc s.col.next.toNat) then
    .next (s.evaluate.countOf 0x08 0x08 16 16 1)
  else .next s

/-- R390: the col path becomes quiet and waits for a marker; what it holds of the old count is dropped (DESIGN
CHOICE, log entry 17). -/
def State.colWait (s : State) : State :=
  { s with
    col := { s.col with heads := [], sums := [], waitMarker := true }
    sides := s.sides.map fun x => { x with seen := none, unsent := [] } }

/-- R390: the marker that ends the wait: evaluation begins at the crossing that BXC counts now; headers handed over
under a count that the marker changed are dropped (DESIGN CHOICE, log entry 17). -/
def State.colStart (s : State) (changed : Bool) : State :=
  if !s.col.waitMarker then s
  else
    let b := BitVec.ofNat 64 s.bxc
    let keep := s.col.heads.filter fun h => decide (0 ≤ crossingDiff h.1.toNat b.toNat)
    let s := if changed then { s with sides := s.sides.map fun x => { x with seen := none } } else s
    { s with col := { s.col with heads := if changed then [] else keep, sums := [], next := b, waitMarker := false } }

/-! ### Alignment queues (R391 to R398) -/

/-- ALN_Qq. -/
def State.alnCfg (s : State) (q : Fin 16) : Nat := s.reg 0x09 (0x100 + 8 * q.val)
/-- EN of a queue. -/
def alnOn (v : Nat) : Bool := bitOf v 0
/-- POLICY of a queue. -/
def alnPolicy (v : Nat) : Nat := field v 1 2
/-- DENSE of a queue. -/
def alnDense (v : Nat) : Bool := bitOf v 3
/-- L of a queue. -/
def alnL (v : Nat) : Nat := field v 4 13
/-- LATE of a queue advances. -/
def State.countLate (s : State) (q : Fin 16) : State := s.countOf 0x09 (0x200 + 8 * q.val) 0 32 1

/-- R391, R397: queue `q` takes results for crossing `e`. -/
def State.alnTakes (s : State) (q : Fin 16) (e : Word) : Bool :=
  alnOn (s.alnCfg q) && (match (s.alnQueue q).live with
    | some x => decide (0 ≤ crossingDiff e.toNat x.toNat)
    | none => false)

/-- R393: the release point of crossing `e` has passed. -/
def State.releasePassed (s : State) (q : Fin 16) (e : Word) : Bool :=
  let due := e.toNat + alnL (s.alnCfg q)
  decide (0 ≤ crossingDiff s.bxc due) || (match (s.alnQueue q).released with
    | some r => decide (0 ≤ crossingDiff r.toNat due)
    | none => false)

/-- R394, R395: a result for crossing `e` enters the release side; `inCutoff`: in the last 4 release-side cycles
before its release point, which is at most two periods away then. Choices: log entry 55. -/
def State.deliver (s : State) (q : Fin 16) (e v : Word) (inCutoff : Bool) : State :=
  let cfg := s.alnCfg q
  let due := e.toNat + alnL cfg
  if !s.alnTakes q e || decide (8191 < crossingDiff due s.bxc) then s.countDrop q 1
  else
    let x := s.alnQueue q
    let known := x.seen.filter fun e' => decide (crossingDiff s.bxc (e'.toNat + alnL cfg) ≤ 8191)
    if known.contains e then (s.setAlnQueue q { x with seen := known }).countDrop q 1
    else
      let x : AlnQueue := { x with seen := known ++ [e] }
      let late := s.releasePassed q e || (inCutoff && decide (crossingDiff due s.bxc ≤ 2))
      if !late then s.setAlnQueue q { x with results := x.results ++ [(e, v)] }
      else if alnDense cfg || decide (4 ≤ x.waiting.length) then (s.setAlnQueue q x).countDrop q 1
      else s.setAlnQueue q { x with waiting := x.waiting ++ [(e, BitVec.ofNat 64 s.bxc)] }

/-- The list without the first entry that `p` picks. -/
def dropFirst {α : Type} (p : α → Bool) (xs : List α) : List α :=
  match xs with
  | [] => []
  | x :: rest => if p x then rest else x :: dropFirst p rest

/-- RESULT_DELIVERY: a result on its way enters the release side of queue `q`, which acknowledges it; an untagged
one is dropped. Choices: log entry 55. -/
def execResultDelivery (q : Fin 16) (tag : Option (BitVec 64)) (v : BitVec 64) (inCutoff : Bool) (s : State) :
    Host.Outcome State Fault Refusal :=
  let x := s.alnQueue q
  let pick (y : Entering) : Bool := y.tag == tag && y.v == v
  if !x.entering.any pick || !s.dieOn then .next s
  else
    let s := s.setAlnQueue q { x with entering := dropFirst pick x.entering }
    match tag with
    | some e => .next (s.deliver q e v inCutoff)
    | none => .next (s.countDrop q 1)

/-- R396: the data bits of a placeholder. -/
def placeholderBits (e : Word) (policy q : Nat) : BitVec 24 :=
  BitVec.ofNat 24 (e.toNat % 4096 + policy * 4096 + q * 16384)

/-- R395: a waiting placeholder may go out in the present period: it is past E + L, and it began after the late result
entered. -/
def State.placeholderReady (s : State) (q : Fin 16) (w : Word × Word) : Bool :=
  decide (1 ≤ crossingDiff s.bxc (w.1.toNat + alnL (s.alnCfg q))) && decide (1 ≤ crossingDiff s.bxc w.2.toNat)

/-- R393, R395: the release point of the present period of a live queue whose first crossing is `first`. -/
def State.release (s : State) (q : Fin 16) (first : Word) : State :=
  let cfg := s.alnCfg q
  let x : AlnQueue := { s.alnQueue q with released := some (BitVec.ofNat 64 s.bxc) }
  let e := BitVec.ofNat 64 (wrapNat 64 ((s.bxc : Int) - alnL cfg))
  let place (x : AlnQueue) (e : Word) : State :=
    (s.setAlnQueue q { x with slot := .placeholder (placeholderBits e (alnPolicy cfg) q.val) }).countLate q
  match x.results.find? fun r => r.1 == e with
  | some r => s.setAlnQueue q { x with results := x.results.filter fun y => y.1 != e, slot := .result r.2 }
  | none =>
    if alnDense cfg then
      (if 0 ≤ crossingDiff e.toNat first.toNat then place x e else s.setAlnQueue q { x with slot := .idle })
    else
      match x.waiting.find? (s.placeholderReady q) with
      | some w => place { x with waiting := dropFirst (· == w) x.waiting } w.1
      | none => s.setAlnQueue q { x with slot := .idle }

/-- RELEASE_POINT: the release point of the present bunch period; a period that has passed once is not released
again (R398). Choices: log entries 10 and 55. -/
def execReleasePoint (q : Fin 16) (s : State) : Host.Outcome State Fault Refusal :=
  let x := s.alnQueue q
  let again := match x.released with
    | some r => decide (crossingDiff s.bxc r.toNat ≤ 0)
    | none => false
  match x.live with
  | some first => if !alnOn (s.alnCfg q) || s.noClock || again || !s.inRun then .next s else .next (s.release q first)
  | none => .next s

/-- R397: every queue is flushed and not live; results on their way still enter, and are dropped then. -/
def State.flushQueues (s : State) : State :=
  { s with queues := s.queues.map fun q => { AlnQueue.reset with entering := q.entering } }

/-- R397: a marker makes every queue that is not live live, from the crossing that BXC counts now. -/
def State.startQueues (s : State) : State :=
  { s with queues := s.queues.map fun q => if q.live.isSome then q else { q with live := some (BitVec.ofNat 64 s.bxc) } }

/-- R398: BXC jumps forward from `old`, the period counted before, to its present value: what was due in the skipped
periods is discarded. Choices: log entry 55. -/
def State.skipPeriods (s : State) (old : Nat) (q : Fin 16) : State :=
  let cfg := s.alnCfg q
  let x := s.alnQueue q
  let lo : Nat := if x.released = some (BitVec.ofNat 64 old) then old + 1 else old
  let hi : Int := (s.bxc : Int) - 1
  match x.live with
  | none => s
  | some first =>
    if !alnOn cfg || decide (hi < lo) then s
    else
      let due (r : Word × Word) : Bool := decide (0 ≤ crossingDiff (r.1.toNat + alnL cfg) lo ∧ 0 < crossingDiff s.bxc (r.1.toNat + alnL cfg))
      let gone := (x.results.filter due).length
      let kept := x.results.filter fun r => !due r
      if alnDense cfg then
        let from0 : Int := max (lo : Int) ((first.toNat : Int) + alnL cfg)
        (s.setAlnQueue q { x with results := kept }).countDrop q (hi + 1 - from0).toNat
      else
        let free := (hi + 1 - (lo : Int)).toNat - gone
        let may (w : Word × Word) : Bool := decide (1 < crossingDiff s.bxc (w.1.toNat + alnL cfg))
        let k := min free (x.waiting.filter may).length
        let left := x.waiting.filter fun w => !may w || !((x.waiting.filter may).take k).contains w
        (s.setAlnQueue q { x with results := kept, waiting := left }).countDrop q (gone + k)

/-- R398: a change of BXC from `old` to its present value; the slots of repeated periods carry idle blocks. -/
def State.bxcJump (s : State) (old : Nat) : State :=
  if old < s.bxc then (List.finRange 16).foldl (fun (s : State) q => s.skipPeriods old q) s
  else if s.bxc < old then { s with queues := s.queues.map fun q => { q with slot := .idle } }
  else s

/-- FAST_CHECK: a run of 256 bunch periods is measured. -/
def execFastCheck (run : Nat) (s : State) : Host.Outcome State Fault Refusal :=
  let fast := decide (run + 32 < 256 * s.fieldOf 0x09 0x10 0 10)
  if !s.dieOn || s.noClock || fast == s.flagOf 0x09 0x08 1 then .next s
  else
    let s := s.setFlagOf 0x09 0x08 1 fast
    let s := if fast then s.setFlagOf 0x09 0x08 2 true else s
    .next (s.note 0x0004 [0x399, b2n fast])

end Sys2Proof.Machine
end

