-- ==== Sys2Proof/Machine/Timer.lean ====
section
/-!
DEFINITION. The bunch clock, orbit markers, time code (R400 to R404) and the eight timer channels (R405 to R410).
-/

namespace Sys2Proof.Machine

/-! ### The bunch clock (R400) -/

/-- ACTIVE: false for BCLK_A. -/
def State.activeB (s : State) : Bool := s.flagOf 0x07 0x08 1
/-- An input is present. -/
def State.inputPresent (s : State) (b : Bool) : Bool := if b then s.timer.presentB else s.timer.presentA
/-- Presence of an input and its ALOST or BLOST. -/
def State.setPresent (s : State) (b on : Bool) : State :=
  let s := s.setFlagOf 0x07 0x08 (if b then 3 else 2) (!on)
  if b then { s with timer := { s.timer with presentB := on } } else { s with timer := { s.timer with presentA := on } }
/-- The state with TMR_BXC replaced. -/
def State.setBxc (s : State) (v : Nat) : State := s.setReg 0x07 0x20 v

/-- R357, R390, R397, R400, R401: the bunch clock is lost altogether: NOCLK, locked transmit sides at electrical idle, the
col path and the queues wait for a marker, and the next marker zeroes BXC. -/
def State.enterNoClock (s : State) : State :=
  let s := (s.setFlagOf 0x07 0x08 4 true).setFlagOf 0x07 0x08 5 false
  let s := { s with timer := { s.timer with failing := false, zeroNext := true } }
  let s := deviceLinks.foldl (fun (s : State) l =>
    if s.inRun && lockedTx (s.linkCfg l) then s.setTxRange l true else s) s
  s.colWait.flushQueues

/-- BXC_ADVANCE: a rising edge of the active bunch clock. -/
def execBxcAdvance (s : State) : Host.Outcome State Fault Refusal :=
  if s.dieOn && !s.noClock then .next (s.setBxc ((s.bxc + 1) % 2 ^ 64)) else .next s

/-- BUNCH_CLOCK_LOSS: the active input is lost: failover begins, or there is no bunch clock. -/
def execBunchClockLoss (s : State) : Host.Outcome State Fault Refusal :=
  if !s.dieOn || s.noClock || s.timer.failing then .next s
  else
    let s := s.setPresent s.activeB false
    if s.flagOf 0x07 0x10 1 && s.inputPresent !s.activeB then .next { s with timer := { s.timer with failing := true } }
    else .next s.enterNoClock

/-- BUNCH_CLOCK_FAILOVER: the first rising edge of the other input; BXC counts that edge and those after it as
BXC_ADVANCE. Choices: log entry 53. -/
def execBunchClockFailover (s : State) : Host.Outcome State Fault Refusal :=
  if !s.timer.failing then .next s
  else
    let s := s.setFlagOf 0x07 0x08 1 !s.activeB
    let s := (s.countOf 0x07 0x08 16 8 1).note 0x0004 [0x400, b2n s.activeB]
    .next { s with timer := { s.timer with failing := false, resync := true } }

/-- BUNCH_CLOCK_PRESENT: an input becomes present; under NOCLK an input is taken, that of PREF if it is present. -/
def execBunchClockPresent (inputB : Bool) (s : State) : Host.Outcome State Fault Refusal :=
  if !s.dieOn || s.inputPresent inputB then .next s
  else
    let s := s.setPresent inputB true
    if s.noClock then
      let pref := s.flagOf 0x07 0x10 0
      let take := if s.inputPresent pref then pref else !pref
      .next ((s.setFlagOf 0x07 0x08 1 take).setFlagOf 0x07 0x08 4 false)
    else .next s

/-- BUNCH_CLOCK_ABSENT: an input that is not the active one becomes absent; a failover onto it ends without a clock. -/
def execBunchClockAbsent (inputB : Bool) (s : State) : Host.Outcome State Fault Refusal :=
  if !s.dieOn || !s.inputPresent inputB || (!s.noClock && inputB == s.activeB) then .next s
  else
    let s := s.setPresent inputB false
    .next (if s.timer.failing then s.enterNoClock else s)

/-! ### Orbit (R401) -/

/-- R401: the nearest multiple of `o` to `b`, the higher one on a tie. -/
def nearestMultiple (b o : Nat) : Nat :=
  let r := b % o
  if o ≤ 2 * r then (b - r + o) % 2 ^ 64 else b - r

/-- R401: what a marker makes of BXC, ORBC, ARM, ORBERR and the pending resynchronisation. Choices: log entry 53. -/
def State.markerCount (s : State) : State :=
  let orbc := (s.fieldOf 0x07 0x18 0 32 + 1) % 2 ^ 32
  let b := s.bxc
  let o := s.timer.orblen.toNat
  if s.timer.zeroNext || s.flagOf 0x07 0x10 3 then
    let s := ((s.setBxc 0).setFieldOf 0x07 0x18 0 32 0).setFlagOf 0x07 0x10 3 false
    { s with timer := { s.timer with zeroNext := false } }
  else
    let s := s.setFieldOf 0x07 0x18 0 32 orbc
    if b % o = 0 then s
    else
      let s := s.countOf 0x07 0x08 24 16 1
      if s.flagOf 0x07 0x10 2 || s.timer.resync then
        { s.setBxc (nearestMultiple b o) with timer := { s.timer with resync := false } }
      else s

/-- ORBIT_MARKER: a change of ORBIT from 0 to 1 seen in the present period. -/
def execOrbitMarker (s : State) : Host.Outcome State Fault Refusal :=
  if !s.dieOn || s.noClock then .next s
  else
    let old := s.bxc
    let s := s.markerCount
    let s := (s.setFlagOf 0x07 0x08 5 true).setFlagOf 0x07 0x08 6 false
    let s := { s with timer := { s.timer with orblen := BitVec.ofNat 24 (s.fieldOf 0x07 0x18 32 24) } }
    let s := s.bxcJump old
    .next ((s.colStart (s.bxc != old)).startQueues)

/-- ORBIT_LOST: 2 x ORBLEN periods without a marker. -/
def execOrbitLost (s : State) : Host.Outcome State Fault Refusal :=
  if s.dieOn && !s.noClock then .next (s.setFlagOf 0x07 0x08 6 true) else .next s

/-! ### Time code and REFCLK (R402, R403) -/

/-- The low `n` decimal digits of a packed BCD field are valid. -/
def bcdOk (n v : Nat) : Bool := (List.range n).all fun i => decide (field v (4 * i) 4 ≤ 9)

/-- R402: every digit of the frame is valid. -/
def timeDigitsOk (f : TimeCode) : Bool :=
  bcdOk 2 f.sec.toNat && bcdOk 2 f.min.toNat && bcdOk 2 f.hour.toNat && bcdOk 3 f.day.toNat
    && (match f.year with
      | some y => bcdOk 2 y.toNat
      | none => true)

/-- R402: the time of day of a frame. -/
def todOf (f : TimeCode) : Nat :=
  let year := match f.year with
    | some y => y.toNat
    | none => 0
  f.sec.toNat + f.min.toNat * 2 ^ 8 + f.hour.toNat * 2 ^ 16 + f.day.toNat * 2 ^ 24 + year * 2 ^ 36

/-- R402: the end of a frame: accepted, it sets TMR_TOD and TMR_TODBXC together; rejected, it counts in TCERR. -/
def State.endTimeCode (s : State) (f : TimeCode) : State :=
  let rest := { s with timer := { s.timer with onTime := s.timer.onTime.drop 1 } }
  match s.timer.onTime with
  | bxc :: _ =>
    if f.timingOk && timeDigitsOk f then ((rest.setReg 0x07 0x28 (todOf f)).setReg 0x07 0x30 bxc.toNat).setFlagOf 0x07 0x08 8 true
    else rest.countOf 0x07 0x08 40 16 1
  | [] => rest.countOf 0x07 0x08 40 16 1

/-- TIME_CODE_FRAME: the on-time edge of a frame, whose bunch period is kept, or the end of the oldest frame begun.
Choices: log entry 53. -/
def execTimeCodeFrame (part : TimeCodePart) (s : State) : Host.Outcome State Fault Refusal :=
  if !s.dieOn then .next s
  else
    match part with
    | .onTimeEdge => .next { s with timer := { s.timer with onTime := s.timer.onTime ++ [BitVec.ofNat 64 s.bxc] } }
    | .frameEnd f => .next (s.endTimeCode f)

/-- TIME_CODE_TIMEOUT: 2 s without an accepted frame. -/
def execTimeCodeTimeout (s : State) : Host.Outcome State Fault Refusal :=
  if s.dieOn then .next (s.setFlagOf 0x07 0x08 8 false) else .next s

/-- REFCLK_LOSS: the on-module oscillator takes over from REFCLK_EXT. -/
def execRefclkLoss (s : State) : Host.Outcome State Fault Refusal :=
  if s.on && s.power.refext then
    (let s := { s with power := { s.power with refext := false } }
    .next ((if s.dieOn then s.setFlagOf 0x07 0x08 7 false else s).note 0x0004 [0x403, 0]))
  else .next s

/-! ### Timer channels (R405 to R410) -/

/-- Offset of register `o` of channel `c`. -/
def chOff (c : Fin 8) (o : Nat) : Nat := 0x100 + 0x40 * c.val + o
/-- The channel beside its registers. -/
def State.timerCh (s : State) (c : Fin 8) : TimerCh := s.timer.ch[c]
/-- The state with it replaced. -/
def State.setTimerCh (s : State) (c : Fin 8) (x : TimerCh) : State :=
  { s with timer := { s.timer with ch := s.timer.ch.set c.val x c.isLt } }
/-- TB. -/
def State.timeBase (s : State) (c : Fin 8) : Nat := s.fieldOf 0x07 (chOff c 0x10) 0 32

/-- R410: the channel posts EVENT to OWNER, if enable bit `bit` of TMR_CFGc is set. -/
def State.postTimer (s : State) (c : Fin 8) (bit : Nat) : State :=
  if s.flagOf 0x07 (chOff c 0) bit then s.postEvent (s.fieldOf 0x07 (chOff c 0) 20 9) (s.fieldOf 0x07 (chOff c 0) 12 8) else s

/-- R407: a match, with the interval `intv`. -/
def State.timerMatch (s : State) (c : Fin 8) (intv : Nat) : State :=
  let s := (s.setFlagOf 0x07 (chOff c 0) 33 true).postTimer c 9
  s.setFieldOf 0x07 (chOff c 0x18) 0 32 (s.fieldOf 0x07 (chOff c 0x18) 0 32 + intv)

/-- R406: COUNT at a tick. -/
def State.countDown (s : State) (c : Fin 8) : State :=
  let n := s.fieldOf 0x07 (chOff c 0x10) 32 32
  if n = 0 then s.setFieldOf 0x07 (chOff c 0x10) 32 32 (s.fieldOf 0x07 (chOff c 0x08) 32 32)
  else
    let s := s.setFieldOf 0x07 (chOff c 0x10) 32 32 (n - 1)
    if n = 1 then (s.setFlagOf 0x07 (chOff c 0) 32 true).postTimer c 8 else s

/-- R406, R407: a tick of channel `c`: TB and COUNT advance, and TB may come to match. -/
def State.tick (s : State) (c : Fin 8) : State :=
  let tb := (s.timeBase c + 1) % 2 ^ 32
  let s := (s.setFieldOf 0x07 (chOff c 0x10) 0 32 tb).countDown c
  if s.flagOf 0x07 (chOff c 0) 6 && tb == s.fieldOf 0x07 (chOff c 0x18) 0 32 then
    s.timerMatch c (s.fieldOf 0x07 (chOff c 0x18) 32 32)
  else s

/-- R405: one rising edge of the source of channel `c`. -/
def State.sourceEdge (s : State) (c : Fin 8) : State :=
  let div := s.fieldOf 0x07 (chOff c 0x08) 0 32
  let acc := (s.timerCh c).acc + 0x10000
  if div ≤ acc then (s.setTimerCh c { s.timerCh c with acc := acc - div }).tick c
  else s.setTimerCh c { s.timerCh c with acc := acc }

/-- R405: `n` rising edges of the source of channel `c`. -/
def State.sourceEdges (s : State) (c : Fin 8) (n : Nat) : State :=
  match n with
  | 0 => s
  | n + 1 => (s.sourceEdge c).sourceEdges c n

/-- TIMER_TICK: the next rising edges of the source of a channel, with the ticks they give. Choices: log entry 53. -/
def execTimerTick (x : SourceEdges) (s : State) : Host.Outcome State Fault Refusal :=
  let cfg := s.reg 0x07 (chOff x.ch 0)
  if !s.dieOn || !bitOf cfg 5 || (field cfg 0 3 = 0 && s.noClock) then .next s
  else .next (s.sourceEdges x.ch x.edges)

/-- R405, R407: a write to TMR_CFGc: CNTEN from 0 to 1 starts the count, CMPEN from 0 to 1 matches at once where TB
= CMP. Choices: log entry 53. -/
def State.writeTimerCfg (s : State) (c : Fin 8) (w : WriteResult) : State :=
  let old := s.reg 0x07 (chOff c 0)
  let s := s.setReg 0x07 (chOff c 0) w.new
  let s := if w.err then s.cfgerr 0x07 else s
  let s :=
    if bitOf w.new 5 && !bitOf old 5 then
      (s.setReg 0x07 (chOff c 0x10) (s.fieldOf 0x07 (chOff c 0x08) 32 32 * 2 ^ 32)).setTimerCh c { s.timerCh c with acc := 0 }
    else s
  if bitOf w.new 6 && !bitOf old 6 && s.timeBase c == s.fieldOf 0x07 (chOff c 0x18) 0 32 then
    s.timerMatch c (s.fieldOf 0x07 (chOff c 0x18) 32 32)
  else s

/-- R407: a write to TMR_CMPc: one that brings CMP to TB matches, with INTV as it stood before. Choices: log entry
53. -/
def State.writeTimerCmp (s : State) (c : Fin 8) (w : WriteResult) : State :=
  let old := s.reg 0x07 (chOff c 0x18)
  let s := s.setReg 0x07 (chOff c 0x18) w.new
  let s := if w.err then s.cfgerr 0x07 else s
  if s.flagOf 0x07 (chOff c 0) 6 && field w.new 0 32 == s.timeBase c && field old 0 32 != s.timeBase c then
    s.timerMatch c (field old 32 32)
  else s

/-- CAPTURE_RISE: a rising edge latches TB as the pending rise. -/
def execCaptureRise (c : Fin 8) (s : State) : Host.Outcome State Fault Refusal :=
  if s.dieOn && s.flagOf 0x07 (chOff c 0) 7 then
    .next (s.setTimerCh c { s.timerCh c with rise := some (BitVec.ofNat 32 (s.timeBase c)) })
  else .next s

/-- CAPTURE_FALL: a falling edge completes the pair of a pending rise. -/
def execCaptureFall (c : Fin 8) (s : State) : Host.Outcome State Fault Refusal :=
  match (s.timerCh c).rise with
  | none => .next s
  | some r =>
    if !s.dieOn || !s.flagOf 0x07 (chOff c 0) 7 then .next s
    else
      let full := s.flagOf 0x07 (chOff c 0) 34
      let s := s.setTimerCh c { s.timerCh c with rise := none }
      let s := s.setReg 0x07 (chOff c 0x20) (r.toNat + s.timeBase c * 2 ^ 32)
      let s := if full then s.setFlagOf 0x07 (chOff c 0) 35 true else s
      .next ((s.setFlagOf 0x07 (chOff c 0) 34 true).postTimer c 10)

end Sys2Proof.Machine
end

