-- ==== Sys2Proof/Machine/ConfigSpace.lean ====
section
/-!
DEFINITION. Reads and writes of configuration space (R9 to R14): the fields that repeat other state, and what a write does
beyond its register's own bits.
-/

namespace Sys2Proof.Machine

/-! ### Reading -/

/-- R441, R434, R436: the fields of LC and SEC that repeat fuses and SMC state. -/
def State.viewSecurity (s : State) (blk off v : Nat) : Nat :=
  if blk = 0x01 ∧ off = 0x10 then s.lcState
  else if blk = 0x01 ∧ off = 0x18 then s.fuses.uid.toNat
  else if blk = 0x02 ∧ off = 0x08 then setField v 3 1 (b2n s.smc.challenge.isSome)
  else if blk = 0x02 ∧ off = 0x10 then s.smc.fwSvn % 2 ^ 32 + s.fuses.fwSvnMin % 128 * 2 ^ 32 + s.fuses.lathSvnMin % 256 * 2 ^ 40
  else v

/-- The fields of RPR registers that repeat the repair controller's state. -/
def State.viewRepair (s : State) (off v : Nat) : Nat :=
  let c := s.cairn
  if off = 0x08 then
    let seq := match c.queue with
      | r :: _ => r.seq - 1
      | [] => c.nextSeq - 1
    field v 0 1 + b2n s.repair.move.isSome * 2 + b2n (ridgeIds.any fun g => (s.ridge g).swap.isSome) * 4
      + b2n s.degraded * 8 + b2n (s.spareLow || (s.spareBanks false).isEmpty) * 16 + min 8 c.queue.length * 2 ^ 16
      + field v 20 1 * 2 ^ 20 + b2n s.logStop * 2 ^ 21 + seq % 2 ^ 32 * 2 ^ 32
  else if 0x40 ≤ off ∧ off < 0x60 then
    ((List.range 8).map fun i =>
      let g : RidgeId := ⟨(off - 0x40 + i) % 32, by omega⟩
      (match s.siteOf g with
        | some st => st.val
        | none => 0x3F) * 2 ^ (8 * i)).sum
  else if 0x100 ≤ off ∧ off < 0x210 then
    let st : SiteId := ⟨(off - 0x100) / 8 % 34, by omega⟩
    let x := s.site st
    let g := match s.ridgeAt st with
      | some g => if x.st = 0 then g.val else 0
      | none => 0
    x.st.toNat + g * 2 ^ 8 + x.retired.toNat * 2 ^ 16
  else if 0x300 ≤ off ∧ off < 0x520 then
    let st : SiteId := ⟨(off - 0x300) / 16 % 34, by omega⟩
    ((List.range 8).map fun i => s.laneSlot st ((off - 0x300) % 16 / 8 * 8 + i) * 2 ^ (8 * i)).sum
  else v

/-- DS_GEOM and DS_BANKMAPn (R221, R237). -/
def State.viewDeep (s : State) (off v : Nat) : Nat :=
  let count (k : BitVec 2) : Nat := ((List.range 1024).filter fun n => (s.mapEntry n).st == k).length
  if off = 0x48 then
    s.slots + count 1 * 2 ^ 16 + count 2 * 2 ^ 32 + (ifaces.filter s.lostIf).length * 2 ^ 48
  else if 0x2000 ≤ off ∧ off < 0x4000 then
    let e := s.mapEntry ((off - 0x2000) / 8)
    e.pb.toNat + e.st.toNat * 2 ^ 10
  else v

/-- The fields of a ridge's registers that repeat its state: SE_ENGSTAT, LD_PART.MODE under R249, CC_THREADt. -/
def State.viewRidge (s : State) (g : RidgeId) (off v : Nat) : Nat :=
  if off = 0x1018 then
    (s.ridge g).streams.length + (threadNos.map fun n => (s.thread (threadOf g n)).dq.length * 2 ^ (8 + 6 * n.val)).sum
  else if off = 0x1400 then (if (s.lostBulk g).isEmpty then v else setField v 0 1 1)
  else if 0x1500 ≤ off ∧ off < 0x1540 then
    let th := s.thread (threadOf g ⟨(off - 0x1500) / 8 % 8, by omega⟩)
    let st := match th.st with
      | .reset => 0
      | .running => 1
      | .parked => 2
      | .halted => 3
    th.pc.toNat + st * 2 ^ 50
  else v

/-- LG_STATUS and the CUR field of LG_SADs (R250). -/
def State.viewGroup (s : State) (n : Fin 16) (off v : Nat) : Nat :=
  let links := List.finRange 8
  if off = 0x08 then
    let powered := s.inRun && links.any fun k => let c := s.linkCfg (linkOf n k); rxMode c != 0 || txMode c != 0
    field v 0 1 + b2n powered * 2 + (links.map fun k => b2n (s.linkFailed (linkOf n k)) * 2 ^ (8 + k.val)).sum
  else if off = 0x200 then setField v 29 1 (s.saddleCur n 0).val
  else if off = 0x208 then setField v 29 1 (s.saddleCur n 1).val
  else v

/-- The block whose registers an access reaches: the block of a site that carries a ridge is the ridge's. -/
def State.blockOf (s : State) (blk : Nat) : Nat :=
  if h : 0x80 ≤ blk ∧ blk ≤ 0xA1 then
    (match s.ridgeAt ⟨blk - 0x80, by omega⟩ with
      | some g => rgBlk g
      | none => blk)
  else blk

/-- The content of the register at `off` of block `blk` as a read shows it. Choices: log entry 9. -/
def State.regView (s : State) (blk off : Nat) : Nat :=
  let v := s.reg blk off
  if blk = 0x00 then
    (if off = 0 then setField v 16 4 (if s.fuses.speed20 then 2 else 1)
    else if off = 0x40 then setField v 23 1 (b2n s.smc.op.isSome)
    else v)
  else if blk = 0x01 ∨ blk = 0x02 then s.viewSecurity blk off v
  else if blk = 0x08 ∧ off = 0x08 then setField v 1 1 (b2n s.colQuiet)
  else if blk = 0x09 ∧ off = 0x08 then
    setField v 3 1 (b2n ((List.finRange 16).all fun q => !alnOn (s.alnCfg q) || (s.alnQueue q).live.isSome))
  else if blk = 0x0A ∧ off = 0x08 then setField (setField v 1 1 (b2n s.power.head)) 5 1 (b2n s.mgt.session.isSome)
  else if blk = 0x0C then s.viewRepair off v
  else if blk = 0x10 then s.viewDeep off v
  else if h : 0x30 ≤ blk ∧ blk ≤ 0x3F then s.viewGroup ⟨blk - 0x30, by omega⟩ off v
  else if h : 0xC0 ≤ blk ∧ blk ≤ 0xDF then s.viewRidge ⟨blk - 0xC0, by omega⟩ off v
  else v

/-- R9: an access of 8 bytes, or of 4 bytes at either half. -/
def regAccessOk (off size : Nat) : Bool := (size == 8 && off % 8 == 0) || (size == 4 && off % 4 == 0)

/-- The bits of a register that an access of `size` bytes at `off` covers. -/
def accessMask (off size : Nat) : Nat := (2 ^ (8 * size) - 1) * 2 ^ (8 * (off % 8))

/-- R404: a 64-bit read of TMR_BXC: two independent 32-bit reads, low half first; how many bunch periods lie between
them is free. -/
def State.readBxc (s : State) : Nat × State :=
  let gap := if s.noClock then 0 else (Config.bxcReadGap s.fresh).toNat
  (s.bxc % 2 ^ 32 + (s.bxc + gap) / 2 ^ 32 % 2 ^ 32 * 2 ^ 32, s.bump)

/-- R9 to R12: a read: the value returned, and the state with what it clears. -/
def State.cfgRead (s : State) (blk0 off size : Nat) : Nat × State :=
  let blk := s.blockOf blk0
  let o := off / 8 * 8
  if !regAccessOk off size then (0, s.cfgerr blk)
  else if blk = 0x07 ∧ off = 0x20 ∧ size = 8 then s.readBxc
  else
    match regDesc blk o with
    | none => (0, s)
    | some r =>
      let v := field (s.regView blk o) (8 * (off % 8)) (8 * size)
      let old := s.reg blk o
      let new := r.afterRead old (accessMask off size)
      let s := if new = old then s else s.setReg blk o new
      if blk = 0x07 ∧ 0x100 ≤ o ∧ (o - 0x100) % 0x40 = 0x20 then (v, s.setFlagOf 0x07 (o - 0x20) 34 false) else (v, s)

/-! ### Writing -/

/-- A thread is reset with its streams and descriptors (R95, R303). -/
def State.resetThreadFull (s : State) (g : RidgeId) (n : Fin 8) : State :=
  (s.discardStreams g fun m => m.th == n).resetThread (threadOf g n)

/-- R304: a write to CC_THREADt; `lath` records leave START to the end of the load. The
threads of a ridge that does not run stay in the reset state. -/
def State.writeThread (s : State) (lath : Bool) (g : RidgeId) (n : Fin 8) (w : WriteResult) (pc : Nat) : State :=
  let t := threadOf g n
  let s := if bitOf w.acts 49 then s.resetThreadFull g n else s
  let inReset := (s.thread t).st == .reset
  let pcBad := pc % 4 != 0
  let start := bitOf w.acts 48
  let s := if inReset && !pcBad then s.setThread t { s.thread t with pc := BitVec.ofNat 48 pc } else s
  let s := if start && inReset && !pcBad && !lath && s.ridgeRuns g then s.setThread t { s.thread t with st := .running } else s
  if w.err || !inReset || pcBad then s.cfgerr (rgBlk g) else s

/-- R353: a write to CC_WDOGt: PERIOD reloads the count where it is written, KICK reloads it and clears WARNED. -/
def State.writeWatchdog (s : State) (g : RidgeId) (n : Fin 8) (w : WriteResult) (periodWritten : Bool) : State :=
  let t := threadOf g n
  let kick := bitOf w.acts 32
  let new := if kick then setField w.new 33 1 0 else w.new
  let s := s.setReg (rgBlk g) (0x1640 + 8 * n.val) new
  let s := if kick || periodWritten then s.setThread t { s.thread t with wdCount := 1024 * field new 0 32 } else s
  if w.err then s.cfgerr (rgBlk g) else s

/-- R385: a COL_LUT record writes 32 table entries at LUTPTR, which advances. -/
def State.writeLut (s : State) (v : Nat) : State :=
  let p := s.fieldOf 0x08 0x10 16 13
  let lut := (List.range 32).foldl (fun (m : List (Nat × BitVec 2)) i => Sparse.set 0 m (32 * p + i) (BitVec.ofNat 2 (field v (2 * i) 2))) s.col.lut
  { s with col := { s.col with lut := lut } }.setFieldOf 0x08 0x10 16 13 (p + 1)

/-- R471, R12: a write of `v` to RPR_CLAPPEND: the body is copied from the mailbox and the record queued, or the append is
refused; `err` says that a reserved field was written nonzero, which is ignored. DESIGN CHOICE (log entry 29): a reserved
OFFSET or BLEN appends nothing, and a 32-bit write of one half appends at once, with zero for the fields of the other. -/
def State.cairnAppend (s : State) (v : Nat) (err : Bool) : State :=
  let off := field v 0 18
  let blen := field v 48 8
  let bad := decide (off % 8 ≠ 0 ∨ 0x3FF20 < off ∨ 220 < blen)
  let s := if err || bad then s.cfgerr 0x0C else s
  if bad then s
  else if 8 ≤ s.cairn.queue.length || s.logStop then s.setFlagOf 0x0C 0x08 20 true
  else
    let r := s.sramRead .other (mbxBase + off) blen
    r.st.enqueueRecord (BitVec.ofNat 16 (0x8000 + field v 32 15)) r.bytes []

/-- R214: a write to DS_CTRL: a RATE above the order code's is a reserved encoding; RETRAIN trains every interface anew. -/
def State.writeDsCtrl (s : State) (w : WriteResult) : State :=
  let tooFast := decide (s.maxRate < field w.new 0 3)
  let s := if tooFast then s else s.setReg 0x10 0x40 w.new
  let s := if bitOf w.acts 8 then s.retrainAll else s
  if w.err || tooFast then s.cfgerr 0x10 else s

/-- The plain effect of a write: the register's own bits and CFGERR. -/
def State.writePlain (s : State) (blk off : Nat) (w : WriteResult) : State :=
  let s := if w.new = s.reg blk off then s else s.setReg blk off w.new
  if w.err then s.cfgerr blk else s

/-- Writes to a link group's registers with effects of their own. -/
def State.writeGroup (s : State) (n : Fin 16) (off mask : Nat) (w : WriteResult) : State :=
  if off = 0x200 then s.writeSad n 0 w
  else if off = 0x208 then s.writeSad n 1 w
  else if off = 0x220 then s.writeRingCtl n w
  else if off = 0x230 then s.writeRingRp n (mask % 2 == 1) w
  else if off = 0x248 then s.writeEgPtr n (mask % 2 == 1) w
  else s.writePlain (lgBlk n) off w

/-- Writes to a ridge's registers with effects of their own. -/
def State.writeRidge (s : State) (lath : Bool) (g : RidgeId) (off mask : Nat) (w : WriteResult) : State :=
  if off = 0x1408 then
    (let s := s.writeRet g (bitOf w.new 0)
    if w.err then s.cfgerr (rgBlk g) else s)
  else if 0x1500 ≤ off ∧ off < 0x1540 then s.writeThread lath g ⟨(off - 0x1500) / 8 % 8, by omega⟩ w (field w.new 0 48)
  else if 0x1640 ≤ off ∧ off < 0x1680 then s.writeWatchdog g ⟨(off - 0x1640) / 8 % 8, by omega⟩ w (mask % 2 == 1)
  else s.writePlain (rgBlk g) off w

/-- What a write does beyond the field rules, by register; `v` is the written value in place. Choices: log entry 29. -/
def State.writeEffect (s : State) (lath : Bool) (blk off v mask : Nat) (w : WriteResult) : State :=
  if blk = 0x06 ∧ off = 0x18 then
    (let s := if mask % 2 = 1 then s.forceBreak (field v 0 8) else s
    if w.err then s.cfgerr blk else s)
  else if blk = 0x07 ∧ 0x100 ≤ off then
    let c : Fin 8 := ⟨(off - 0x100) / 0x40 % 8, by omega⟩
    let o := (off - 0x100) % 0x40
    if o = 0 then s.writeTimerCfg c w else if o = 0x18 then s.writeTimerCmp c w else s.writePlain blk off w
  else if blk = 0x08 ∧ off = 0x700 then (if lath then s.writeLut v else s.writePlain blk off w)
  else if blk = 0x0C ∧ off = 0x600 then s.cairnAppend (v &&& mask) w.err
  else if blk = 0x10 ∧ off = 0x40 then s.writeDsCtrl w
  else if blk = 0x10 ∧ 0x100 ≤ off ∧ off < 0x180 then s.writeWindow ((off - 0x100) / 8) w
  else if h : 0x30 ≤ blk ∧ blk ≤ 0x3F then s.writeGroup ⟨blk - 0x30, by omega⟩ off mask w
  else if h : 0xC0 ≤ blk ∧ blk ≤ 0xDF then s.writeRidge lath ⟨blk - 0xC0, by omega⟩ off mask w
  else s.writePlain blk off w

/-- The content that the field rules start from: a CC_THREADt shows its thread's PC. -/
def State.writeBase (s : State) (blk off : Nat) : Nat :=
  if 0xC0 ≤ blk ∧ blk ≤ 0xDF ∧ 0x1500 ≤ off ∧ off < 0x1540 then field (s.regView blk off) 0 48 else s.reg blk off

/-- R9 to R14, R449: a write of the low `size` bytes of `v` at `off` of block `blk0`, by the lath or by software.
Choices: log entry 29. -/
def State.cfgWrite (s : State) (lath : Bool) (blk0 off size v : Nat) : State :=
  let blk := s.blockOf blk0
  let o := off / 8 * 8
  if !regAccessOk off size then s.cfgerr blk
  else
    let mask := accessMask off size
    let x := v % 2 ^ (8 * size) * 2 ^ (8 * (off % 8))
    match regDesc blk o with
    | none => if x = 0 then s else s.cfgerr blk
    | some r =>
      if (r.lathOnly && !lath) || ((blk == 0x01 || blk == 0x02) && o != 0x08) then s.cfgerr blk
      else s.writeEffect lath blk o x mask (r.write lath (s.writeBase blk o) x mask)

/-! ### Register rows -/

/-- A block of the supply domain that STANDBY keeps: SYS, LC, SEC, MGT, SWP, RPR. -/
def aonBlock (blk : Nat) : Bool := blk == 0x00 || blk == 0x01 || blk == 0x02 || blk == 0x0A || blk == 0x0B || blk == 0x0C

/-- R268, R483: master `m` reaches the registers of block `blk`. -/
def State.cfgReach (s : State) (m : Master) (blk : Nat) : Bool :=
  blockDefined blk && s.path m (.config blk 0) && (s.dieOn || (s.on && aonBlock blk && m == .smc))

/-- A write to configuration space by master `m`, if it reaches the block. -/
def State.cfgStore (s : State) (m : Master) (blk off size v : Nat) : State :=
  if s.cfgReach m blk then s.cfgWrite false blk off size v else s

/-- REGISTER_WRITE: a write to a configuration register. -/
def execRegisterWrite (m : Master) (blk : BitVec 8) (off : BitVec 16) (size : Nat) (v : BitVec 64) (s : State) :
    Host.Outcome State Fault Refusal :=
  .next (s.cfgStore m blk.toNat off.toNat size v.toNat)

/-- READ_CLEAR: a read of a configuration register; its RC bits clear. -/
def execReadClear (m : Master) (blk : BitVec 8) (off : BitVec 16) (size : Nat) (s : State) : Host.Outcome State Fault Refusal :=
  if s.cfgReach m blk.toNat then
    let r := s.cfgRead blk.toNat off.toNat size
    .next { r.2 with readData := leBytes size r.1 }
  else .next s

/-- RETRAIN: DS_CTRL with RETRAIN = 1 and RATE. -/
def execRetrain (m : Master) (rate : BitVec 3) (s : State) : Host.Outcome State Fault Refusal :=
  .next (s.cfgStore m 0x10 0x40 8 (0x100 + rate.toNat))

/-- WINDOW_ENABLE: a write to DS_WINn. -/
def execWindowEnable (m : Master) (n : Fin 16) (v : BitVec 64) (s : State) : Host.Outcome State Fault Refusal :=
  .next (s.cfgStore m 0x10 (0x100 + 8 * n.val) 8 v.toNat)

/-- WINDOW_INIT: a write to DS_WINn with INIT. -/
def execWindowInit (m : Master) (n : Fin 16) (v : BitVec 64) (s : State) : Host.Outcome State Fault Refusal :=
  .next (s.cfgStore m 0x10 (0x100 + 8 * n.val) 8 (setField v.toNat 49 1 1))

/-- RING_ENABLE: a write to LG_RINGCTL. -/
def execRingEnable (m : Master) (n : Fin 16) (v : BitVec 64) (s : State) : Host.Outcome State Fault Refusal :=
  .next (s.cfgStore m (lgBlk n) 0x220 8 v.toNat)

/-- SADDLE_RELEASE: REL0 and REL1 of LG_SADs, its other fields written as they are. -/
def execSaddleRelease (m : Master) (n : Fin 16) (sd : Fin 2) (rel0 : Bool) (rel1 : Bool) (s : State) :
    Host.Outcome State Fault Refusal :=
  .next (s.cfgStore m (lgBlk n) (sadOff sd) 8 (field (s.reg (lgBlk n) (sadOff sd)) 0 25 + b2n rel0 * 2 ^ 25 + b2n rel1 * 2 ^ 26))

/-- FORCED_BREAK: a write to MBX_SEMFORCE. -/
def execForcedBreak (m : Master) (n : Fin 256) (s : State) : Host.Outcome State Fault Refusal :=
  .next (s.cfgStore m 0x06 0x18 8 n.val)

/-- ARM: TMR_CLK with ARM = 1, its other fields written as they are. -/
def execArm (m : Master) (s : State) : Host.Outcome State Fault Refusal :=
  .next (s.cfgStore m 0x07 0x10 8 (setField (s.reg 0x07 0x10) 3 1 1))

/-- TIMER_COUNT_ENABLE: a write to TMR_CFGc. -/
def execTimerCountEnable (m : Master) (c : Fin 8) (v : BitVec 64) (s : State) : Host.Outcome State Fault Refusal :=
  .next (s.cfgStore m 0x07 (chOff c 0) 8 v.toNat)

/-- TIMER_COMPARE_ENABLE: a write to TMR_CFGc. -/
def execTimerCompareEnable (m : Master) (c : Fin 8) (v : BitVec 64) (s : State) : Host.Outcome State Fault Refusal :=
  .next (s.cfgStore m 0x07 (chOff c 0) 8 v.toNat)

/-- TIMER_CMP_WRITE: a write to TMR_CMPc. -/
def execTimerCmpWrite (m : Master) (c : Fin 8) (v : BitVec 64) (s : State) : Host.Outcome State Fault Refusal :=
  .next (s.cfgStore m 0x07 (chOff c 0x18) 8 v.toNat)

/-- CAPTURE_READ: a read of TMR_CAPc returns the pair and clears FULL. -/
def execCaptureRead (m : Master) (c : Fin 8) (s : State) : Host.Outcome State Fault Refusal :=
  if s.cfgReach m 0x07 then
    let r := s.cfgRead 0x07 (chOff c 0x20) 8
    .next { r.2 with readData := leBytes 8 r.1 }
  else .next s

/-- CAIRN_APPEND: a write to RPR_CLAPPEND. -/
def execCairnAppend (m : Master) (v : BitVec 64) (s : State) : Host.Outcome State Fault Refusal :=
  .next (s.cfgStore m 0x0C 0x600 8 v.toNat)

/-- THREAD_RESET: CC_THREADn with RESET = 1, by the SMC. -/
def execThreadReset (g : RidgeId) (n : Fin 8) (pc : BitVec 48) (start : Bool) (s : State) : Host.Outcome State Fault Refusal :=
  .next (s.cfgStore .smc (rgBlk g) (0x1500 + 8 * n.val) 8 (pc.toNat + b2n start * 2 ^ 48 + 2 ^ 49))

/-- THREAD_START: CC_THREADn with START = 1. -/
def execThreadStart (g : RidgeId) (n : Fin 8) (pc : BitVec 48) (s : State) : Host.Outcome State Fault Refusal :=
  .next (s.cfgStore .smc (rgBlk g) (0x1500 + 8 * n.val) 8 (pc.toNat + 2 ^ 48))

/-- WATCHDOG_KICK: CC_WDOGn with KICK = 1 and PERIOD. -/
def execWatchdogKick (g : RidgeId) (n : Fin 8) (period : BitVec 32) (s : State) : Host.Outcome State Fault Refusal :=
  .next (s.cfgStore .smc (rgBlk g) (0x1640 + 8 * n.val) 8 (period.toNat + 2 ^ 32))

end Sys2Proof.Machine
end

