-- ==== Sys2Proof/Machine/LoadBranch.lean ====
section
/-!
DEFINITION. Loads and stores (R322, R323) and the branch group (R325, R326).
-/

namespace Sys2Proof.Machine

/-- R325: the target of a relative branch: PC + 4 × sext(DISP). -/
def Thread.relative (th : Thread) (disp : BitVec 21) : Addr := th.pc + (disp.signExtend 48) * 4

/-- R325: the target of JA and JAL: the A register as a base, bits [1:0] ignored. -/
def Thread.absolute (th : Thread) (ab : BitVec 4) : Addr := th.base ab &&& ~~~3

/-- R301, R326: a branch completes with its delay slot; a branch that is not taken goes on after the slot. -/
def branchAct (taken : Bool) (target : Addr) (link : List PendWrite) (readsD : Option (BitVec 5))
    (readsA : Option (BitVec 4)) (s : State) (th : Thread) : Act :=
  .complete s link 0 (some ⟨th.pc, if taken then target else th.pc + 8, readsD, readsA⟩)

/-- R325: a conditional branch on Dc. -/
def condAct (cond : Word → Bool) (rc : BitVec 5) (disp : BitVec 21) (s : State) (th : Thread) : Act :=
  branchAct (cond (th.d rc)) (th.relative disp) [] (some rc) none s th

/-- R325: the link write Dc := PC + 8. -/
def linkWrite (rc : BitVec 5) (th : Thread) : List PendWrite := [writeD 0 rc ((th.pc + 8).setWidth 64)]

/-- LD: the n bytes at EA, zero-extended. -/
def execLd (t : ThreadId) (rt : BitVec 5) (ab : BitVec 4) (sz : BitVec 3) (disp : BitVec 14) (s : State) : Result :=
  .next (s.issue t (.ld t rt ab sz disp) (loadAct false t (.ld t rt ab sz disp) false rt ab sz disp))

/-- LDS: the n bytes at EA, sign-extended. -/
def execLds (t : ThreadId) (rt : BitVec 5) (ab : BitVec 4) (sz : BitVec 3) (disp : BitVec 14) (s : State) : Result :=
  .next (s.issue t (.lds t rt ab sz disp) (loadAct false t (.lds t rt ab sz disp) true rt ab sz disp))

/-- ST: the low n bytes of Dt, or Vt, to EA. -/
def execSt (t : ThreadId) (rt : BitVec 5) (ab : BitVec 4) (sz : BitVec 3) (disp : BitVec 14) (s : State) : Result :=
  .next (s.issue t (.st t rt ab sz disp) (stAct false t (.st t rt ab sz disp) rt ab sz disp))

/-- BEQZ: taken when Dc = 0. -/
def execBeqz (t : ThreadId) (rc : BitVec 5) (disp : BitVec 21) (s : State) : Result :=
  .next (s.issue t (.beqz t rc disp) (condAct (fun v => v == 0) rc disp))

/-- BNEZ: taken when Dc ≠ 0. -/
def execBnez (t : ThreadId) (rc : BitVec 5) (disp : BitVec 21) (s : State) : Result :=
  .next (s.issue t (.bnez t rc disp) (condAct (fun v => v != 0) rc disp))

/-- BLTZ: taken when Dc < 0. -/
def execBltz (t : ThreadId) (rc : BitVec 5) (disp : BitVec 21) (s : State) : Result :=
  .next (s.issue t (.bltz t rc disp) (condAct (fun v => v.msb) rc disp))

/-- BGEZ: taken when Dc ≥ 0. -/
def execBgez (t : ThreadId) (rc : BitVec 5) (disp : BitVec 21) (s : State) : Result :=
  .next (s.issue t (.bgez t rc disp) (condAct (fun v => !v.msb) rc disp))

/-- BRA: always taken. -/
def execBra (t : ThreadId) (disp : BitVec 21) (s : State) : Result :=
  .next (s.issue t (.bra t disp) (fun s th => branchAct true (th.relative disp) [] none none s th))

/-- BAL: always taken; Dc := PC + 8. -/
def execBal (t : ThreadId) (rc : BitVec 5) (disp : BitVec 21) (s : State) : Result :=
  .next (s.issue t (.bal t rc disp) (fun s th => branchAct true (th.relative disp) (linkWrite rc th) none none s th))

/-- JA: to the address in an A register. -/
def execJa (t : ThreadId) (ab : BitVec 4) (s : State) : Result :=
  .next (s.issue t (.ja t ab) (fun s th => branchAct true (th.absolute ab) [] none (some ab) s th))

/-- JAL: to the address in an A register; Dc := PC + 8. -/
def execJal (t : ThreadId) (rc : BitVec 5) (ab : BitVec 4) (s : State) : Result :=
  .next (s.issue t (.jal t rc ab) (fun s th => branchAct true (th.absolute ab) (linkWrite rc th) none (some ab) s th))

end Sys2Proof.Machine
end

