-- ==== Sys2Proof/Machine/System.lean ====
section
/-!
DEFINITION. The SYS group (R327 to R334): NOP, MFS, MTS, WFE, WTU, SEV, CALLG, RETX and FENCE, and a word that raises
an illegal instruction (R308).
-/

namespace Sys2Proof.Machine

/-! ### System registers (R334) -/

/-- R290: TID. -/
def tidOf (t : ThreadId) : Word :=
  BitVec.ofNat 64 (if isSmcThread t then (threadNo t).val + 256 else (threadNo t).val + 8 * (ridgeOf t).val)

/-- R334: the content of system register `s8` as MFS reads it. -/
def readSys (t : ThreadId) (r : CoreRegs) (s8 : BitVec 8) : Word :=
  if s8 = 0 then r.ts
  else if s8 = 1 then BitVec.ofNat 64 (field r.xpc.toNat 0 48)
  else if s8 = 2 then r.xts
  else if s8 = 3 then BitVec.ofNat 64 (field r.xcause.toNat 0 8)
  else if s8 = 4 then r.xinfo
  else if s8 = 5 then BitVec.ofNat 64 (field r.xaddr.toNat 0 48)
  else if s8 = 6 then BitVec.ofNat 64 (field r.tv.toNat 0 48)
  else if s8 = 7 then BitVec.ofNat 64 (field r.gtb.toNat 0 48)
  else tidOf t

/-- R334: the least privileged ring that may move register `s8` by MFS. -/
def mfsRing (s8 : BitVec 8) : Nat := if s8 = 0 ∨ s8 = 8 then 3 else 1

/-- R334: the least privileged ring that may move register `s8` by MTS. -/
def mtsRing (s8 : BitVec 8) : Nat := if s8 = 0 then 3 else if s8 = 6 ∨ s8 = 7 then 0 else 1

/-- R334: the width an MTS value may use. -/
def sysWidth (s8 : BitVec 8) : Nat :=
  if s8 = 1 ∨ s8 = 5 ∨ s8 = 6 ∨ s8 = 7 then 48 else if s8 = 3 then 8 else 64

/-- R334: the registers after an MTS to a register other than TS. -/
def CoreRegs.writeSys (r : CoreRegs) (s8 : BitVec 8) (v : Word) : CoreRegs :=
  if s8 = 1 then { r with xpc := v }
  else if s8 = 2 then { r with xts := v }
  else if s8 = 3 then { r with xcause := v }
  else if s8 = 4 then { r with xinfo := v }
  else if s8 = 5 then { r with xaddr := v }
  else if s8 = 6 then { r with tv := v }
  else if s8 = 7 then { r with gtb := v }
  else r

/-- R345: the privilege exception of an MFS or MTS that the ring does not allow. -/
def moveDenied (s8 : BitVec 8) : Exc := ⟨0x02, 3 + 256 * s8.toNat, 0⟩

/-- MFS. -/
def mfsAct (t : ThreadId) (rd : BitVec 5) (s8 : BitVec 8) (s : State) (th : Thread) : Act :=
  if mfsRing s8 < tsRing th.r.ts then .fault (moveDenied s8)
  else result s [writeD 0 rd (readSys t th.r s8)] 0

/-- R290, R173: MTS to TS: reserved bits or RM are illegal; a more privileged RING, or a change of GM from rings 2 and
3, is a privilege exception; otherwise the write takes effect after the mode shadow. -/
def mtsTsAct (i : Instr) (v : Word) (s : State) (th : Thread) : Act :=
  if tsReserved v || tsRmReserved v then .fault ⟨0x01, wordOf i, 0⟩
  else if tsRing v < tsRing th.r.ts then .fault ⟨0x02, 1, 0⟩
  else if 2 ≤ tsRing th.r.ts ∧ tsGM v ≠ tsGM th.r.ts then .fault ⟨0x02, 2, 0⟩
  else result s [⟨2, .ts, v.setWidth 128⟩] 0

/-- MTS. -/
def mtsAct (t : ThreadId) (i : Instr) (ra : BitVec 5) (s8 : BitVec 8) (s : State) (th : Thread) : Act :=
  let v := th.d ra
  if s8 = 0 then mtsTsAct i v s th
  else if 2 ^ sysWidth s8 ≤ v.toNat then .fault ⟨0x01, wordOf i, 0⟩
  else if mtsRing s8 < tsRing th.r.ts then .fault (moveDenied s8)
  else .complete (s.setThread t { th with r := th.r.writeSys s8 v }) [] 0 none

/-! ### Waiting (R328, R329, R332) -/

/-- The events pending for thread `t`; those of the SMC's doorbell (R262) are pending for all its threads. Choices:
log entry 32. -/
def State.eventsOf (s : State) (t : ThreadId) : BitVec 256 :=
  if isSmcThread t then (s.thread t).events ||| s.smc.events else (s.thread t).events

/-- Event `e` of thread `t` is taken. -/
def State.dropEvent (s : State) (t : ThreadId) (e : Nat) : State :=
  let s := if isSmcThread t then { s with smc := { s.smc with events := clearEvent s.smc.events e } } else s
  s.setThread t { s.thread t with events := clearEvent (s.thread t).events e }

/-- R328: the lowest eligible event of thread `t`, and the state with it taken. -/
def State.takeEvent (s : State) (t : ThreadId) (mask : BitVec 256) : Option (Nat × State) :=
  (lowestEvent (s.eventsOf t &&& mask)).map fun e => (e, s.dropEvent t e)

/-- R329: what WTU finds: the counter condition first, then an event, otherwise nothing. -/
def State.wtuResult (s : State) (t : ThreadId) (limit : Word) (mask : BitVec 256) : Option (Word × State) :=
  if limit.toNat ≤ s.bxc then some (BitVec.allOnes 64, s)
  else (s.takeEvent t mask).map fun r => (BitVec.ofNat 64 r.1, r.2)

/-- The thread parks on `p`. -/
def parkAct (t : ThreadId) (p : Park) (s : State) (th : Thread) : Act :=
  .stay (s.setThread t { th with st := .parked, park := some p })

/-- WFE. -/
def wfeAct (t : ThreadId) (rd : BitVec 5) (vm : BitVec 3) (s : State) (th : Thread) : Act :=
  match s.takeEvent t (th.v vm) with
  | some (e, s') => .complete s' [writeD 0 rd (BitVec.ofNat 64 e)] 0 none
  | none => parkAct t (.wfe rd (th.v vm)) s th

/-- WTU. -/
def wtuAct (t : ThreadId) (rd ra : BitVec 5) (vm : BitVec 3) (s : State) (th : Thread) : Act :=
  match s.wtuResult t (th.d ra) (th.v vm) with
  | some (v, s') => .complete s' [writeD 0 rd v] 0 none
  | none => parkAct t (.wtu rd (th.d ra) (th.v vm)) s th

/-- R332: every store of the thread has completed. -/
def State.storesDone (s : State) (t : ThreadId) : Bool :=
  (s.thread t).stores.isEmpty && !(s.matrix.waiting ++ s.matrix.flight).any fun x => x.m == .core t && !x.isRead && x.aux.isNone

/-- FENCE. -/
def fenceAct (t : ThreadId) (s : State) (th : Thread) : Act :=
  if s.storesDone t then result s [] 0 else parkAct t .fence s th

/-! ### Gates and return (R339 to R341, R347) -/

/-- R340: the gate fault of gate `g` with its sub-code; XADDR is the address of the entry. -/
def gateFault (g : BitVec 8) (sub addr : Nat) : Exc := ⟨0x04, g.toNat + 256 * sub, addr⟩

/-- R340: the entry address lies 8-byte aligned in the own ledge bulk. -/
def State.gateEntryOk (s : State) (t : ThreadId) (addr : Nat) : Bool :=
  addr % 8 == 0 && !isSmcThread t &&
    (match s.region addr with
      | .ledge g off => g == ridgeOf t && decide (off < 0x200000)
      | _ => false)

/-- R340: an entry's TARGET is aligned, in the own ledge and executable at TRING. -/
def State.gateTargetOk (s : State) (t : ThreadId) (target tring : Nat) : Bool :=
  target % 4 == 0 &&
    (match s.region target with
      | .ledge g _ => g == ridgeOf t
      | _ => false) && (s.deniedByte t .exec tring target 4).isNone

/-- R244, R340: the read of a gate entry counts like any read of the ledge, but raises no machine check. -/
def State.noteGateRead (s : State) (t : ThreadId) (addr : Nat) : State :=
  match s.wordClass addr with
  | .uncorrectable =>
    match s.region addr with
    | .ledge g off => (s.countOf (rgBlk g) 0x1410 16 16 1).setFieldOf (rgBlk g) 0x1410 32 22 off
    | _ => s
  | _ => s.readWordEffects (.thread t) addr

/-- CALLG: the checks of R340 in order, then the routine of four microwords (R341, R208). -/
def callgAct (t : ThreadId) (g : BitVec 8) (s : State) (th : Thread) : Act :=
  let addr := (th.r.gtb.toNat + 8 * g.toNat) % 2 ^ 48
  let ring := tsRing th.r.ts
  if th.r.gtb.toNat % 8 != 0 || !s.gateEntryOk t addr then .fault (gateFault g 0x04 addr)
  else
    let e := leNat (s.wordRead addr)
    let target := field e 0 48
    let tring := field e 48 2
    let s' := s.noteGateRead t addr
    if s.wordClass addr = .uncorrectable then .faultAfter s' (gateFault g 0x06 addr)
    else if !bitOf e 63 || field e 52 11 != 0 then .faultAfter s' (gateFault g 0x01 addr)
    else if field e 50 2 < ring then .faultAfter s' (gateFault g 0x02 addr)
    else if ring < tring then .faultAfter s' (gateFault g 0x03 addr)
    else if !s.gateTargetOk t target tring then .faultAfter s' (gateFault g 0x05 addr)
    else routineAct (.gate (BitVec.ofNat 48 target) (BitVec.ofNat 2 tring)) t s' (s'.thread t)

/-- RETX: the checks of R347 on XTS with pending writes in effect (R302), then the routine of two microwords. -/
def retxAct (t : ThreadId) (i : Instr) (s : State) (th : Thread) : Act :=
  let r := th.r.flush th.pend
  match retxCheck r with
  | .illegal => .fault ⟨0x01, wordOf i, 0⟩
  | .privilege => .fault ⟨0x05, tsRing r.xts, 0⟩
  | .ok => routineAct .retx t s th

/-! ### The instructions -/

/-- NOP: nothing. -/
def execNop (t : ThreadId) (s : State) : Result :=
  .next (s.issue t (.nop t) (fun s _ => result s [] 0))

/-- MFS: Dd := system register. -/
def execMfs (t : ThreadId) (rd : BitVec 5) (s8 : BitVec 8) (s : State) : Result :=
  .next (s.issue t (.mfs t rd s8) (mfsAct t rd s8))

/-- MTS: system register := Da. -/
def execMts (t : ThreadId) (ra : BitVec 5) (s8 : BitVec 8) (s : State) : Result :=
  .next (s.issue t (.mts t ra s8) (mtsAct t (.mts t ra s8) ra s8))

/-- WFE: waits for an event that Vm selects. -/
def execWfe (t : ThreadId) (rd : BitVec 5) (vm : BitVec 3) (s : State) : Result :=
  .next (s.issue t (.wfe t rd vm) (wfeAct t rd vm))

/-- WTU: waits for the bunch-crossing counter or an event. -/
def execWtu (t : ThreadId) (rd : BitVec 5) (ra : BitVec 5) (vm : BitVec 3) (s : State) : Result :=
  .next (s.issue t (.wtu t rd ra vm) (wtuAct t rd ra vm))

/-- SEV: posts event e to the owner tag in Da. -/
def execSev (t : ThreadId) (ra : BitVec 5) (ev : BitVec 8) (s : State) : Result :=
  .next (s.issue t (.sev t ra ev) (sevAct false t (.sev t ra ev) ra ev))

/-- CALLG: enters a gate. -/
def execCallg (t : ThreadId) (gate : BitVec 8) (s : State) : Result :=
  .next (s.issue t (.callg t gate) (callgAct t gate))

/-- RETX: returns from an exception or a gate. -/
def execRetx (t : ThreadId) (s : State) : Result :=
  .next (s.issue t (.retx t) (retxAct t (.retx t)))

/-- FENCE: waits for every store of the thread. -/
def execFence (t : ThreadId) (s : State) : Result :=
  .next (s.issue t (.fence t) (fenceAct t))

/-- ILLEGAL_INSTRUCTION: a thread that issues a word which R308 makes illegal by its own bits takes XCAUSE 0x01; the
word 0xFFFF_FFFF that an uncorrectable fetch returns raises the machine check of R286 as well. A word that
decodes is no such command and leaves the state. Choices: log entry 24. -/
def execIllegalInstruction (t : ThreadId) (word : BitVec 32) (s : State) : Result :=
  if (decode t word).isSome || !(s.thread t).canIssue then .next s
  else
    match s.fetchFault t with
    | some e => .next (s.syncException t e)
    | none =>
      let w := (s.thread t).pc.toNat / 8 * 8
      let s' := if word = BitVec.allOnes 32 && !isSmcThread t && s.wordClass w == .uncorrectable then
        s.readWordEffects (.thread t) w else s
      .next (s'.syncException t ⟨0x01, word.toNat, 0⟩)

end Sys2Proof.Machine
end

