-- ==== Sys2Proof/Machine/MatrixOps.lean ====
section
/-!
DEFINITION. The stream matrix as commands (R266 to R283): entry of a request, one grant of an arbitration point, and the end of a dust sheet.
-/

namespace Sys2Proof.Machine

/-! ### Entry (R272, R277, R279) -/

/-- R277: the ID of a request; only the scree sweep engine uses more than one. -/
def requestId (m : Master) (id : BitVec 8) : BitVec 8 :=
  match m with
  | .core t => coreId t
  | .smc => 0
  | .sweep => if id = 0 then 0 else 0xFF
  | _ => 0xFF

/-- R83: the QOS of a stream's descriptor. -/
def State.streamQos (s : State) (g : RidgeId) (slot : Fin 16) : Option Nat :=
  ((s.ridge g).streams.find? fun m => m.slot == slot).map fun m => m.e.qos

/-- R83, R281: the stream slot for which a request of QoS `qos` comes from a stream port: the first stream of the ridge
whose descriptor has that QOS. Choices: log entry 58. -/
def State.requestSlot (s : State) (m : Master) (qos : BitVec 4) : Option (Fin 16) :=
  match m with
  | .stream g _ => (List.finRange 16).find? fun k => s.streamQos g k == some qos.toNat
  | _ => none

/-- R83: a request of a stream port belongs to a stream that asks with that QOS. -/
def State.requestOk (s : State) (m : Master) (qos : BitVec 4) : Bool :=
  match m with
  | .stream _ _ => (s.requestSlot m qos).isSome
  | _ => true

/-- R268: the own ledge of a ridge is reached on its own side, not through the matrix. -/
def ownSide (m : Master) (r : Region) : Bool :=
  match m, r with
  | .stream g _, .ledge g' _ => g == g'
  | .core t, .ledge g' _ => !isSmcThread t && ridgeOf t == g'
  | .stream g _, .aliasOf _ a => decide ((a - ledgeBase) / 0x400000 = g.val ∧ ledgeBase ≤ a)
  | .core t, .aliasOf _ a => !isSmcThread t && decide ((a - ledgeBase) / 0x400000 = (ridgeOf t).val ∧ ledgeBase ≤ a)
  | _, _ => false

/-- R269, R271: what the matrix carries for master `m`. -/
def matrixCarries (m : Master) (r : Region) : Bool :=
  match r with
  | .aboveTop => false
  | .queuePort _ => false
  | r => !ownSide m r

/-- R253: an access to an alias is a naturally aligned write of 1, 2, 4 or 8 bytes. -/
def State.aliasOk (s : State) (a : Nat) (acc : Access) : Bool :=
  match s.region a, acc with
  | .aliasOf _ _, .read _ => false
  | .aliasOf _ _, .write bs => aliasShape a bs.length
  | _, _ => true

/-- MATRIX_REQUEST_ENTRY: an access of master `m` enters the matrix, or waits in its input queue; one without a path is
not forwarded. -/
def execMatrixRequestEntry (m : Master) (id : BitVec 8) (qos : BitVec 4) (addr : BitVec 48) (acc : Access) (s : State) :
    Host.Outcome State Fault Refusal :=
  let a := addr.toNat
  if s.dieOn && s.requestOk m qos && s.aliasOk a acc && s.allReach m a (accLen acc) (matrixCarries m) then
    .next (s.enterAccess m (requestId m id) qos (s.requestSlot m qos) addr acc)
  else .next s

/-! ### Grants (R274) -/

/-- The grant of arbitration point `pt`. -/
def State.ptGrant (s : State) (pt : ArbPoint) : Grant :=
  match s.matrix.grants.find? fun x => x.1 == pt with
  | some x => x.2
  | none => noGrant

/-- The state with that grant replaced. -/
def State.setPtGrant (s : State) (pt : ArbPoint) (g : Grant) : State :=
  { s with matrix := { s.matrix with grants := (s.matrix.grants.filter fun x => x.1 != pt) ++ [(pt, g)] } }

/-- R267: the target number of an arbitration point. -/
def ptTarget (pt : ArbPoint) : Nat :=
  match pt with
  | .ledge l _ => 0x20 + l.val
  | .channelTable _ => 0x42
  | .mailbox _ => 0x43
  | .special => 0x43
  | .config => 0x44

/-- The point that serves a transaction; one whose target has left the address map since it entered is answered by the
point of configuration space (DESIGN CHOICE, log entry 67). -/
def State.txnPoint (s : State) (x : Txn) : ArbPoint := (s.arbPoint x.addr.toNat).getD .config

/-- The requests that stand before `pt`. -/
def State.ptRequests (s : State) (pt : ArbPoint) : List Txn :=
  s.matrix.flight.filter fun x => !x.isDeep && s.txnPoint x == pt

/-- R230, R278: the requests that `pt` can serve: of each master the first, unless its ID has an earlier one in flight. -/
def State.ptReady (s : State) (pt : ArbPoint) : List Txn :=
  let all := s.ptRequests pt
  all.filter fun x => firstOfMaster all x && s.inTurn x

/-- R263: the owner tag under which a master acquires and releases semaphores. -/
def ownerOf (m : Master) : Fin 257 :=
  match m with
  | .core t => ownerTag t
  | _ => 256

/-- R283: an acquire that completed for a covered owner is broken. Choices: log entry 59. -/
def State.breakCovered (s : State) (owner : Fin 257) (n : Fin 256) (covered : Bool) : State :=
  let x := s.sem n
  if covered && x.holder == some owner then s.setSem n { x with breaking := true } else s

/-- A register access of the matrix (R9 to R14). -/
def State.performConfig (s : State) (x : Txn) (blk off : Nat) : State :=
  if !s.cfgReach x.m blk then s.respond x []
  else
    match x.acc with
    | .read n => (s.cfgRead blk off n).2.respond x (leBytes n (s.cfgRead blk off n).1)
    | .write bs => (s.cfgWrite false blk off bs.length (leNat bs)).respond x []

/-- A transaction is performed at its target outside the deep store, and its response goes to its master. -/
def State.performTxn (s : State) (x : Txn) : State :=
  let a := x.addr.toNat
  let who := s.requesterOf x.m
  match s.region a, x.acc with
  | .config blk off, _ => s.performConfig x blk off
  | .semaphore n, .read k =>
    let r := s.semAcquire (ownerOf x.m) n
    (r.2.breakCovered (ownerOf x.m) n (x.covered || s.ownerCovered (ownerOf x.m))).respond x (leBytes k r.1)
  | .semaphore n, .write _ => (s.semRelease (ownerOf x.m) n).respond x []
  | .doorbell _, .read k => s.respond x (List.replicate k 0)
  | .doorbell tag, .write bs => (s.ringDoorbell tag.val (leNat bs)).respond x []
  | .outside, .read n => s.bump.respond x ((List.range n).map fun k => Config.goneByte s.fresh k)
  | .outside, .write _ => s.respond x []
  | _, .read n => (s.memRead who a n).st.respond x (s.memRead who a n).bytes
  | _, .write bs => (if isIngress x.m then s.sramWrite who a bs else (s.memWrite who a bs).st).respond x []

/-- MATRIX_GRANT: arbitration point `pt` serves one transaction under its grant. Choices: log entries 10 and 58. -/
def execMatrixGrant (pt : ArbPoint) (s : State) : Host.Outcome State Fault Refusal :=
  if !s.dieOn then .next s
  else
    match serveGrant (s.ptGrant pt) (s.reg 0x04 (0x200 + 8 * ptTarget pt)) (s.ptReady pt) with
    | none => .next s
    | some (x, g) =>
      match takeFirst (fun y => y == x) s.matrix.flight with
      | none => .next s
      | some (_, rest) =>
        let left := (takeFirst (fun y => y == x) (s.ptRequests pt)).map fun r => r.2
        .next (((s.setPtGrant pt (g.settle (left.getD []))).retireTxn rest).performTxn x).promoteWaiting

/-! ### The end of a dust sheet (R282) -/

/-- R281, R282: the event that put the sheet over `p` has ended: a ridge runs again, a halted thread has drained its
stores, link groups have power; a discarded stream and a thread reset are over at once. Choices: log entry 59. -/
def State.sheetEventOver (s : State) (p : SheetPart) : Bool :=
  match p with
  | .ridge g => s.ridgeRuns g
  | .thread t => s.storesDone t
  | .stream _ _ => true
  | .group _ => s.inRun && !s.applying

/-- DUST_SHEET_LIFT: the sheet over `p` lifts once its event has ended and every covered transaction has completed.
Choices: log entry 59. -/
def execDustSheetLift (p : SheetPart) (s : State) : Host.Outcome State Fault Refusal :=
  if s.matrix.sheets.contains p && s.sheetEventOver p && !(s.matrix.flight.any fun x => x.covered && coversTxn p x) then
    .next ({ s with matrix := { s.matrix with sheets := s.matrix.sheets.filter fun q => q != p } }).promoteWaiting
  else .next s

end Sys2Proof.Machine
end

