-- ==== Sys2Proof/Machine/Slaunch.lean ====
section
/-!
DEFINITION. SLAUNCH (R90, R91): reading the descriptor, sampling, the descriptor queue and its full state.
-/

namespace Sys2Proof.Machine

/-- R9: a read of `n` bytes of configuration space at address `a`, judged as one access. -/
def State.cfgBytes (s : State) (a n : Nat) : List Byte × State :=
  let r := s.cfgRead ((a - cfgBase) / 65536) ((a - cfgBase) % 65536) n
  (leBytes n r.1, r.2)

/-- R297: the bytes that thread `t` reads at `a`, its buffered stores applied. -/
def State.readFor (s : State) (t : ThreadId) (a n : Nat) : List Byte × State :=
  match s.region a with
  | .config _ _ => s.cfgBytes a n
  | _ => s.loadBytes t a n

/-- R90: the V register that operand `p` of the descriptor names, as sampled. Choices: log entry 33. -/
def sampledV (th : Thread) (e : QEntry) (p : Pos) : BitVec 256 :=
  if e.mode p = 5 then th.v (BitVec.ofNat 3 (e.base p)) else 0

/-- R90: the queue entry of descriptor bytes `bs` at address `a`, with everything SLAUNCH samples at issue. Choices:
log entry 33. -/
def State.launchEntry (s : State) (t : ThreadId) (th : Thread) (a : Addr) (bs : List Byte) : QEntry :=
  let e : QEntry := {
    seq := 0
    dw := Vector.ofFn fun (k : Fin 8) => BitVec.ofNat 64 (leNat ((bs.drop (8 * k.val)).take 8))
    addr := a
    ring := BitVec.ofNat 2 (tsRing th.r.ts)
    maskBase := BitVec.ofNat 48 (s.reg (rgBlk (ridgeOf t)) 0x1008)
    va := 0
    vb := 0
    vd := 0
    rm := BitVec.ofNat 4 (field th.r.ts.toNat 16 4)
    dispatched := false }
  { e with va := sampledV th e .a, vb := sampledV th e .b, vd := sampledV th e .d }

/-- R91: the thread with the entry appended under its next sequence number. Choices: log entry 33. -/
def Thread.enqueue (th : Thread) (e : QEntry) : Thread :=
  { th with dq := th.dq ++ [{ e with seq := th.seqNo }], seqNo := th.seqNo + 1 }

/-- The descriptor read has to wait: for the thread's own accesses in the matrix (R278), for its buffered stores to registers
(R297), and at the deep store (R214, R219, R225, R235). A read on the own side waits for nothing. Choices: log entry 33. -/
def State.launchWaits (s : State) (t : ThreadId) (a : Nat) : Bool :=
  let own := s.accClass t a 64 == .own
  !own && (s.waitsForStores t a || (s.matrix.waiting ++ s.matrix.flight).any (fun x => x.m == .core t && x.aux.isNone)
    || s.deepHeld a 64)

/-- SLAUNCH: the descriptor at Ab is read and queued; Dt takes the sequence number; a full queue parks the thread.
Choices: log entry 33. -/
def slaunchAct (t : ThreadId) (rt : BitVec 5) (ab : BitVec 4) (s : State) (th : Thread) : Act :=
  let a := th.base ab
  match s.dataFault t .read a.toNat 64 with
  | some e => .fault e
  | none =>
    if s.launchWaits t a.toNat then .stay s
    else
    let r := s.readFor t a.toNat 64
    let e := s.launchEntry t th a r.1
    if th.dq.length < 32 then
      .complete (r.2.setThread t ((r.2.thread t).enqueue e)) [writeD 0 rt (th.seqNo.setWidth 64)] 0 none
    else .stay (r.2.setThread t { r.2.thread t with st := .parked, park := some (.queue rt e) })

/-- SLAUNCH. -/
def execSlaunch (t : ThreadId) (rt : BitVec 5) (ab : BitVec 4) (s : State) : Host.Outcome State Fault Refusal :=
  .next (s.issue t (.slaunch t rt ab) (slaunchAct t rt ab))

/-- SLAUNCH_RESUME: an SLAUNCH parked on a full queue completes once an entry is free. Choices: log entry 33. -/
def execSlaunchResume (t : ThreadId) (s : State) : Host.Outcome State Fault Refusal :=
  let th := s.thread t
  match th.park with
  | some (.queue rt e) =>
    if th.st = .parked ∧ th.dq.length < 32 then
      .next (s.setThread t ((th.enqueue e).retire [writeD 0 rt (th.seqNo.setWidth 64)] 0 none))
    else .next s
  | _ => .next s

end Sys2Proof.Machine
end

