-- ==== Sys2Proof/Machine/CoreEvents.lean ====
section
/-!
DEFINITION. What happens to a thread without issuing an instruction of its own: microwords of a scalar routine (R197,
R208 to R211), asynchronous exceptions (R348, R349), data and reservations (R275, R276, R295), the store buffer (R296), wake-ups
(R328, R329, R332), the watchdog (R353) and debug halt (R445).
-/

namespace Sys2Proof.Machine

/-! ### Scalar routines (R208) -/

/-- R208: the number of microwords of a routine. Choices: log entry 31. -/
def RoutineKind.len (k : RoutineKind) : Nat :=
  match k with
  | .result _ _ _ n => n
  | .divide _ _ _ _ n => n
  | .gate _ _ => 4
  | .retx => 2

/-- R341: the gate call, all at once; a TS write on its way still takes effect at its own position (R293). -/
def Thread.enterGate (th : Thread) (target : Addr) (ring : BitVec 2) : Thread :=
  let ts := th.r.ts.toNat
  let r := { th.r with xpc := (th.pc + 4).setWidth 64, xts := BitVec.ofNat 64 (setField ts 3 1 0) }
  let new := BitVec.ofNat 64 (setField (setField ts 0 2 ring.toNat) 2 1 1)
  { ({ th with r := r }.retire [⟨0, .ts, new.setWidth 128⟩] 0 none) with pc := target }

/-- R208, R181: the last microword: the routine's writes, or its trap. Choices: log entry 31. -/
def State.finishRoutine (s : State) (t : ThreadId) (k : RoutineKind) : State :=
  let th := { s.thread t with routine := none }
  match k with
  | .result rd v f _ =>
    if traps th.r.ts f then s.syncException t ⟨0x07, f.toNat, 0⟩ else s.setThread t (th.retire [writeD 0 rd v] f none)
  | .divide rd q rem f _ =>
    if traps th.r.ts f then s.syncException t ⟨0x07, f.toNat, 0⟩
    else
      let ws := match rem with
        | some x => [writeD 0 rd q, writeD 0 (rd + 1) x]
        | none => [writeD 0 rd q]
      s.setThread t (th.retire ws f none)
  | .gate target ring => s.setThread t (th.enterGate target ring)
  | .retx => s.setThread t th.restore

/-- The number by which the vendor library's routines of a kind are told apart. -/
def RoutineKind.code (k : RoutineKind) : Nat :=
  match k with
  | .result _ _ _ n => n
  | .divide _ _ _ _ n => 16 + n
  | .gate _ _ => 32
  | .retx => 33

/-- R190 to R192, R197: the routine's context after its next microword has issued; the words are the vendor library's.
Choices: log entry 31. -/
def Routine.afterWord (rt : Routine) : Routine :=
  let k := rt.kind.code
  let mw := (Config.vendorMicroword k rt.done).toNat
  let c := countersAfter (field mw 27 4) (Config.vendorCimm k rt.done) 0 (rt.c0, rt.c1, rt.c2)
  { rt with done := rt.done + 1, c0 := c.1, c1 := c.2.1, c2 := c.2.2, cl := Config.vendorLatches k rt.done rt.cl }

/-- R208: what the next microword, not the last one, makes visible: a quotient in the last but one. Choices: log entry
31. -/
def Thread.routineWord (th : Thread) (rt : Routine) : Thread :=
  let next := rt.afterWord
  let th := { th with routine := some next }
  match rt.kind with
  | .divide rd q _ f len =>
    if next.done + 1 = len ∧ !traps th.r.ts f then { th with r := { th.r with d := th.r.d.set rd.toNat q rd.isLt } } else th
  | _ => th

/-- R210, R211: XINFO of a routine abandoned by an asynchronous machine check after `n` microwords. Choices: log
entry 30. -/
def abandonInfo (info n : Nat) : Nat := if field info 0 8 ≤ 4 then setField info 32 3 n else info

/-- R210, R343: a machine check of a routine: a halt while GM = 1, otherwise entry with XPC at the instruction, in a delay
slot too. Choices: log entry 30. -/
def State.routineException (s : State) (t : ThreadId) (e : Exc) : State :=
  let th := s.thread t
  if tsGM th.r.ts then s.haltThread t (haltInfo e) e.addr else (s.unregister t).setThread t (th.enter e th.pc false)

/-- R349: the machine check that thread `t` takes first, and the state without it; the SMC's threads take the SMC's.
Choices: log entry 32. -/
def State.takeMCheck (s : State) (t : ThreadId) : Option (MCheck × State) :=
  match (s.thread t).mchecks, s.smc.mchecks with
  | mc :: rest, _ => some (mc, s.setThread t { s.thread t with mchecks := rest })
  | [], mc :: rest => if isSmcThread t then some (mc, { s with smc := { s.smc with mchecks := rest } }) else none
  | [], [] => none

/-- R210: a machine check pending with GM = 0 abandons the routine after its microword `n`. Choices: log entry 30. -/
def State.abandonRoutine (s : State) (t : ThreadId) (n : Nat) : State :=
  if tsGM (s.thread t).r.ts then s
  else
    match s.takeMCheck t with
    | some (mc, s') => s'.routineException t ⟨0x21, abandonInfo mc.info.toNat n, mc.addr.toNat⟩
    | none => s

/-- R205, R210: a microword of the routine fails parity; `done` microwords have completed. Choices: log entry 30. -/
def State.routineParity (s : State) (t : ThreadId) (done : Nat) (pf : ParityFail) : State :=
  let s := if isSmcThread t then s else s.noteParity (ridgeOf t) true pf
  s.routineException t ⟨if done = 0 then 0x20 else 0x21, parityInfo (paritySource true pf) pf done, 0⟩

/-- CORE_ROUTINE_STEP: one microword of the routine of thread `t` issues. Choices: log entry 31. -/
def execCoreRoutineStep (t : ThreadId) (pf : Option ParityFail) (s : State) : Host.Outcome State Fault Refusal :=
  let th := s.thread t
  match th.routine with
  | none => .next s
  | some rt =>
    match pf with
    | some p => .next (s.routineParity t rt.done p)
    | none =>
      if rt.done + 1 < rt.kind.len then
        .next ((s.setThread t (th.routineWord rt)).abandonRoutine t (rt.done + 1))
      else .next (s.finishRoutine t rt.kind)

/-! ### Asynchronous exceptions (R348, R349) -/

/-- R348: thread `t` samples asynchronous sources: at an instruction boundary outside a delay slot and a routine, or
parked in WFE or WTU, with GM = 0. Choices: log entry 32. -/
def Thread.samples (th : Thread) : Bool :=
  !tsGM th.r.ts && th.routine.isNone &&
    match th.st, th.park with
    | .running, _ => th.slot.isNone
    | .parked, some (.wfe _ _) => true
    | .parked, some (.wtu _ _ _) => true
    | _, _ => false

/-- CC_IENt_0 to CC_IENt_3 of a ridge thread (R352); the SMC instance has none and its enables stay at zero.
Choices: log entry 32. -/
def State.enables (s : State) (t : ThreadId) : BitVec 256 :=
  if isSmcThread t then 0
  else BitVec.ofNat 256 ((List.range 4).map fun k => s.reg (rgBlk (ridgeOf t)) (0x1540 + 0x20 * (threadNo t).val + 8 * k) * 2 ^ (64 * k)).sum

/-- An asynchronous entry: XPC is the next instruction to issue, or the WFE or WTU that is abandoned (R343).
Choices: log entry 32. -/
def State.asyncEnter (s : State) (t : ThreadId) (e : Exc) : State :=
  let s := s.unregister t
  s.setThread t ((s.thread t).enter e (s.thread t).pc false)

/-- R328: the events that a parked WFE or WTU takes itself, and that interrupt nothing. -/
def Thread.awaited (th : Thread) : BitVec 256 :=
  match th.park with
  | some (.wfe _ mask) => mask
  | some (.wtu _ _ mask) => mask
  | _ => 0

/-- ASYNC_EXCEPTION: the first ready source of R349 is taken at a boundary of thread `t`. -/
def execAsyncException (t : ThreadId) (s : State) : Host.Outcome State Fault Refusal :=
  let th := s.thread t
  if !th.samples then .next s
  else
    match s.takeMCheck t with
    | some (mc, s') => .next (s'.asyncEnter t ⟨0x20, mc.info.toNat, mc.addr.toNat⟩)
    | none =>
      if th.warnPending then .next ((s.setThread t { th with warnPending := false }).asyncEnter t ⟨0x10, 0x100, 0⟩)
      else
        match s.takeEvent t (s.enables t &&& ~~~th.awaited) with
        | some (e, s') => .next (s'.asyncEnter t ⟨0x10, e, 0⟩)
        | none => .next s

/-! ### Loads that park, reservations, stores (R275, R276, R295, R296) -/

/-- The pieces of the load on which thread `t` is parked that have entered the matrix, in order. -/
def State.loadPieces (s : State) (t : ThreadId) : List Txn := s.matrix.flight.filter fun x => x.m == .core t && s.ofParkedLoad x

/-- The load has sent a piece that waits to enter the matrix. -/
def State.loadQueued (s : State) (t : ThreadId) : Bool := s.matrix.waiting.any fun x => x.m == .core t && s.ofParkedLoad x

/-- A piece of a load cannot be served yet: an earlier access of its ID is incomplete (R278), or it or what the window logic
makes for it waits at the deep store (R214, R218, R219, R225, R235). -/
def State.pieceWaits (s : State) (x : Txn) : Bool :=
  let busy := match s.txnPlace x with
    | .windowed n _ _ => s.flagOf 0x10 (0x100 + 8 * n) 50
    | _ => false
  !s.inTurn x || (x.isDeep && s.dram.outage == 0 && (busy || s.deepWaits x
    || s.matrix.flight.any fun y => companionOf x y && s.deepWaits y))

/-- A piece of a load is served with what the window logic makes for it. -/
def State.servePiece (s : State) (x : Txn) : State :=
  if s.pieceWaits x then s
  else
    let s := s.retireTxn (s.matrix.flight.filter fun y => y != x && !companionOf x y)
    if x.isDeep then s.performDeep x 0 else s.performTxn x

/-- R295: a load whose bytes have all come back completes, with the thread's stores of its issue applied (R297). -/
def State.finishLoad (s : State) (t : ThreadId) : State :=
  match (s.thread t).park with
  | some (.load addr signed rt sz fwd got) =>
    let a := addr.toNat
    let bytes := (List.range (szBytes sz)).map fun i => got.find? fun c => c.1 == a + i
    if bytes.all fun b => b.isSome then
      let bs := bytes.map fun b => (b.map fun c => c.2).getD 0
      s.setThread t ((s.thread t).retire (loadWrites 0 signed rt sz (forward a fwd bs)) 0 none)
    else s
  | _ => s

/-- R297: a load that waited for its thread's buffered stores enters the matrix once they have left. -/
def State.sendLoad (s : State) (t : ThreadId) : State :=
  match (s.thread t).park with
  | some (.load addr _ _ sz _ got) =>
    if got.isEmpty && !s.waitsForStores t addr.toNat && (s.loadPieces t).isEmpty && !s.loadQueued t then
      s.enterAccess (.core t) (coreId t) 0 none addr (.read (szBytes sz))
    else s
  | _ => s

/-- LOAD_DATA_RETURN: the data of a parked load arrives: what of it no grant has served yet is served now, as far as nothing
keeps it waiting, and the thread resumes with the last byte. Choices: log entry 58. -/
def execLoadDataReturn (t : ThreadId) (s : State) : Host.Outcome State Fault Refusal :=
  match (s.thread t).st, (s.thread t).park with
  | .parked, some (.load _ _ _ _ _ _) =>
    if s.sheeted (.core t) then .next s
    else
      let s := s.sendLoad t
      .next (((s.loadPieces t).foldl State.servePiece s).finishLoad t).promoteWaiting
  | _, _ => .next s

/-- A held instruction issued again with its reservation granted. -/
def grantedAct (t : ThreadId) (i : Instr) : State → Thread → Act :=
  match i with
  | .ld _ rt ab sz disp => loadAct true t i false rt ab sz disp
  | .lds _ rt ab sz disp => loadAct true t i true rt ab sz disp
  | .st _ rt ab sz disp => stAct true t i rt ab sz disp
  | .sev _ ra ev => sevAct true t i ra ev
  | _ => fun s _ => .stay s

/-- The address that a held instruction accesses. -/
def Thread.heldAddr (th : Thread) (i : Instr) : Nat :=
  match i with
  | .ld _ _ ab _ disp => (th.ea ab disp).toNat
  | .lds _ _ ab _ disp => (th.ea ab disp).toNat
  | .st _ _ ab _ disp => (th.ea ab disp).toNat
  | .sev _ ra _ => mbxBase + 0x41000 + 8 * (th.d ra).toNat
  | _ => 0

/-- R275, R278: requests that a hold or a dust sheet kept back and that nothing keeps back any longer are registered at
`pt`. -/
def State.registerHeld (s : State) (pt : ArbPoint) : State :=
  (List.finRange 264).foldl (fun (s : State) (t : ThreadId) =>
    let th := s.thread t
    match th.held with
    | some h =>
      if h.pt == pt && !(s.matrix.requests.any fun r => r.1 == t) && !s.orderHeld t (th.heldAddr h.i) && !s.sheeted (.core t) then
        s.register t pt
      else s
    | none => s) s

/-- R276: the thread whose request is granted next at `pt`: the first registered of the ridge next in the round. -/
def State.nextReservation (s : State) (pt : ArbPoint) : Option ThreadId :=
  (List.range 32).findSome? fun k =>
    let g := (s.lastGranted pt + 1 + k) % 32
    (s.matrix.requests.find? fun r => r.2 == pt && (ridgeOf r.1).val == g).map fun r => r.1

/-- RESERVATION_GRANT: `pt` may grant again, and grants one reservation; the instruction that waited for it issues. Choices:
log entry 58. -/
def execReservationGrant (pt : ArbPoint) (s : State) : Host.Outcome State Fault Refusal :=
  let s := s.registerHeld pt
  match s.nextReservation pt with
  | none => .next { s with matrix := { s.matrix with granted := s.matrix.granted.filter fun p => p != pt } }
  | some t =>
    let th := s.thread t
    match th.held with
    | none => .next (s.unregister t)
    | some h =>
      let s := ((s.unregister t).noteGranted pt (ridgeOf t)).setThread t { th with held := none }
      .next (s.issue t h.i (grantedAct t h.i))

/-- STORE_BUFFER_RELEASE: the oldest buffered store of thread `t` is written, on its own side or at a fixed distance, or
goes to the matrix, where R278 to R280 may keep its pieces in the input queues. Choices: log entry 58. -/
def execStoreBufferRelease (t : ThreadId) (s : State) : Host.Outcome State Fault Refusal :=
  let th := s.thread t
  match th.stores with
  | [] => .next s
  | e :: rest =>
    let popped := s.setThread t { th with stores := rest }
    match s.accClass t e.addr.toNat e.bytes.length with
    | .parks => .next (popped.enterAccess (.core t) (coreId t) 0 none e.addr (.write e.bytes))
    | _ => .next (popped.performStore t e)

/-! ### Wake-ups (R328, R329, R332) -/

/-- WFE_WAKE: an event became eligible for a thread parked in WFE. -/
def execWfeWake (t : ThreadId) (s : State) : Host.Outcome State Fault Refusal :=
  match (s.thread t).st, (s.thread t).park with
  | .parked, some (.wfe rd mask) =>
    match s.takeEvent t mask with
    | some (e, s') => .next (s'.setThread t ((s'.thread t).retire [writeD 0 rd (BitVec.ofNat 64 e)] 0 none))
    | none => .next s
  | _, _ => .next s

/-- WTU_WAKE: the counter has reached the limit, or an event became eligible, for a thread parked in WTU. -/
def execWtuWake (t : ThreadId) (s : State) : Host.Outcome State Fault Refusal :=
  match (s.thread t).st, (s.thread t).park with
  | .parked, some (.wtu rd limit mask) =>
    match s.wtuResult t limit mask with
    | some (v, s') => .next (s'.setThread t ((s'.thread t).retire [writeD 0 rd v] 0 none))
    | none => .next s
  | _, _ => .next s

/-- FENCE_COMPLETE: every earlier store of a thread parked in FENCE has completed. -/
def execFenceComplete (t : ThreadId) (s : State) : Host.Outcome State Fault Refusal :=
  let th := s.thread t
  match th.st, th.park with
  | .parked, some .fence => if s.storesDone t then .next (s.setThread t (th.retire [] 0 none)) else .next s
  | _, _ => .next s

/-! ### Watchdog and debug (R353, R445) -/

/-- WATCHDOG_EXPIRY: the count of a running or parked thread reaches zero: the warning the first time, the bite the second. -/
def execWatchdogExpiry (g : RidgeId) (n : Fin 8) (s : State) : Host.Outcome State Fault Refusal :=
  let t := threadOf g n
  let th := s.thread t
  let off := 0x1640 + 8 * n.val
  let period := s.fieldOf (rgBlk g) off 0 32
  if period = 0 ∨ !(th.st == .running || th.st == .parked) then .next s
  else if s.flagOf (rgBlk g) off 33 then .next (s.haltThread t 0x10000 0)
  else .next ((s.setThread t { th with warnPending := true, wdCount := 1024 * period }).setFlagOf (rgBlk g) off 33 true)

/-- R445: the life-cycle state lets debug halt thread `t`. -/
def State.mayDebug (s : State) (t : ThreadId) : Bool :=
  match s.life with
  | .test => true
  | .ret => true
  | .ownedDebug => !isSmcThread t && decide (1 ≤ tsRing (s.thread t).r.ts)
  | _ => false

/-- DEBUG_HALT: like a halt under R350, but no XCAUSE is written, and no XINFO and XADDR, which describe one. -/
def execDebugHalt (t : ThreadId) (s : State) : Host.Outcome State Fault Refusal :=
  let th := s.thread t
  if s.mayDebug t && (th.st == .running || th.st == .parked) then
    let s' := s.haltThread t 0 0
    let h := s'.thread t
    .next (s'.setThread t { h with r := { h.r with xcause := th.r.xcause, xinfo := th.r.xinfo, xaddr := th.r.xaddr } })
  else .next s

end Sys2Proof.Machine
end

