-- ==== Sys2Proof/Machine/Placement.lean ====
section
/-!
DEFINITION. The placement rule of R50 over sites and over slots, and the repairs that a power-up rebuilds from the
committed records of the cairn log (R476).
-/

namespace Sys2Proof.Machine

/-! ### Placement (R50) -/

/-- The lowest of the first `top` places that is not retired, not named in the image's map and not taken. -/
def freePlace (retired : Nat → Bool) (top : Nat) (named taken : List Nat) : Option Nat :=
  (List.range top).find? fun p => !retired p && !named.contains p && !taken.contains p

/-- R50: places in order; each item keeps its place `x` unless that is retired. -/
def placeItems (retired : Nat → Bool) (top : Nat) (named taken xs : List Nat) : List (Option Nat) :=
  match xs with
  | [] => []
  | x :: rest =>
    if !retired x then some x :: placeItems retired top named (x :: taken) rest
    else
      match freePlace retired top named taken with
      | some y => some y :: placeItems retired top named (y :: taken) rest
      | none => none :: placeItems retired top named taken rest

/-- The number of retired slots of a site. -/
def Site.retiredSlots (x : Site) : Nat := ((List.range 18).filter fun k => bitOf x.retired.toNat k).length

/-- R50: a site counts as retired if it is recorded so or if more than 2 of its slots are. -/
def State.siteRetired (s : State) (st : Nat) : Bool :=
  match s.repair.sites[st]? with
  | some x => x.st == 3 || decide (2 < x.retiredSlots)
  | none => true

/-- R50: the sites of RG00 to RG31 under the ridge map `map`. -/
def State.placeSites (s : State) (map : List Nat) : List (Option Nat) := placeItems s.siteRetired 34 map [] map

/-- R50: the slots of lanes 0 to 15 of site `st` under its lane map. -/
def State.placeLanes (s : State) (st : SiteId) (lanes : List Nat) : List (Option Nat) :=
  placeItems (fun k => s.slotRetired st k) 18 lanes [] lanes

/-- A site number as an index. -/
def siteOfNat (n : Option Nat) : Option SiteId :=
  match n with
  | some k => if h : k < 34 then some ⟨k, h⟩ else none
  | none => none

/-- R477: STATE of a site that carries a ridge or not after a placement; a freed site is untested. -/
def siteState (carries : Bool) (old : BitVec 2) : BitVec 2 :=
  if old = 3 then 3 else if carries then 0 else if old = 0 then 2 else old

/-- The effective site map of an image: `map` places the ridges, `lanes` gives each site's lane map. -/
def State.placeImage (s : State) (map : List Nat) (lanes : SiteId → List Nat) : State :=
  let sites := s.placeSites map
  let siteOf : Vector (Option SiteId) 32 := Vector.ofFn fun g => siteOfNat (nth none sites g.val)
  let s := siteIds.foldl (fun (s : State) st =>
    (List.range 16).foldl (fun (s : State) k =>
      s.setLaneSlot st k ((nth none (s.placeLanes st (lanes st)) k).getD (nth k (lanes st) k))) s) s
  { s with repair := { s.repair with
      sites := Vector.ofFn fun st => { s.repair.sites[st] with
        st := siteState (siteOf.toList.contains (some st)) (s.repair.sites[st]).st } } }.remapSites siteOf

/-- R31: the vendor library's site map: RGn on STn, lane k on slot k. -/
def State.placeDefault (s : State) : State := s.placeImage (List.range 32) fun _ => List.range 16

/-! ### Records of repairs (R468) -/

/-- The items that name an SRAM bank in a record: memory, ridge, bank. -/
def bankItems (b : SramBank) : List Nat :=
  match b with
  | .bulk g k => [0, g.val, k.val]
  | .saddle g k => [1, g.val, k.val]
  | .channelTable k => [2, 0, k.val]
  | .mailbox k => [3, 0, k.val]

/-- The SRAM bank that a record names. -/
def bankOfItems (xs : List Nat) : SramBank :=
  let g : RidgeId := ⟨nth 0 xs 1 % 32, by omega⟩
  let k := nth 0 xs 2
  match nth 0 xs 0 with
  | 0 => .bulk g ⟨k % 32, by omega⟩
  | 1 => .saddle g ⟨k % 2, by omega⟩
  | 2 => .channelTable ⟨k % 16, by omega⟩
  | _ => .mailbox ⟨k % 8, by omega⟩

/-- The owner of the scaffold bank that stands in for `b`; mailbox banks have none (R450). -/
def scaffoldFor (b : SramBank) : Option ScaffoldOf :=
  match b with
  | .bulk g _ => some (.ledge g)
  | .saddle g _ => some (.ledge g)
  | .channelTable _ => some .channelTable
  | .mailbox _ => none

/-- R249: a recorded bank is replaced by the scaffold bank, or left out when another bank has it. Choices: log entry
56. -/
def Sram.rebuildBank (m : Sram) (b : SramBank) : Sram :=
  if m.replaced.contains b || m.lost.contains b then m
  else if m.replaced.any fun x => scaffoldFor x == scaffoldFor b then { m with lost := m.lost ++ [b], recordedBad := m.recordedBad ++ [b] }
  else { m with replaced := m.replaced ++ [b] }

/-- R476: one committed record's part in the repairs. Choices: log entry 56. -/
def State.rebuildFrom (s : State) (r : Record) : State :=
  let st : SiteId := ⟨nth 0 r.items 0 % 34, by omega⟩
  match r.typ.toNat with
  | 0x0100 => s.setSite st { s.site st with st := 3 }
  | 0x0101 => s.setSite st { s.site st with retired := (s.site st).retired ||| BitVec.ofNat 18 (2 ^ nth 0 r.items 1) }
  | 0x0103 => { s with sram := { s.sram with rows := s.sram.rows ++ [(bankOfItems r.items, nth 0 r.items 3)] } }
  | 0x0104 => { s with sram := s.sram.rebuildBank (bankOfItems r.items) }
  | 0x0105 =>
    let pb := nth 0 r.items 0
    { s with dram := { s.dram with recordedBad := if s.dram.recordedBad.contains pb then s.dram.recordedBad else s.dram.recordedBad ++ [pb] } }
  | _ => s

/-- A record put in its place in SEQ order; a second record with the same SEQ is the same record. -/
def insertRecord (r : Record) (rs : List Record) : List Record :=
  match rs with
  | [] => [r]
  | x :: rest => if r.seq < x.seq then r :: x :: rest else if r.seq = x.seq then x :: rest else x :: insertRecord r rest

/-- R469: the committed records of both segments, each SEQ once, in SEQ order. Choices: log entry 56. -/
def Cairn.committed (c : Cairn) : List Record := (c.seg0 ++ c.seg1).foldr insertRecord []

/-- R453: the item that the latest progress record names. -/
def Cairn.progress (c : Cairn) : Nat :=
  match (c.committed.filter fun r => r.typ == 0x0008).getLast? with
  | some r => nth 0 r.items 1
  | none => 0

/-! ### Power-up (R431, R476) -/

/-- R430, R483: what flash keeps. -/
def Smc.flash (x : Smc) : Smc :=
  { Smc.reset with
    slotA := x.slotA
    slotB := x.slotB
    ctStore := x.ctStore
    ctLen := x.ctLen
    fw0 := x.fw0
    fw1 := x.fw1
    prefB := x.prefB
    cert := x.cert
    erasing := x.erasing }

/-- R467, R476: the log at power-up: committed records stay, queued ones are gone, the next SEQ is one above the
highest. Choices: log entry 56. -/
def Cairn.powerUp (c : Cairn) : Cairn :=
  { c with
    queue := []
    waiting := []
    nextSeq := c.committed.foldl (fun n r => max n (r.seq + 1)) 1
    boot := c.boot + 1 }

/-- R476, R483, R485: the module as VCORE_AON comes up: fuses, flash, sampled pins and
packets already sent stay, the repairs come from the log,
everything else is at its reset value, and the deep store holds unspecified bytes. -/
def State.powerUp (s : State) : State :=
  let base : State := { State.reset with
    pending := s.pending
    fresh := s.fresh
    readData := s.readData
    fuses := s.fuses
    dram := { Dram.reset with epoch := s.dram.epoch + 1 }
    smc := s.smc.flash
    mgt := { Mgt.reset with upOut := s.mgt.upOut, downOut := s.mgt.downOut }
    cairn := s.cairn.powerUp
    repair := { Repair.reset with itemIndex := s.cairn.progress }
    power := { Power.reset with st := .standby, holdStby := s.power.holdStby, head := s.power.head, refext := s.power.refext } }
  (s.cairn.committed.foldl (fun (b : State) r => b.rebuildFrom r) base).placeDefault

end Sys2Proof.Machine
end

