-- ==== Sys2Proof/Machine/PowerOps.lean ====
section
/-!
DEFINITION. Stopping ridges and moving between power states (R51, R483 to R485): the operations that power commands, lath
operations and failures share.
-/

namespace Sys2Proof.Machine

/-! ### Stopping ridges (R51, R281, R303) -/

/-- A ridge without streams, chain activity, a re-lath or a lane swap; stores, faults and sweep state stay. -/
def Ridge.stopped (r : Ridge) : Ridge :=
  { r with
    streams := []
    ports := Vector.replicate 16 ChainPort.reset
    groups := []
    rrThread := 0
    rrSlot := 0
    draining := false
    relath := false
    swap := none }

/-- R265: a semaphore held by a ridge thread gets a break on its way. Choices: log entry 59. -/
def Sem.orphan (x : Sem) : Sem :=
  match x.holder with
  | some h => if h.val < 256 then { x with breaking := true } else x
  | none => x

/-- R51, R95, R265, R281, R303: every ridge is reset: streams and descriptors discarded without a status record, threads in
the reset state, masters under the dust sheet. -/
def State.resetRidges (s : State) : State :=
  let threads : Vector Thread 264 := Vector.ofFn fun t => if t.val < 256 then Thread.reset else s.threads[t]
  let s := { s with
    threads := threads
    ridges := s.ridges.map Ridge.stopped
    chains := Vector.replicate 16 ChainInst.reset
    queues := s.queues.map fun q => { q with entering := [] }
    sram := { s.sram with sems := s.sram.sems.map Sem.orphan }
    matrix := { s.matrix with requests := s.matrix.requests.filter fun r => isSmcThread r.1 } }
  ridgeIds.foldl (fun (s : State) g => (s.cover (.ridge g)).dropWaiting (.ridge g)) s

/-- R51, R381, R390, R397: ridges and link groups reset, queues flushed, the col path quiet until the next marker. -/
def State.stopAll (s : State) (apply : Bool) : State := ((s.resetRidges.resetGroups apply).colWait).flushQueues

/-! ### Sweep and repair in progress -/

/-- SWP_STATUS.ACTIVE and KIND: the sweep is at work on items of kind `kind`, or on none. -/
def State.sweepKind (s : State) (kind : Nat) : State :=
  (s.setFlagOf 0x0B 0x08 1 (kind != 0)).setFieldOf 0x0B 0x08 4 4 kind

/-- The item, borrow, move and swaps in progress end without a result. -/
def State.dropRepairs (s : State) : State :=
  let clear (r : Ridge) : Ridge := { r with moving := false, swap := none }
  { s with
    sram := { s.sram with borrow := none }
    dram := { s.dram with testing := [] }
    ridges := s.ridges.map clear
    repair := { s.repair with move := none, moveQueue := [], swapQueue := [], items := [], postponed := [] } }.sweepKind 0

/-! ### Transitions (R485) -/

/-- R63, R483: the regulated domains leave their settings: CODE 0, no alarm, nothing settled. -/
def State.domainsOff (s : State) : State :=
  let s := domains.foldl (fun (s : State) n => s.domainOff n) s
  ((s.setFlagOf 0x03 0x08 1 false).setFlagOf 0x03 0x08 2 false).setFlagOf 0x03 0x08 4 false

/-- R483, R485: RUN is left for IDLE: ridges and link groups reset, ledges, stores, channel table and mailbox in retention. -/
def State.enterIdle (s : State) : State :=
  let s := ((s.stopAll false).dropRepairs).domainsOff
  let queues : Vector AlnQueue 16 := Vector.replicate 16 AlnQueue.reset
  { s with
    queues := queues
    power := { s.power with st := .idle, idleFromStandby := false, ctRetained := true, mbxRetained := true } }

/-- A ridge whose site has lost its supplies: what the SMC knows about it stays. -/
def Ridge.dark (r : Ridge) : Ridge :=
  { Ridge.reset with
    failedWords := r.failedWords
    offline := r.offline
    sweepQueued := r.sweepQueued
    siteFaulty := r.siteFaulty }

/-- R483: IDLE is left for STANDBY: the die and the deep store lose everything; SMC memory stays. Choices: log entry
48. -/
def State.enterStandby (s : State) : State :=
  let s := s.dropRepairs
  let s := s.resetRegs fun key => !aonBlock (key / 65536)
  { s with
    sram := { s.sram with mem := [], flips := [], writeback := [], tags := [], sems := Vector.replicate 256 Sem.reset }
    dram := { s.dram.lose with
      map := []
      owed := []
      grants := []
      retraining := []
      retrained := []
      recentring := []
      refreshed := []
      migQueue := []
      outage := 0
      lostNow := [] }
    threads := Vector.ofFn fun t => if t.val < 256 then Thread.reset else s.threads[t]
    ridges := s.ridges.map Ridge.dark
    chains := Vector.replicate 16 ChainInst.reset
    matrix := Matrix.reset
    groups := Vector.replicate 16 LinkGroup.reset
    sides := Vector.replicate 128 LinkSide.reset
    col := Col.reset
    queues := Vector.replicate 16 AlnQueue.reset
    timer := Timer.reset
    servo := Vector.replicate 35 ⟨0, 0⟩
    power := { s.power with st := .standby, ctRetained := false, mbxRetained := false } }

/-- R472, R473 step 1, R483: nothing runs and the die is off; SMC memory stays while VCORE_AON holds. -/
def State.enterOff (s : State) : State :=
  let s := s.enterStandby
  { s with power := { s.power with st := .off, target := none } }

/-! ### STANDBY to IDLE (R217, R237, R484) -/

/-- R217: the outcome of training: TRAINED, or LOST. -/
def State.trainAll (s : State) (trained : BitVec 32) : State :=
  ifaces.foldl (fun (s : State) i => s.setFieldOf (dsBlk i) 0x08 1 2 (if trained.getLsbD i.val then 1 else 2)) s

/-- R468: an interface lost now that the log does not name yet is recorded with the new number of slots. -/
def State.recordLost (s : State) : State :=
  let known (i : Fin 32) : Bool :=
    (s.cairn.committed ++ s.cairn.queue).any fun r => r.typ == 0x0106 && nth 0 r.items 0 == i.val
  (ifaces.filter fun i => s.lostIf i && !known i).foldl (fun (s : State) i => s.note 0x0106 [i.val, s.slots]) s

/-- R484, R400: the die comes up with its registers at reset; memories initialised, bank map built, no bunch clock yet. -/
def State.dieUp (s : State) (trained : BitVec 32) : State :=
  let s := ((s.trainAll trained).buildMap).recordLost
  let s := (((s.setFlagOf 0x07 0x08 2 true).setFlagOf 0x07 0x08 3 true).setFlagOf 0x07 0x08 4 true).setFlagOf 0x07 0x08 7 s.power.refext
  { s with power := { s.power with st := .idle, idleFromStandby := true, ctRetained := true, mbxRetained := true } }

/-! ### Thermal limits (R488) -/

/-- R488: every reading of the trip is at least 10 degrees C below its trip point. Choices: log entry 48. -/
def Power.cool (p : Power) : Bool :=
  !p.thermal || decide (p.domainT ≤ 95 ∧ p.dramT ≤ 85 ∧ p.plateT ≤ 60)

end Sys2Proof.Machine
end

