-- ==== Sys2Proof/Machine/CairnLog.lean ====
section
/-!
DEFINITION. The cairn log (R466 to R470): the bytes of a record, commits and compaction.
-/

namespace Sys2Proof.Machine

/-- R467: the 256 bytes of a record. Choices: log entry 14. -/
def recordBytes (r : Record) : List Byte :=
  let head := leBytes 4 r.seq ++ leBytes 2 r.typ.toNat ++ leBytes 2 r.body.length ++ leBytes 4 r.boot.toNat ++ leBytes 4 r.ms.toNat
    ++ leBytes 8 r.tod.toNat ++ leBytes 8 r.bxc.toNat
  let bs := head ++ r.body ++ List.replicate (220 - r.body.length) 0
  bs ++ leBytes 4 (crc32c bs)

/-- The segment that takes new records. -/
def Cairn.segment (c : Cairn) : List Record := if c.active1 then c.seg1 else c.seg0
/-- The log with that segment replaced. -/
def Cairn.setSegment (c : Cairn) (rs : List Record) : Cairn := if c.active1 then { c with seg1 := rs } else { c with seg0 := rs }
/-- The other segment. -/
def Cairn.otherSegment (c : Cairn) : List Record := if c.active1 then c.seg0 else c.seg1
/-- The log with the other segment erased. -/
def Cairn.eraseOther (c : Cairn) : Cairn := if c.active1 then { c with seg0 := [] } else { c with seg1 := [] }

/-- R470: compaction begins when the active segment holds 49,152 records: new ones go to the other segment. -/
def Cairn.startCompaction (c : Cairn) : Cairn :=
  if !c.compacting && decide (49152 ≤ c.segment.length) then { c with active1 := !c.active1, compacting := true } else c

/-- R469: a waiting record is queued when an entry is free. -/
def State.admitWaiting (s : State) : State :=
  match s.cairn.waiting with
  | (typ, body, items) :: rest =>
    if s.cairn.queue.length < 8 then ({ s with cairn := { s.cairn with waiting := rest } }).enqueueRecord typ body items else s
  | [] => s

/-- R469: the first queued record is committed. -/
def State.commitRecord (s : State) : State :=
  match s.cairn.queue with
  | r :: rest =>
    let c := (s.cairn.setSegment (s.cairn.segment ++ [r])).startCompaction
    ({ s with cairn := { c with queue := rest } }).admitWaiting
  | [] => s

/-- R473 step 3, R488 step 2: every queued record is committed, with `n` bounding their number. -/
def State.commitRecords (n : Nat) (s : State) : State :=
  match n with
  | 0 => s
  | n + 1 => if s.cairn.queue.isEmpty then s else (s.commitRecord).commitRecords n

/-- Every record queued or waiting is committed. -/
def State.drainLog (s : State) : State := s.commitRecords (s.cairn.queue.length + s.cairn.waiting.length)

/-- The SMC can program flash: it has power, or runs from the charge that a PFAIL leaves it. -/
def State.flashOn (s : State) : Bool := s.on || (s.power.pfail.isSome && !s.power.drained)

/-- RECORD_COMMIT: the first queued record is programmed and verified. -/
def execRecordCommit (s : State) : Host.Outcome State Fault Refusal :=
  if s.flashOn then .next s.commitRecord else .next s

/-- R470 step 2: the records copied: every repair record, then the newest others until the copies number 16,384. -/
def compactionCopies (old : List Record) : List Record :=
  let repairs := old.filter fun r => isRepairRecord r.typ.toNat
  let others := old.filter fun r => !isRepairRecord r.typ.toNat
  repairs ++ others.drop (others.length - (16384 - repairs.length))

/-- The lowest SEQ of some records. -/
def lowestSeq (rs : List Record) : Nat :=
  match rs with
  | [] => 0
  | [r] => r.seq
  | r :: rest => min r.seq (lowestSeq rest)

/-- COMPACTION_COMPLETE: the copies and the compaction record follow the records appended meanwhile, and the old segment is
erased. -/
def execCompactionComplete (s : State) : Host.Outcome State Fault Refusal :=
  if !s.cairn.compacting || !s.on then .next s
  else
    let s := s.drainLog
    let kept := s.cairn.segment ++ compactionCopies s.cairn.otherSegment
    let low := lowestSeq kept
    let r := s.newRecord 0x0009 ((Config.recordBody 0x0009 [low]).take 220) [low]
    .next { s with cairn := { (s.cairn.setSegment (kept ++ [r])).eraseOther with nextSeq := s.cairn.nextSeq + 1, compacting := false } }

end Sys2Proof.Machine
end

