-- ==== Sys2Proof/Machine/Crypto.lean ====
section
/-!
DEFINITION. The cryptographic functions that the spec names (R41, R428, R437): SHA-384 (FIPS 180-4), HMAC and HKDF over it
(RFC 2104, RFC 5869), and ECDSA over P-384 (FIPS 186-5, SEC 1).
-/

namespace Sys2Proof.Machine

/-! ### SHA-384 -/

/-- The round constants: the first 64 bits of the fractional parts of the cube roots of the first 80 primes. -/
def shaK : List Word :=
  [0x428a2f98d728ae22, 0x7137449123ef65cd, 0xb5c0fbcfec4d3b2f, 0xe9b5dba58189dbbc,
   0x3956c25bf348b538, 0x59f111f1b605d019, 0x923f82a4af194f9b, 0xab1c5ed5da6d8118,
   0xd807aa98a3030242, 0x12835b0145706fbe, 0x243185be4ee4b28c, 0x550c7dc3d5ffb4e2,
   0x72be5d74f27b896f, 0x80deb1fe3b1696b1, 0x9bdc06a725c71235, 0xc19bf174cf692694] ++
  [0xe49b69c19ef14ad2, 0xefbe4786384f25e3, 0x0fc19dc68b8cd5b5, 0x240ca1cc77ac9c65,
   0x2de92c6f592b0275, 0x4a7484aa6ea6e483, 0x5cb0a9dcbd41fbd4, 0x76f988da831153b5,
   0x983e5152ee66dfab, 0xa831c66d2db43210, 0xb00327c898fb213f, 0xbf597fc7beef0ee4,
   0xc6e00bf33da88fc2, 0xd5a79147930aa725, 0x06ca6351e003826f, 0x142929670a0e6e70] ++
  [0x27b70a8546d22ffc, 0x2e1b21385c26c926, 0x4d2c6dfc5ac42aed, 0x53380d139d95b3df,
   0x650a73548baf63de, 0x766a0abb3c77b2a8, 0x81c2c92e47edaee6, 0x92722c851482353b,
   0xa2bfe8a14cf10364, 0xa81a664bbc423001, 0xc24b8b70d0f89791, 0xc76c51a30654be30,
   0xd192e819d6ef5218, 0xd69906245565a910, 0xf40e35855771202a, 0x106aa07032bbd1b8] ++
  [0x19a4c116b8d2d0c8, 0x1e376c085141ab53, 0x2748774cdf8eeb99, 0x34b0bcb5e19b48a8,
   0x391c0cb3c5c95a63, 0x4ed8aa4ae3418acb, 0x5b9cca4f7763e373, 0x682e6ff3d6b2b8a3,
   0x748f82ee5defb2fc, 0x78a5636f43172f60, 0x84c87814a1f0ab72, 0x8cc702081a6439ec,
   0x90befffa23631e28, 0xa4506cebde82bde9, 0xbef9a3f7b2c67915, 0xc67178f2e372532b] ++
  [0xca273eceea26619c, 0xd186b8c721c0c207, 0xeada7dd6cde0eb1e, 0xf57d4f7fee6ed178,
   0x06f067aa72176fba, 0x0a637dc5a2c898a6, 0x113f9804bef90dae, 0x1b710b35131c471b,
   0x28db77f523047d84, 0x32caab7b40c72493, 0x3c9ebe0a15c9bebc, 0x431d67c49c100d4c,
   0x4cc5d4becb3e42b6, 0x597f299cfc657e2a, 0x5fcb6fab3ad6faec, 0x6c44198c4a475817]

/-- The initial hash value: the same of the square roots of the 9th to the 16th prime. -/
def shaInit : List Word :=
  [0xcbbb9d5dc1059ed8, 0x629a292a367cd507, 0x9159015a3070dd17, 0x152fecd8f70e5939,
   0x67332667ffc00b31, 0x8eb44a8768581511, 0xdb0c2e0d64f98fa7, 0x47b5481dbefa4fa4]

/-- Rotation to the right. -/
def rotr (x : Word) (n : Nat) : Word := x.rotateRight n

/-- The message schedule, `n` words beyond those in `w`, which lists the latest word first. -/
def shaSchedule (n : Nat) (w : List Word) : List Word :=
  match n with
  | 0 => w
  | n + 1 =>
    let a := nth 0 w 1
    let b := nth 0 w 14
    let s1 := rotr a 19 ^^^ rotr a 61 ^^^ (a >>> 6)
    let s0 := rotr b 1 ^^^ rotr b 8 ^^^ (b >>> 7)
    shaSchedule n ((s1 + nth 0 w 6 + s0 + nth 0 w 15) :: w)

/-- One round on the working variables a to h. -/
def shaRound (v : List Word) (kw : Word × Word) : List Word :=
  match v with
  | [a, b, c, d, e, f, g, h] =>
    let t1 := h + (rotr e 14 ^^^ rotr e 18 ^^^ rotr e 41) + ((e &&& f) ^^^ (~~~e &&& g)) + kw.1 + kw.2
    let t2 := (rotr a 28 ^^^ rotr a 34 ^^^ rotr a 39) + ((a &&& b) ^^^ (a &&& c) ^^^ (b &&& c))
    [t1 + t2, a, b, c, d + t1, e, f, g]
  | v => v

/-- One 128-byte block. -/
def shaBlock (h : List Word) (block : List Byte) : List Word :=
  let w0 := (List.range 16).map fun i => BitVec.ofNat 64 (beNat (slice block (8 * i) 8))
  let w := (shaSchedule 64 w0.reverse).reverse
  List.zipWith (fun a b => a + b) h ((List.zip shaK w).foldl shaRound h)

/-- The padding of a message of `n` bytes. -/
def shaPad (n : Nat) : List Byte := 0x80 :: List.replicate ((239 - n % 128) % 128) 0 ++ beBytes 16 (8 * n)

/-- `k` blocks of 128 bytes. -/
def shaBlocks (k : Nat) (h : List Word) (bs : List Byte) : List Word :=
  match k with
  | 0 => h
  | k + 1 => shaBlocks k (shaBlock h (bs.take 128)) (bs.drop 128)

/-- SHA-384 of a byte string: 48 bytes. Choices: log entry 60. -/
def sha384 (bs : List Byte) : List Byte :=
  let m := bs ++ shaPad bs.length
  ((shaBlocks (m.length / 128) shaInit m).take 6).flatMap fun w => beBytes 8 w.toNat

/-! ### HMAC and HKDF -/

/-- HMAC-SHA-384. Choices: log entry 60. -/
def hmac384 (key msg : List Byte) : List Byte :=
  let k := if 128 < key.length then sha384 key else key
  let k := k ++ List.replicate (128 - k.length) 0
  sha384 (k.map (fun b => b ^^^ 0x5C) ++ sha384 (k.map (fun b => b ^^^ 0x36) ++ msg))

/-- HKDF-Expand: `n` blocks, `t` the block before, `i` the number of the next. -/
def hkdfBlocks (n : Nat) (prk info t : List Byte) (i : Nat) : List Byte :=
  match n with
  | 0 => []
  | n + 1 =>
    let b := hmac384 prk (t ++ info ++ [BitVec.ofNat 8 i])
    b ++ hkdfBlocks n prk info b (i + 1)

/-- HKDF-SHA-384 with `len` output bytes. Choices: log entry 60. -/
def hkdf384 (salt ikm info : List Byte) (len : Nat) : List Byte :=
  (hkdfBlocks ((len + 47) / 48) (hmac384 salt ikm) info [] 1).take len

/-! ### P-384 -/

/-- The field prime. -/
def p384 : Nat := 2 ^ 384 - 2 ^ 128 - 2 ^ 96 + 2 ^ 32 - 1
/-- The group order n. -/
def n384 : Nat := 0xffffffffffffffffffffffffffffffffffffffffffffffffc7634d81f4372ddf581a0db248b0a77aecec196accc52973
/-- The coefficient b; a is -3. -/
def b384 : Nat := 0xb3312fa7e23ee7e4988e056be3f82d19181d9c6efe8141120314088f5013875ac656398d8a2ed19d2a85c8edd3ec2aef
/-- The base point. -/
def g384 : Nat × Nat :=
  (0xaa87ca22be8b05378eb1c71ef320ad746e1d3b628ba79b9859f741e082542a385502f25dbf55296c3a545e3872760ab7,
   0x3617de4a96262c6f5d9e98bf9292dc29f8f41dbd289a147ce9da3113b5f0b8c00a60b1ce1d7e819d7a431d7c90ea0e5f)

/-- b ^ e mod m; `fuel` bounds the bits of e. -/
def powMod (fuel b e m : Nat) : Nat :=
  match fuel with
  | 0 => 1 % m
  | f + 1 =>
    let h := powMod f (b * b % m) (e / 2) m
    if e % 2 = 1 then b * h % m else h

/-- The inverse modulo a prime below 2 ^ 384. -/
def invMod (a m : Nat) : Nat := powMod 384 (a % m) (m - 2) m

/-- The point is on the curve. -/
def onCurve (x y : Nat) : Bool :=
  decide (x < p384 ∧ y < p384) && y * y % p384 == (x * x * x + (p384 - 3) * x + b384) % p384

/-- A point of the curve as (X, Y, Z) for x = X / Z², y = Y / Z³; Z = 0 is the point at infinity. -/
abbrev Point := Nat × Nat × Nat

/-- The point (x, y). -/
def affine (a : Nat × Nat) : Point := (a.1, a.2, 1)

/-- a - b modulo the field prime, for b below it. -/
def subMod (a b : Nat) : Nat := (a + p384 - b) % p384

/-- Twice a point. -/
def pointDouble (a : Point) : Point :=
  let yy := a.2.1 * a.2.1 % p384
  let zz := a.2.2 * a.2.2 % p384
  let t := 4 * a.1 * yy % p384
  let m := 3 * (a.1 + zz) * subMod a.1 zz % p384
  let x := subMod (m * m) (2 * t % p384)
  (x, subMod (m * subMod t x) (8 * yy * yy % p384), 2 * a.2.1 * a.2.2 % p384)

/-- The sum of two points. -/
def pointAdd (a b : Point) : Point :=
  if a.2.2 = 0 then b
  else if b.2.2 = 0 then a
  else
    let za := a.2.2 * a.2.2 % p384
    let zb := b.2.2 * b.2.2 % p384
    let u := a.1 * zb % p384
    let v := a.2.1 * (zb * b.2.2 % p384) % p384
    let h := subMod (b.1 * za % p384) u
    let r := subMod (b.2.1 * (za * a.2.2 % p384) % p384) v
    if h = 0 then (if r = 0 then pointDouble a else (1, 1, 0))
    else
      let hh := h * h % p384
      let hhh := h * hh % p384
      let w := u * hh % p384
      let x := subMod (r * r) ((hhh + 2 * w) % p384)
      (x, subMod (r * subMod w x) (v * hhh % p384), h * (a.2.2 * b.2.2 % p384) % p384)

/-- k times a point; `fuel` bounds the bits of k. -/
def pointMul (fuel k : Nat) (p : Point) : Point :=
  match fuel with
  | 0 => (1, 1, 0)
  | f + 1 =>
    let h := pointMul f (k / 2) (pointDouble p)
    if k % 2 = 1 then pointAdd p h else h

/-- The coordinates x and y of a point; none at infinity. -/
def coordinates (a : Point) : Option (Nat × Nat) :=
  if a.2.2 = 0 then none
  else
    let i := invMod a.2.2 p384
    some (a.1 * (i * i % p384) % p384, a.2.1 * (i * i % p384 * i % p384) % p384)

/-- R428: a signature r then s over digest `e` verifies under public key X then Y (96 bytes each, big-endian).
Choices: log entry 60. -/
def ecdsaVerify (pub digest sig : List Byte) : Bool :=
  let x := beNat (slice pub 0 48)
  let y := beNat (slice pub 48 48)
  let r := beNat (slice sig 0 48)
  let t := beNat (slice sig 48 48)
  if !onCurve x y || r = 0 || n384 ≤ r || t = 0 || n384 ≤ t then false
  else
    let w := invMod t n384
    match coordinates (pointAdd (pointMul 384 (beNat digest * w % n384) (affine g384)) (pointMul 384 (r * w % n384) (affine (x, y)))) with
    | none => false
    | some q => q.1 % n384 == r

/-- The 96 bytes of the public key of private scalar `d`. -/
def publicKey (d : Nat) : List Byte :=
  match coordinates (pointMul 384 d (affine g384)) with
  | some (x, y) => beBytes 48 x ++ beBytes 48 y
  | none => List.replicate 96 0

/-- R428: the signature of a digest under private scalar `d` with secret number `k`. Choices: log entries 6 and 60. -/
def ecdsaSign (d k : Nat) (digest : List Byte) : List Byte :=
  match coordinates (pointMul 384 k (affine g384)) with
  | none => List.replicate 96 0
  | some q =>
    let r := q.1 % n384
    beBytes 48 r ++ beBytes 48 (invMod k n384 * (beNat digest + r * d) % n384)

end Sys2Proof.Machine
end

