-- ==== Sys2Proof/Machine/Mgt.lean ====
section
/-!
DEFINITION. The Roluljor chain at packet level (R411 to R421): packets, responses, the request queue, ports and
enumeration.
-/

namespace Sys2Proof.Machine

/-! ### Registers and packets -/

/-- MGT_STATUS.ADDR. -/
def State.mgtAddr (s : State) : Nat := s.fieldOf 0x0A 0x08 8 8
/-- The state with that address. -/
def State.setMgtAddr (s : State) (a : Nat) : State := s.setFieldOf 0x0A 0x08 8 8 a
/-- MGT_STATUS.UPLINK or DNLINK. -/
def State.portUp (s : State) (up : Bool) : Bool := s.flagOf 0x0A 0x08 (if up then 2 else 3)

/-- R411, R432: the SMC serves the chain: it runs firmware or is in ROM recovery, and no PFAIL is asserted. -/
def State.mgtOn (s : State) : Bool := s.on && (s.smc.running || s.smc.recovery) && s.power.pfail.isNone

/-- R413: a packet. -/
def packet (addr cmd tag status : Byte) (payload : List Byte) : List Byte :=
  let body := [addr, cmd, tag, status] ++ leBytes 2 payload.length ++ payload
  body ++ leBytes 2 (crc16 body)

/-- A request sent on the downstream port, if it is up. Choices: log entry 49. -/
def State.sendDown (s : State) (bs : List Byte) : State :=
  if s.portUp false then { s with mgt := { s.mgt with downOut := s.mgt.downOut ++ [bs] } } else s

/-- R414: an own response is ready for the upstream port, if that is up. Choices: log entry 49. -/
def State.sendOwn (s : State) (bs : List Byte) : State :=
  if s.portUp true then { s with mgt := { s.mgt with upOwn := s.mgt.upOwn ++ [bs] } } else s

/-- R414: a response from downstream is ready for the upstream port, if that is up. Choices: log entry 49. -/
def State.passUp (s : State) (bs : List Byte) : State :=
  if s.portUp true then { s with mgt := { s.mgt with upPassed := s.mgt.upPassed ++ [bs] } } else s

/-- R414: the upstream port transmits one packet, a passed-up one before an own one; so no two own ones follow each
other while a passed-up one waits. Choices: log entry 1. -/
def State.transmit (s : State) : State :=
  let m := s.mgt
  if !s.mgtOn || !s.portUp true then s
  else
    match m.upPassed, m.upOwn with
    | p :: rest, _ => { s with mgt := { m with upPassed := rest, upOut := m.upOut ++ [p] } }
    | [], p :: rest => { s with mgt := { m with upOwn := rest, upOut := m.upOut ++ [p] } }
    | [], [] => s

/-- R422: everything ready for the upstream port is sent before the module resets. -/
def State.transmitAll (s : State) : State :=
  { s with mgt := { s.mgt with upOut := s.mgt.upOut ++ s.mgt.upPassed ++ s.mgt.upOwn, upPassed := [], upOwn := [] } }

/-- The last `n` elements of a list. -/
def lastOf {α : Type} (n : Nat) (xs : List α) : List α := xs.drop (xs.length - n)

/-- R413: the response packet to `r`. -/
def State.responseTo (s : State) (r : Request) (status : Nat) (payload : List Byte) : List Byte :=
  packet (BitVec.ofNat 8 s.mgtAddr) (r.cmd ||| 0x80) r.tag (BitVec.ofNat 8 status) payload

/-- R418, R420, R421: the response to an executed request is sent and remembered; broadcasts get none, and nothing is sent
under PFAIL. -/
def State.respondTo (s : State) (r : Request) (status : Nat) (payload : List Byte) : State :=
  if r.bcast || s.power.pfail.isSome then s
  else
    let bs := s.responseTo r status payload
    ({ s with mgt := { s.mgt with memo := lastOf 8 (s.mgt.memo ++ [(r.tag, r.crc, bs)]) } }).sendOwn bs

/-! ### Requests that end at once -/

/-- R422, R449: the command codes. -/
def commandCodes : List Nat :=
  [0x02, 0x10, 0x11, 0x20, 0x30, 0x31, 0x32, 0x34, 0x35, 0x36, 0x40, 0x50, 0x51, 0x70, 0x71, 0x72, 0x73, 0x74, 0x75, 0x76, 0x77, 0x78]

/-- R432: what ROM recovery executes (ENUM apart). -/
def recoveryCodes : List Nat := [0x02, 0x31, 0x32, 0x51, 0x78]

/-- R447: the ACTION values. -/
def actionCodes : List Nat := [0x01, 0x02, 0x03, 0x04, 0x05, 0x06, 0x07, 0x08, 0x10, 0x11, 0x12]

/-- ACTION of an AUTH request, if it is as long as R446 asks. -/
def Request.action (r : Request) : Option Nat :=
  if r.cmd = 0x71 ∧ 256 ≤ r.payload.length then some (nth 0 r.payload 0).toNat else none

/-- R419, R432, R446: the STATUS of a request that no row executes: an undefined command, or an AUTH whose block is too
short or names no action. -/
def State.endsAtOnce (s : State) (r : Request) : Option Nat :=
  let codes := if s.smc.recovery then recoveryCodes else commandCodes
  if !codes.contains r.cmd.toNat then some 0x01
  else if r.cmd = 0x71 then
    (match r.action with
      | some a => if actionCodes.contains a then none else some 0x02
      | none => some 0x02)
  else none

/-- R420: the remembered response to a request with this TAG and CRC. -/
def State.remembered (s : State) (r : Request) : Option (List Byte) :=
  if r.bcast then none else (s.mgt.memo.find? fun m => m.1 == r.tag && m.2.1 == r.crc).map fun m => m.2.2

/-- R415, R443: requests other than ENUM execute only under an assigned address, and at a boot with an unfinished erasure
only IDENT executes. Choices: log entry 49. -/
def State.mayExecute (s : State) (cmd : Nat) : Bool := s.mgtAddr != 0xFF && (!s.smc.eraseFirst || cmd == 0x02)

/-- R419, R420: the requests at the head of the queue that need no execution are answered, up to `n` of them: a
remembered one gets its stored response, one that ends at once its STATUS. -/
def State.settleQueue (n : Nat) (s : State) : State :=
  match n, s.mgt.queue with
  | n + 1, r :: rest =>
    let s' : State := { s with mgt := { s.mgt with queue := rest } }
    if s.mgt.waiting.isSome then s
    else
      match s.remembered r, s.endsAtOnce r with
      | some bs, _ => (((s'.countOf 0x0A 0x10 48 16 1).sendOwn bs)).settleQueue n
      | none, some st => if s.smc.eraseFirst then s else (s'.respondTo r st []).settleQueue n
      | none, none => s
  | _, _ => s

/-- The request at the head of the queue, if it is a `cmd` request that may execute now, and the state without it. -/
def State.takeRequest (s : State) (cmd : Nat) : Option (Request × State) :=
  match s.mgt.queue with
  | r :: rest =>
    if s.mgtOn && s.mgt.waiting.isNone && r.cmd.toNat == cmd && s.mayExecute cmd then
      some (r, { s with mgt := { s.mgt with queue := rest } })
    else none
  | [] => none

/-- The request ends: it is answered, and the queue goes on. -/
def State.answer (s : State) (r : Request) (status : Nat) (payload : List Byte) : State :=
  (s.respondTo r status payload).settleQueue 4

/-- The response of `r` waits for an event. -/
def State.await (s : State) (r : Request) : State := { s with mgt := { s.mgt with waiting := some r } }

/-- The waiting request is answered, if there is one. -/
def State.answerWaiting (s : State) (status : Nat) (payload : List Byte) : State :=
  match s.mgt.waiting with
  | some r => ({ s with mgt := { s.mgt with waiting := none } }).answer r status payload
  | none => s

/-- R419: LEN must be `len`; the request's own STATUS byte is zero. Choices: log entry 49. -/
def Request.shaped (r : Request) (len : Nat) : Bool := r.payload.length == len && r.status == 0

/-- Bytes `off` to `off + n - 1` of a payload are zero. -/
def zeroAt (bs : List Byte) (off n : Nat) : Bool := (slice bs off n).all fun b => b == 0

/-! ### Enumeration (R415 to R417) -/

/-- R416: an ENUM request with payload `a` sent downstream. Choices: log entry 7. -/
def enumPacket (a : Nat) : List Byte := packet Config.enumHeader.1 0x01 Config.enumHeader.2 0 [BitVec.ofNat 8 a]

/-- R416 steps 2 to 4: the module holds its address; ENUM goes on downstream with `a`, or the last module answers. -/
def State.enumOn (s : State) (a : Nat) : State :=
  if s.portUp false then s.sendDown (enumPacket a)
  else
    let own := BitVec.ofNat 8 s.mgtAddr
    (s.setFieldOf 0x0A 0x08 16 8 own.toNat).sendOwn (packet own 0x81 0 0 [own])

/-- R416 step 1: the head takes address 1. -/
def State.enumHead (s : State) : State := (s.setMgtAddr 1).enumOn 1

/-- R416 step 2: a module takes the address after `a`. -/
def State.enumNext (s : State) (a : Nat) : State :=
  let s := if s.power.head then s.setFlagOf 0x0A 0x08 4 true else s
  if a + 1 ≤ 250 then (s.setMgtAddr (a + 1)).enumOn (a + 1)
  else ((s.setMgtAddr 0xFF).setFlagOf 0x0A 0x08 4 true).enumOn 250

/-- ENUM: the first ENUM request received is executed: one addressed to the head restarts enumeration (R416 step 1),
any other gives this module its address. Choices: log entry 49. -/
def execEnum (s : State) : Host.Outcome State Fault Refusal :=
  match s.mgt.enums with
  | (own, a) :: rest =>
    if !s.mgtOn then .next s
    else
      let s : State := { s with mgt := { s.mgt with enums := rest } }
      .next (if own && s.power.head then s.enumHead else s.enumNext a.toNat)
  | [] => .next s

/-- ENUM_START: the head starts enumeration. -/
def execEnumStart (s : State) : Host.Outcome State Fault Refusal :=
  if s.mgtOn && s.power.head then .next s.enumHead else .next s

/-- CHAIN_PORT_UP: a port comes up; a module with an address sends ENUM on a downstream port (R417). -/
def execChainPortUp (up : Bool) (s : State) : Host.Outcome State Fault Refusal :=
  if !s.mgtOn || s.portUp up then .next s
  else
    let s := s.setFlagOf 0x0A 0x08 (if up then 2 else 3) true
    .next (if !up && s.mgtAddr != 0xFF then s.sendDown (enumPacket s.mgtAddr) else s)

/-- CHAIN_PORT_DOWN: a port goes down; a packet in progress is discarded and never becomes a CHAIN_PACKET, and packets
ready for the upstream port are lost. Choices: log entry 49. -/
def execChainPortDown (up : Bool) (s : State) : Host.Outcome State Fault Refusal :=
  if !s.mgtOn then .next s
  else
    let s := if up then { s with mgt := { s.mgt with upOwn := [], upPassed := [] } } else s
    .next (s.setFlagOf 0x0A 0x08 (if up then 2 else 3) false)

/-! ### Packets received (R414, R415, R418) -/

/-- R413, R414: length and CRC of a packet are right. -/
def packetOk (bs : List Byte) : Bool :=
  let len := leAt bs 4 2
  decide (8 ≤ bs.length ∧ len ≤ 4352) && bs.length == 8 + len && crc16 (bs.take (6 + len)) == leAt bs (6 + len) 2

/-- The request that a packet `bs` carries; `fails`: the flash operation that it asks for fails (R419). -/
def requestOf (bs : List Byte) (fails : Bool) : Request where
  cmd := nth 0 bs 1
  tag := nth 0 bs 2
  status := nth 0 bs 3
  crc := BitVec.ofNat 16 (leAt bs (bs.length - 2) 2)
  bcast := nth 0 bs 0 == 0
  flashFails := fails
  payload := slice bs 6 (bs.length - 8)

/-- R418: the commands that may be broadcast. -/
def broadcastCodes : List Nat := [0x11, 0x31, 0x34, 0x35, 0x50]

/-- R418: a request addressed to this module is queued; a full queue answers 0x08 or counts a drop. -/
def State.queueRequest (s : State) (r : Request) : State :=
  if r.bcast && !broadcastCodes.contains r.cmd.toNat then s.countOf 0x0A 0x10 32 16 1
  else if 4 ≤ s.mgt.queue.length then
    (if r.bcast then s.countOf 0x0A 0x10 32 16 1 else s.sendOwn (s.responseTo r 0x08 []))
  else ({ s with mgt := { s.mgt with queue := s.mgt.queue ++ [r] } }).settleQueue 4

/-- R415, R416, R418, R419: a good packet on the upstream port: ENUM (one of the wrong shape answers 0x02 and goes no
further; DESIGN CHOICE, log entry 49), a request for this module, a broadcast, or one to pass on. -/
def State.receiveRequest (s : State) (p : ChainPacket) : State :=
  let bs := p.bytes
  let r := requestOf bs p.flashFails
  let addr := (nth 0 bs 0).toNat
  if r.cmd = 0x01 then
    (if r.shaped 1 then { s with mgt := { s.mgt with enums := s.mgt.enums ++ [(addr == s.mgtAddr, nth 0 r.payload 0)] } }
    else if r.bcast then s
    else s.sendOwn (s.responseTo r 0x02 []))
  else if s.mgtAddr = 0xFF then s.sendDown bs
  else if addr = 0 then (s.sendDown bs).queueRequest r
  else if addr = s.mgtAddr then s.queueRequest r
  else s.sendDown bs

/-- R414, R416 step 4: a good packet on the downstream port is a response and is passed up; the payload of an ENUM response
is recorded. -/
def State.receiveResponse (s : State) (bs : List Byte) : State :=
  let s := if nth 0 bs 1 = 0x81 ∧ leAt bs 4 2 = 1 then s.setFieldOf 0x0A 0x08 16 8 (nth 0 bs 6).toNat else s
  s.passUp bs

/-- CHAIN_PACKET: a packet stored whole is checked, then passed on, queued, or discarded and counted. -/
def execChainPacket (up : Bool) (p : ChainPacket) (s : State) : Host.Outcome State Fault Refusal :=
  if !s.mgtOn || !s.portUp up then .next s
  else if !packetOk p.bytes then .next (s.countOf 0x0A 0x10 (if up then 0 else 16) 16 1)
  else .next (if up then s.receiveRequest p else s.receiveResponse p.bytes)

end Sys2Proof.Machine
end

