-- ==== Sys2Proof/Machine/ChainRequests.lean ====
section
/-!
DEFINITION. The chain requests of R422 to R427 other than lath loads: identification, READ and WRITE, telemetry, transfer
sessions, the log, power and reboot.
-/

namespace Sys2Proof.Machine

/-! ### IDENT, READ, WRITE (R422, R423) -/

/-- R422: the code of a power state. -/
def powerCode (p : PowerState) : Nat :=
  match p with
  | .off => 0
  | .standby => 1
  | .idle => 2
  | .run => 3

/-- IDENT: identification and state. -/
def execIdent (s : State) : Host.Outcome State Fault Refusal :=
  match s.takeRequest 0x02 with
  | none => .next s
  | some (r, s) =>
    if !r.shaped 0 then .next (s.answer r 0x02 [])
    else
      .next (s.answer r 0 (leBytes 8 (s.regView 0x00 0x00) ++ leBytes 8 (s.regView 0x00 0x48)
        ++ leBytes 8 (s.mgtAddr + powerCode s.power.st * 2 ^ 8 + s.life.code * 2 ^ 16)))

/-- R423, R449: the doubleword at `a` may be read or written over the chain. -/
def State.chainMay (s : State) (write : Bool) (a : Nat) : Bool :=
  match s.baseRegion a with
  | .mailbox _ => s.dieOn
  | .config blk off => s.cfgReach .smc blk && (!write || (blk != 0x01 && blk != 0x02) || off == 0x08)
  | _ => false

/-- R423: `count` doublewords from `a` lie wholly in configuration space or wholly in mailbox data. -/
def State.chainRange (s : State) (write : Bool) (a count top : Nat) : Bool :=
  decide (a % 8 = 0 ∧ a < 2 ^ 48 ∧ 1 ≤ count ∧ count ≤ top) && (List.range count).all fun k => s.chainMay write (a + 8 * k)

/-- R423: reads of `n` doublewords from `a`, in increasing address order: the bytes and the state after them. -/
def State.chainRead (n : Nat) (s : State) (a : Nat) : List Byte × State :=
  match n with
  | 0 => ([], s)
  | n + 1 =>
    let one : List Byte × State :=
      match s.baseRegion a with
      | .config blk off => let r := s.cfgRead blk off 8; (leBytes 8 r.1, r.2)
      | _ => let r := s.memRead .other a 8; (r.bytes, r.st)
    let more := State.chainRead n one.2 (a + 8)
    (one.1 ++ more.1, more.2)

/-- READ: up to 64 doublewords. Choices: log entry 49. -/
def execRead (s : State) : Host.Outcome State Fault Refusal :=
  match s.takeRequest 0x10 with
  | none => .next s
  | some (r, s) =>
    let a := leAt r.payload 0 8
    let n := leAt r.payload 8 2
    if !r.shaped 16 || !zeroAt r.payload 10 6 then .next (s.answer r 0x02 [])
    else if !s.chainRange false a n 64 then .next (s.answer r 0x03 [])
    else
      let x := State.chainRead n s a
      .next (x.2.answer r 0 x.1)

/-- R423: one doubleword written by the SMC. -/
def State.chainWrite (s : State) (a : Nat) (bs : List Byte) : State :=
  match s.baseRegion a with
  | .config blk off => s.cfgWrite false blk off 8 (leNat bs)
  | _ => (s.memWrite .other a bs).st

/-- WRITE: up to 512 doublewords. Choices: log entry 49. -/
def execWrite (s : State) : Host.Outcome State Fault Refusal :=
  match s.takeRequest 0x11 with
  | none => .next s
  | some (r, s) =>
    let a := leAt r.payload 0 8
    let n := leAt r.payload 8 2
    if r.payload.length < 16 || !r.shaped (16 + 8 * n) || !zeroAt r.payload 10 6 then .next (s.answer r 0x02 [])
    else if !s.chainRange true a n 512 then .next (s.answer r 0x03 [])
    else
      let s := (List.range n).foldl (fun (s : State) k => s.chainWrite (a + 8 * k) (slice r.payload (16 + 8 * k) 8)) s
      .next (s.answer r 0 [])

/-! ### Telemetry (R424) -/

/-- The highest junction reading of the domains, as RSV_DOMn.TJ, in 32 bits. -/
def State.hottest (s : State) : Int :=
  domains.foldl (fun (m : Int) n => max m (toSigned 8 (s.fieldOf 0x03 (domReg n) 28 8))) (-128)

/-- R424: the values of points 0x00 to 0x0B. -/
def State.telemetry (s : State) (p : Telemetry) : List Nat :=
  [p.vin.toNat, p.current.toNat, p.power.toNat, p.plate.toNat, wrapNat 32 s.hottest, p.dram.toNat, s.fieldOf 0x03 0x08 0 6,
    powerCode s.power.st, s.power.uptimeMs / 1000, if s.dieOn && !s.noClock then p.bclk.toNat else 0, s.slots,
    (deviceLinks.filter fun l => s.linkFailed l).length]

/-- TELEMETRY_SAMPLE: every point is sampled, and 10 ms have passed. The readings count for the return from a
thermal trip (R488). Choices: log entry 54. -/
def execTelemetrySample (p : Telemetry) (s : State) : Host.Outcome State Fault Refusal :=
  if !s.on then .next s
  else
    let s := { s with power := { s.power with uptimeMs := s.power.uptimeMs + 10 } }
    .next { s with power := { s.power with
      telem := s.telemetry p
      domainT := s.hottest
      dramT := toSigned 32 p.dram.toNat
      plateT := toSigned 32 p.plate.toNat / 10 } }

/-- TELEM: the sampled values of the points asked for. -/
def execTelem (s : State) : Host.Outcome State Fault Refusal :=
  match s.takeRequest 0x20 with
  | none => .next s
  | some (r, s) =>
    if r.payload.isEmpty || 32 < r.payload.length || r.status != 0 then .next (s.answer r 0x02 [])
    else if r.payload.any fun b => decide (0x0C ≤ b.toNat) then .next (s.answer r 0x03 [])
    else .next (s.answer r 0 (r.payload.flatMap fun b => [b, 0] ++ leBytes 4 (nth 0 s.power.telem b.toNat)))

/-! ### Transfer sessions (R425, R426, R433) -/

/-- SYS_LATHSTAT.BUSY. -/
def State.busy (s : State) : Bool := s.smc.op.isSome

/-- The stored bytes of a flash target. -/
def Smc.cells (x : Smc) (t : Target) : List Host.Cell :=
  match t with
  | .slotA => x.slotA
  | .slotB => x.slotB
  | .ctStore => x.ctStore
  | .staging => []
  | .firmware h => if h then x.fw1 else x.fw0

/-- The SMC with those bytes replaced. -/
def Smc.setCells (x : Smc) (t : Target) (cs : List Host.Cell) : Smc :=
  match t with
  | .slotA => { x with slotA := cs }
  | .slotB => { x with slotB := cs }
  | .ctStore => { x with ctStore := cs }
  | .staging => x
  | .firmware h => if h then { x with fw1 := cs } else { x with fw0 := cs }

/-- `n` bytes from offset `off` of flash contents that list no offset below; a byte that is not listed reads 0xFF. -/
def flashFrom (n : Nat) (cs : List Host.Cell) (off : Nat) : List Byte :=
  match n, cs with
  | 0, _ => []
  | n + 1, (k, v) :: rest => if k = off then v :: flashFrom n rest (off + 1) else 0xFF :: flashFrom n ((k, v) :: rest) (off + 1)
  | n + 1, [] => 0xFF :: flashFrom n [] (off + 1)

/-- `n` bytes of flash contents from offset `off`. Choices: log entry 12. -/
def flashRead (cs : List Host.Cell) (off n : Nat) : List Byte := flashFrom n (cs.dropWhile fun c => decide (c.1 < off)) off

/-- R425: the 256 KiB sectors that cover `len` bytes are erased. -/
def eraseSectors (cs : List Host.Cell) (len : Nat) : List Host.Cell :=
  cs.filter fun c => decide ((len + 262143) / 262144 * 262144 ≤ c.1)

/-- Bytes stored in flash from offset `off`. -/
def programBytes (cs : List Host.Cell) (off : Nat) (bs : List Byte) : List Host.Cell :=
  match bs with
  | [] => cs
  | b :: rest => programBytes (Sparse.set 0xFF cs off b) (off + 1) rest

/-- R425: an open session is abandoned, and the `len` bytes of its target hold free values. Choices: log entry 5. -/
def State.abandonSession (s : State) : State :=
  match s.mgt.session with
  | none => s
  | some x =>
    let free := (List.range x.len).filterMap fun off =>
      let v := Config.abandonedByte s.fresh off
      if v = 0xFF then none else some (off, v)
    let cs := free ++ (s.smc.cells x.target).filter fun c => decide (x.len ≤ c.1)
    { s.bump with smc := s.smc.setCells x.target cs, mgt := { s.mgt with session := none } }

/-- R425, R433: a session opens: any earlier one is abandoned and the target erased. -/
def State.openSession (s : State) (t : Target) (len : Nat) : State :=
  let s := s.abandonSession
  let smc := s.smc.setCells t (eraseSectors (s.smc.cells t) len)
  { s with
    smc := { smc with ctLen := if t = .ctStore then len else smc.ctLen }
    mgt := { s.mgt with session := some ⟨t, len, []⟩, staged := if t = .staging then none else s.mgt.staged } }

/-- The lath slot that a target is: false for A. -/
def lathSlot (t : Target) : Option Bool :=
  match t with
  | .slotA => some false
  | .slotB => some true
  | _ => none

/-- The stored bytes of a lath slot. -/
def Smc.slotCells (x : Smc) (b : Bool) : List Host.Cell := if b then x.slotB else x.slotA

/-- R497: the number of a lath source. -/
def sourceCode (src : LathSource) : Nat :=
  match src with
  | .slotA => 1
  | .slotB => 2
  | .push => 3

/-- The source that a slot is. -/
def slotSource (b : Bool) : LathSource := if b then .slotB else .slotA

/-- R45: the record of a lath operation: source, IMAGE_ID, RESULT, section, offset. -/
def State.noteLath (s : State) (src : LathSource) (imageId result section_ offset : Nat) : State :=
  s.note 0x0001 [sourceCode src, imageId, result, section_, offset]

/-- IMAGE_ID of the bytes that a source holds (R25). -/
def State.sourceId (s : State) (src : LathSource) : Nat :=
  match src with
  | .slotA => leNat (flashRead s.smc.slotA 0x18 8)
  | .slotB => leNat (flashRead s.smc.slotB 0x18 8)
  | .push => leAt (s.mgt.staged.getD []) 0x18 8

/-- R53: a lath request or slot write is refused with RESULT 0x0E, and the refusal recorded, with SECTION and OFFSET 0 (DESIGN
CHOICE, log entry 41). -/
def State.refuseLath (s : State) (r : Request) (src : LathSource) : State :=
  (s.noteLath src (s.sourceId src) 0x0E 0 0).answer r 0x04 [0x0E]

/-- R425: the target of an FOPEN and whether LENGTH fits it. -/
def openTarget (code len : Nat) : Option Target :=
  let fits (lo hi unit : Nat) : Bool := decide (lo ≤ len ∧ len ≤ hi ∧ len % unit = 0)
  match code with
  | 1 => if fits 0x140 0x03000000 64 then some .slotA else none
  | 2 => if fits 0x140 0x03000000 64 then some .slotB else none
  | 3 => if fits 8 16777216 8 then some .ctStore else none
  | 4 => if fits 0x140 0x00040000 64 then some .staging else none
  | _ => none

/-- FOPEN: a transfer session on a slot, the channel-table store or the staging buffer; an erasure that fails answers 0x06
(R419). -/
def execFopen (s : State) : Host.Outcome State Fault Refusal :=
  match s.takeRequest 0x30 with
  | none => .next s
  | some (r, s) =>
    let len := leAt r.payload 4 4
    if !r.shaped 8 || !zeroAt r.payload 1 3 then .next (s.answer r 0x02 [])
    else
      match openTarget (nth 0 r.payload 0).toNat len with
      | none => .next (s.answer r 0x03 [])
      | some t =>
        match lathSlot t with
        | some b =>
          if s.busy then .next (s.refuseLath r (slotSource b))
          else if s.smc.image.isSome && s.smc.imageSlotB == b then .next (s.answer r 0x05 [])
          else if r.flashFails then .next (s.answer r 0x06 [])
          else .next ((s.openSession t len).answer r 0 [])
        | none =>
          if r.flashFails && t != .staging then .next (s.answer r 0x06 []) else .next ((s.openSession t len).answer r 0 [])

/-- R433: copy `h` begins with a valid header: MAGIC, FORMAT, PART, stepping, LENGTH and reserved bytes (R430). -/
def Smc.validHeader (x : Smc) (h : Bool) : Bool :=
  let bs := flashRead (x.cells (.firmware h)) 0 64
  let len := leAt bs 0x10 4
  leAt bs 0 8 == 0x4643_4D53_5453_5548 && leAt bs 0x08 2 == 1 && leAt bs 0x0A 2 == 0x8128 && leAt bs 0x0C 2 == 0x0241
    && zeroAt bs 0x0E 2 && zeroAt bs 0x20 32 && decide (0x140 ≤ len ∧ len ≤ 0x00800000 ∧ len % 64 = 0)

/-- R433: the half that FWOPEN writes: the one not in effect; in ROM recovery half 1 if copy 0 has a valid header. -/
def State.fwTarget (s : State) : Bool := if s.smc.recovery then s.smc.validHeader false else !s.flagOf 0x02 0x08 1

/-- FWOPEN: a transfer session on a firmware region; an erasure that fails answers 0x06 (R419). -/
def execFwopen (s : State) : Host.Outcome State Fault Refusal :=
  match s.takeRequest 0x78 with
  | none => .next s
  | some (r, s) =>
    let len := leAt r.payload 0 4
    if !r.shaped 4 then .next (s.answer r 0x02 [])
    else if len < 0x140 ∨ 0x00800000 < len ∨ len % 64 ≠ 0 then .next (s.answer r 0x03 [])
    else if r.flashFails then .next (s.answer r 0x06 [])
    else .next ((s.openSession (.firmware s.fwTarget) len).answer r 0 [])

/-- The byte that a session has written at `off`. -/
def Session.written (x : Session) (off : Nat) : Option Byte := (x.data.find? fun c => c.1 == off).map fun c => c.2

/-- R426: the session after the bytes `bs` at `off`; a byte written before stays as it is. -/
def Session.put (x : Session) (off : Nat) (bs : List Byte) : Session :=
  match bs with
  | [] => x
  | b :: rest =>
    let y : Session := if (x.written off).isSome then x else { x with data := Sparse.insert x.data off b }
    y.put (off + 1) rest

/-- R426: no byte of `bs` at `off` differs from one already written. -/
def Session.agrees (x : Session) (off : Nat) (bs : List Byte) : Bool :=
  (List.range bs.length).all fun i =>
    match x.written (off + i) with
    | some v => v == nth 0 bs i
    | none => true

/-- R425: a session on a slot is turned away while BUSY is set. -/
def State.sessionBusy (s : State) : Option LathSource :=
  match s.mgt.session with
  | some x => if s.busy then (lathSlot x.target).map slotSource else none
  | none => none

/-- FDATA: data bytes into the session; flash that fails answers 0x06 (R419). Choices: log entry 49. -/
def execFdata (s : State) : Host.Outcome State Fault Refusal :=
  match s.takeRequest 0x31 with
  | none => .next s
  | some (r, s) =>
    let off := leAt r.payload 0 4
    let bs := r.payload.drop 4
    if r.payload.length < 5 || 4100 < r.payload.length || r.status != 0 then .next (s.answer r 0x02 [])
    else
      match s.mgt.session, s.sessionBusy with
      | none, _ => .next (s.answer r 0x07 [])
      | some _, some src => .next (s.refuseLath r src)
      | some x, none =>
        if x.len < off + bs.length then .next (s.answer r 0x03 [])
        else if !x.agrees off bs then .next (s.answer r 0x07 [])
        else if r.flashFails && x.target != .staging then .next (s.answer r 0x06 [])
        else
          let s := { s with
            smc := s.smc.setCells x.target (programBytes (s.smc.cells x.target) off bs)
            mgt := { s.mgt with session := some (x.put off bs) } }
          .next (s.answer r 0 [])

/-- R426: the lowest offset from `off` that is not written. -/
def firstGap (data : List Host.Cell) (off : Nat) : Nat :=
  match data with
  | [] => off
  | (k, _) :: rest => if k = off then firstGap rest (off + 1) else off

/-- FCLOSE: WRITTEN, FIRST_GAP and DIGEST; the session closes if it has no gap; flash that cannot be read answers 0x06
(R419). -/
def execFclose (s : State) : Host.Outcome State Fault Refusal :=
  match s.takeRequest 0x32 with
  | none => .next s
  | some (r, s) =>
    if !r.shaped 0 then .next (s.answer r 0x02 [])
    else
      match s.mgt.session, s.sessionBusy with
      | none, _ => .next (s.answer r 0x07 [])
      | some _, some src => .next (s.refuseLath r src)
      | some x, none =>
        let bs := flashRead x.data 0 x.len
        let gap := firstGap x.data 0
        let out := leBytes 4 x.data.length ++ leBytes 4 gap ++ sha384 bs
        if r.flashFails && x.target != .staging then .next (s.answer r 0x06 [])
        else if gap < x.len then .next (s.answer r 0x07 out)
        else
          let staged := if x.target = .staging then some bs else s.mgt.staged
          .next (({ s with mgt := { s.mgt with session := none, staged := staged } }).answer r 0 out)

/-! ### Log and preference (R422, R427) -/

/-- LPREF: the preferred slot of R48 is stored in flash; flash that fails answers 0x06 (R419). Choices: log entry 49. -/
def execLpref (s : State) : Host.Outcome State Fault Refusal :=
  match s.takeRequest 0x34 with
  | none => .next s
  | some (r, s) =>
    let slot := (nth 0 r.payload 0).toNat
    if !r.shaped 1 then .next (s.answer r 0x02 [])
    else if slot ≠ 1 ∧ slot ≠ 2 then .next (s.answer r 0x03 [])
    else if r.flashFails then .next (s.answer r 0x06 [])
    else .next (({ s with smc := { s.smc with prefB := slot == 2 } }).answer r 0 [])

/-- LOGREAD: up to 16 committed records, from the oldest at or above the first SEQ; flash that fails answers 0x06
(R419). -/
def execLogread (s : State) : Host.Outcome State Fault Refusal :=
  match s.takeRequest 0x40 with
  | none => .next s
  | some (r, s) =>
    let n := (nth 0 r.payload 4).toNat
    if !r.shaped 8 || !zeroAt r.payload 5 3 then .next (s.answer r 0x02 [])
    else if n < 1 ∨ 16 < n then .next (s.answer r 0x03 [])
    else if r.flashFails then .next (s.answer r 0x06 [])
    else .next (s.answer r 0 (((s.cairn.committed.filter fun x => decide (leAt r.payload 0 4 ≤ x.seq)).take n).flatMap recordBytes))

/-! ### Power and reboot (R422, R485) -/

/-- R485: the state that a POWER request names. -/
def powerTarget (code : Nat) : Option PowerState :=
  match code with
  | 1 => some .standby
  | 2 => some .idle
  | 3 => some .run
  | _ => none

/-- POWER: a transition is requested; the response is sent when its state is reached. -/
def execPower (s : State) : Host.Outcome State Fault Refusal :=
  match s.takeRequest 0x50 with
  | none => .next s
  | some (r, s) =>
    if !r.shaped 1 then .next (s.answer r 0x02 [])
    else
      match powerTarget (nth 0 r.payload 0).toNat with
      | none => .next (s.answer r 0x03 [])
      | some p =>
        if s.busy then .next (s.answer r 0x04 [0x0E])
        else if (p = .run ∧ s.smc.image.isNone) ∨ (p ≠ .standby ∧ !s.power.cool) then .next (s.answer r 0x03 [])
        else if s.power.st = p then .next (({ s with power := { s.power with target := none } }).answer r 0 [])
        else .next (({ s with power := { s.power with target := some p, thermal := s.power.thermal && p == PowerState.standby } }).await r)

/-- REBOOT: the response is sent, queued records are committed, and the module resets. Choices: log entry 49. -/
def execReboot (s : State) : Host.Outcome State Fault Refusal :=
  match s.takeRequest 0x51 with
  | none => .next s
  | some (r, s) =>
    if !r.shaped 0 then .next (s.answer r 0x02 [])
    else .next ((((((s.respondTo r 0 []).transmitAll).abandonSession).closeDebug).drainLog).powerUp)

end Sys2Proof.Machine
end

