-- ==== Sys2Proof/Machine/Security.lean ====
section
/-!
DEFINITION. Identity, attestation, authorised actions and the life cycle (R428 to R449).
-/

namespace Sys2Proof.Machine

/-! ### Keys (R428, R434) -/

/-- The 48 bytes of a fused hash. -/
def hashBytes (h : BitVec 384) : List Byte := beBytes 48 h.toNat

/-- Who signs. -/
inductive Signer where
  | owner
  | vendor
  deriving DecidableEq, Repr

/-- R428: 96 bytes are a public key: a point of the curve. -/
def validKey (pub : List Byte) : Bool := pub.length == 96 && onCurve (beNat (slice pub 0 48)) (beNat (slice pub 48 48))

/-- R434: KEY_SLOT names a usable owner slot of the current generation. -/
def Fuses.ownerUsable (f : Fuses) (keySlot : Nat) : Bool :=
  if h : keySlot < 4 then (f.slot ⟨keySlot, h⟩).usable else false

/-- R41, R434: KEY_SLOT names a key of `who`. -/
def Fuses.keyAccepted (f : Fuses) (who : Signer) (keySlot : Nat) : Bool :=
  match who with
  | .owner => f.ownerUsable keySlot
  | .vendor => keySlot == 0xF0

/-- R428: the public key matches the fused hash for KEY_SLOT. -/
def Fuses.keyMatches (f : Fuses) (keySlot : Nat) (pub : List Byte) : Bool :=
  if h : keySlot < 4 then sha384 pub == hashBytes (f.slot ⟨keySlot, h⟩).hash
  else keySlot == 0xF0 && sha384 pub == hashBytes f.vendorHash

/-- R445: the signer of lath images in a life-cycle state. -/
def lathSigner (x : LifeState) : Option Signer :=
  match x with
  | .owned => some .owner
  | .ownedDebug => some .owner
  | .test => some .vendor
  | .blank => some .vendor
  | .ret => some .vendor
  | .scrap => none

/-! ### Identity (R437, R438) -/

/-- The bytes of "HF8128 identity". -/
def identitySalt : List Byte := [0x48, 0x46, 0x38, 0x31, 0x32, 0x38, 0x20, 0x69, 0x64, 0x65, 0x6E, 0x74, 0x69, 0x74, 0x79]

/-- R437: the private scalar of the identity key. -/
def Fuses.identity (f : Fuses) : Nat :=
  let okm := hkdf384 identitySalt (beBytes 32 f.secret.toNat) (leBytes 8 f.uid.toNat ++ leBytes 1 f.rcount) 56
  beNat okm % (n384 - 1) + 1

/-- A DER length: its value and the bytes after it (definite, minimal, at most two length bytes). -/
def derLength (bs : List Byte) : Option (Nat × List Byte) :=
  match bs with
  | b :: rest =>
    if b.toNat < 0x80 then some (b.toNat, rest)
    else
      match b.toNat, rest with
      | 0x81, x :: more => if 0x80 ≤ x.toNat then some (x.toNat, more) else none
      | 0x82, x :: y :: more => if 0x01 ≤ x.toNat then some (256 * x.toNat + y.toNat, more) else none
      | _, _ => none
  | [] => none

/-- The content of the DER element with tag `tag` at the front, and what follows it. -/
def derTake (tag : Nat) (bs : List Byte) : Option (List Byte × List Byte) :=
  match bs with
  | b :: rest =>
    if b.toNat = tag then
      (match derLength rest with
        | some (n, body) => if n ≤ body.length then some (body.take n, body.drop n) else none
        | none => none)
    else none
  | [] => none

/-- The elements with the given tags one after another: the content of the last one. Choices: log entry 60. -/
def derPath (tags : List Nat) (last bs : List Byte) : Option (List Byte) :=
  match tags with
  | [] => some last
  | t :: rest =>
    match derTake t bs with
    | some (body, more) => derPath rest body more
    | none => none

/-- id-ecPublicKey on secp384r1 as the content of an AlgorithmIdentifier. -/
def ecAlgorithm : List Byte := [0x06, 0x07, 0x2A, 0x86, 0x48, 0xCE, 0x3D, 0x02, 0x01, 0x06, 0x05, 0x2B, 0x81, 0x04, 0x00, 0x22]

/-- The content of a subject public key info that holds the public key `pub`, uncompressed. -/
def keyInfoIs (info pub : List Byte) : Bool :=
  match derTake 0x30 info with
  | some (alg, more) =>
    (match derTake 0x03 more with
      | some (key, tail) => alg == ecAlgorithm && key == [0x00, 0x04] ++ pub && tail.isEmpty
      | none => false)
  | none => false

/-- R438: a certificate that the device accepts for the public key `pub`: one DER SEQUENCE of at most 4,096 bytes,
v3, with that key as its subject public key. Choices: log entry 50. -/
def certAccepted (pub cert : List Byte) : Bool :=
  match derTake 0x30 cert with
  | some (outer, []) =>
    (match derTake 0x30 outer with
      | some (tbs, _) =>
        (match derTake 0xA0 tbs with
          | some (version, fields) =>
            decide (cert.length ≤ 4096) && version == [0x02, 0x01, 0x02]
              && (match derPath [0x02, 0x30, 0x30, 0x30, 0x30, 0x30] [] fields with
                | some info => keyInfoIs info pub
                | none => false)
          | none => false)
      | none => false)
  | _ => false

/-! ### Identity requests (R449) -/

/-- CHALLENGE: a fresh nonce becomes the current challenge. Choices: log entry 6. -/
def execChallenge (s : State) : Host.Outcome State Fault Refusal :=
  match s.takeRequest 0x70 with
  | none => .next s
  | some (r, s) =>
    if !r.shaped 0 then .next (s.answer r 0x02 [])
    else
      let n := Config.nonce s.fresh
      .next (({ s.bump with smc := { s.smc with challenge := some (n, s.power.uptimeMs) } }).answer r 0 (hashBytes n))

/-- IDPUB: the identity public key. -/
def execIdpub (s : State) : Host.Outcome State Fault Refusal :=
  match s.takeRequest 0x73 with
  | none => .next s
  | some (r, s) =>
    if !r.shaped 0 then .next (s.answer r 0x02 []) else .next (s.answer r 0 (publicKey s.fuses.identity))

/-- CERTREAD: the stored certificate; flash that fails answers 0x06 (R419). -/
def execCertread (s : State) : Host.Outcome State Fault Refusal :=
  match s.takeRequest 0x74 with
  | none => .next s
  | some (r, s) =>
    if !r.shaped 0 then .next (s.answer r 0x02 [])
    else
      match s.smc.cert with
      | some c => if r.flashFails then .next (s.answer r 0x06 []) else .next (s.answer r 0 c)
      | none => .next (s.answer r 0x03 [])

/-- CERTSTORE: an identity certificate is stored while in BLANK. Choices: log entry 8. -/
def execCertstore (s : State) : Host.Outcome State Fault Refusal :=
  match s.takeRequest 0x75 with
  | none => .next s
  | some (r, s) =>
    if r.payload.isEmpty || 4096 < r.payload.length || r.status != 0 then .next (s.answer r 0x02 [])
    else if s.life ≠ .blank then .next (s.answer r 0x05 [])
    else if !certAccepted (publicKey s.fuses.identity) r.payload then .next (s.answer r Config.refusedCertStatus.toNat [])
    else if r.flashFails then .next (s.answer r 0x06 [])
    else .next (({ s with smc := { s.smc with cert := some r.payload } }).answer r 0 [])

/-- R445: lath readback is permitted in the state. -/
def mayReadLath (x : LifeState) : Bool :=
  match x with
  | .test => true
  | .blank => true
  | .ownedDebug => true
  | .ret => true
  | .owned => false
  | .scrap => false

/-- LREAD: bytes of the full image in effect; flash that fails answers 0x06 (R419). -/
def execLread (s : State) : Host.Outcome State Fault Refusal :=
  match s.takeRequest 0x76 with
  | none => .next s
  | some (r, s) =>
    let off := leAt r.payload 0 4
    let n := leAt r.payload 4 2
    if !r.shaped 8 || !zeroAt r.payload 6 2 then .next (s.answer r 0x02 [])
    else if n < 1 ∨ 4096 < n then .next (s.answer r 0x03 [])
    else
      match s.smc.image with
      | some bs =>
        if !mayReadLath s.life || !decide (off + n ≤ bs.length) then .next (s.answer r 0x05 [])
        else if r.flashFails then .next (s.answer r 0x06 [])
        else .next (s.answer r 0 (slice bs off n))
      | none => .next (s.answer r 0x05 [])

/-- LCLOSE: debug closes in OWNED_DEBUG. -/
def execLclose (s : State) : Host.Outcome State Fault Refusal :=
  match s.takeRequest 0x77 with
  | none => .next s
  | some (r, s) =>
    if !r.shaped 0 then .next (s.answer r 0x02 [])
    else .next (s.closeDebug.answer r 0 [])

/-! ### Attestation (R439) -/

/-- R439: SHA-384 over the ridges with a partial image; zero without one. -/
def Smc.partialDigest (x : Smc) : List Byte :=
  if x.partials.isEmpty then List.replicate 48 0
  else sha384 (((List.range 32).flatMap fun g => (x.partials.filter fun p => p.1 == g).flatMap fun p => leBytes 1 g ++ sha384 p.2))

/-- R439: SHA-384 of the effective site map in the layout of R31 and of the bank map. Choices: log entry 50. -/
def State.repairDigest (s : State) : List Byte :=
  let sites := ridgeIds.flatMap fun g => leBytes 1 (match s.siteOf g with
    | some st => st.val
    | none => 0x3F)
  let lanes := siteIds.flatMap fun st => (List.range 16).flatMap fun k => leBytes 1 (s.laneSlot st k)
  let banks := (List.range 1024).flatMap fun n => leBytes 8 (s.regView 0x10 (0x2000 + 8 * n))
  sha384 (sites ++ List.replicate 32 0 ++ lanes ++ banks)

/-- SVN of the full image in effect; 0 with no lath. -/
def Smc.lathSvn (x : Smc) : Nat :=
  match x.image with
  | some bs => leAt bs 0x14 4
  | none => 0

/-- R439: bytes 0x000 to 0x13F of the report. Choices: log entry 50. -/
def State.attestReport (s : State) (nonce : List Byte) : List Byte :=
  let stat := s.regView 0x00 0x40
  let gen := s.regView 0x00 0x50
  let f := s.fuses
  [0x48, 0x55, 0x53, 0x54, 0x41, 0x54, 0x54, 0x53] ++ leBytes 2 1 ++ leBytes 2 0x8128 ++ leBytes 2 0x0241
    ++ leBytes 1 s.life.code ++ leBytes 1 f.rcount ++ leBytes 8 f.uid.toNat ++ nonce
    ++ sha384 s.smc.fwBytes ++ leBytes 4 s.smc.fwSvn ++ leBytes 4 s.smc.lathSvn ++ leBytes 8 (s.reg 0x00 0x48)
    ++ (match s.smc.image with
      | some bs => sha384 bs
      | none => List.replicate 48 0)
    ++ s.smc.partialDigest ++ s.repairDigest ++ leBytes 4 (field gen 0 32) ++ leBytes 2 (field gen 32 16)
    ++ leBytes 2 s.slots ++ leBytes 4 f.fwSvnMin ++ leBytes 4 f.lathSvnMin
    ++ leBytes 1 (f.slotMask KeySlot.usable + 16 * f.slotMask (·.revoked))
    ++ leBytes 1 (field stat 20 1 + 2 * field stat 22 1 + 4 * s.fieldOf 0x02 0x08 1 1)
    ++ List.replicate 6 0 ++ leBytes 4 (s.power.uptimeMs / 1000) ++ List.replicate 12 0

/-- ATTEST: a report over the requested nonce, signed with the identity key. Choices: log entry 6. -/
def execAttest (s : State) : Host.Outcome State Fault Refusal :=
  match s.takeRequest 0x72 with
  | none => .next s
  | some (r, s) =>
    if !r.shaped 48 then .next (s.answer r 0x02 [])
    else
      let bs := s.attestReport r.payload
      let k := Config.signatureNonce s.fresh % (n384 - 1) + 1
      .next (s.bump.answer r 0 (bs ++ ecdsaSign s.fuses.identity k (sha384 bs)))

/-! ### Authorisations (R446 to R448) -/

/-- ARG of an authorisation. -/
def Request.arg (r : Request) : Nat := leAt r.payload 4 4
/-- What follows the authorisation block. -/
def Request.extra (r : Request) : List Byte := r.payload.drop 256

/-- The AUTH request of action `a` at the head of the queue, and the state without it. -/
def State.takeAction (s : State) (a : Nat) : Option (Request × State) :=
  match s.takeRequest 0x71 with
  | some (r, s') => if r.action = some a then some (r, s') else none
  | none => none

/-- What an action asks for: whether check 1 passes, its signer in this state, and the STATUS of a failed precondition (0 if
it holds). -/
structure Terms where
  shape : Bool
  signer : Option Signer
  pre : Nat

/-- R448: SEC_AUTHSTAT after an AUTH. -/
def State.authStat (s : State) (r : Request) (reason : Nat) : State :=
  s.setReg 0x02 0x18 ((nth 0 r.payload 0).toNat + reason * 2 ^ 8 + 2 ^ 16)

/-- R448 check 3: the nonce is the current challenge, no older than 60 s. Choices: log entry 18. -/
def State.nonceGood (s : State) (r : Request) : Bool :=
  match s.smc.challenge with
  | some (n, t) => hashBytes n == slice r.payload 0x10 48 && decide (s.power.uptimeMs ≤ t + 60000)
  | none => false

/-- R448 check 4: the action is permitted and KEY_SLOT and the public key are its signer's. -/
def State.signerGood (s : State) (r : Request) (who : Option Signer) : Bool :=
  let slot := (nth 0 r.payload 1).toNat
  let pub := slice r.payload 0x40 96
  match who with
  | some w => s.fuses.keyAccepted w slot && validKey pub && s.fuses.keyMatches slot pub
  | none => false

/-- R448 check 5: the signature over bytes 0x00 to 0x3F and the action payload. -/
def signatureGood (r : Request) : Bool :=
  ecdsaVerify (slice r.payload 0x40 96) (sha384 (r.payload.take 0x40 ++ r.extra)) (slice r.payload 0xA0 96)

/-- R448: the REASON of the first of checks 2 to 6 that fails, 0 if none does. -/
def State.authReason (s : State) (r : Request) (x : Terms) : Nat :=
  if leAt r.payload 0x08 8 ≠ s.fuses.uid.toNat then 2
  else if !s.nonceGood r then 3
  else if !s.signerGood r x.signer then 4
  else if !signatureGood r then 5
  else if x.pre ≠ 0 then 6
  else 0

/-- R448: an AUTH: checks in order, the challenge consumed from check 3 on, then `act`, which tells whether every
fuse position verified (R444) and whether the response waits. Choices: log entries 8 and 50. -/
def State.authorise (s : State) (r : Request) (x : Terms) (act : State → State × Bool × Bool) : State :=
  if !x.shape then s.answer r 0x02 []
  else
    let reason := s.authReason r x
    let s := if reason = 2 then s else { s with smc := { s.smc with challenge := none } }
    if reason = 6 then (s.authStat r 6).answer r x.pre (if x.pre = 0x04 then [0x0E] else [])
    else if reason ≠ 0 then (s.authStat r reason).answer r 0x05 []
    else
      let y := act s
      if !y.2.1 then (y.1.authStat r 7).answer r Config.fuseFailStatus.toNat []
      else if y.2.2 then (y.1.authStat r 0).await r
      else (y.1.authStat r 0).answer r 0 []

/-- R446: check 1 of an action whose payload after the block is `extra` bytes long; ARG is zero where it is unused. -/
def Request.authShape (r : Request) (extra : Nat) (usesArg : Bool) : Bool :=
  r.status == 0 && r.payload.length == 256 + extra && zeroAt r.payload 2 2 && (usesArg || r.arg == 0)

/-- R447: the owner signs, in OWNED and OWNED_DEBUG. -/
def ownerOnly (x : LifeState) : Option Signer :=
  match x with
  | .owned => some .owner
  | .ownedDebug => some .owner
  | _ => none

/-- A signer permitted only in state `x`. -/
def onlyIn (x y : LifeState) (who : Signer) : Option Signer := if x = y then some who else none

/-! ### Actions without a lath operation's interest -/

/-- OPEN_DEBUG: the owner opens debug. -/
def execOpenDebug (s : State) : Host.Outcome State Fault Refusal :=
  match s.takeAction 0x01 with
  | none => .next s
  | some (r, s) =>
    .next (s.authorise r ⟨r.authShape 0 false, onlyIn s.life .owned .owner, 0⟩ fun s =>
      (({ s with smc := { s.smc with debug := true } }).noteLife .owned, true, false))

/-- LATH_SVN: LATH_SVN_MIN rises to ARG, one position at a time. Choices: log entry 50. -/
def execLathSvn (blown : Nat) (s : State) : Host.Outcome State Fault Refusal :=
  match s.takeAction 0x03 with
  | none => .next s
  | some (r, s) =>
    let old := s.fuses.lathSvnMin
    let pre := if old ≤ r.arg ∧ r.arg ≤ 128 ∧ s.smc.image.isSome ∧ r.arg ≤ s.smc.lathSvn then 0 else 0x03
    .next (s.authorise r ⟨r.authShape 0 true, ownerOnly s.life, pre⟩ fun s =>
      ({ s with fuses := { s.fuses with lathSvnMin := min r.arg (old + blown) } }, decide (r.arg ≤ old + blown), false))

/-- FW_SVN: FW_SVN_MIN rises to ARG, one position at a time. -/
def execFwSvn (blown : Nat) (s : State) : Host.Outcome State Fault Refusal :=
  match s.takeAction 0x04 with
  | none => .next s
  | some (r, s) =>
    let old := s.fuses.fwSvnMin
    let pre := if old ≤ r.arg ∧ r.arg ≤ 64 ∧ r.arg ≤ s.smc.fwSvn then 0 else 0x03
    .next (s.authorise r ⟨r.authShape 0 true, lathSigner s.life, pre⟩ fun s =>
      ({ s with fuses := { s.fuses with fwSvnMin := min r.arg (old + blown) } }, decide (r.arg ≤ old + blown), false))

/-- The fuses with slot `k` of the current generation replaced. -/
def Fuses.setSlot (f : Fuses) (k : Fin 4) (x : KeySlot) : Fuses :=
  { f with slots := f.slots.set (4 * (f.rcount % 4) + k.val) x (by omega) }

/-- A slot number of ARG. -/
def slotArg (arg : Nat) : Fin 4 := ⟨arg % 4, by omega⟩

/-- REVOKE: an owner slot is revoked; another usable slot must remain. -/
def execRevoke (blown : Nat) (s : State) : Host.Outcome State Fault Refusal :=
  match s.takeAction 0x05 with
  | none => .next s
  | some (r, s) =>
    let k := slotArg r.arg
    let others := keySlots.any fun j => j != k && (s.fuses.slot j).usable
    let pre := if r.arg < 4 ∧ others then 0 else 0x03
    .next (s.authorise r ⟨r.authShape 0 true, ownerOnly s.life, pre⟩ fun s =>
      let x := s.fuses.slot k
      ({ s with fuses := s.fuses.setSlot k { x with revoked := x.revoked || decide (1 ≤ blown) } }, decide (1 ≤ blown), false))

/-- CERT: the owner stores a certificate. Choices: log entry 50. -/
def execCert (s : State) : Host.Outcome State Fault Refusal :=
  match s.takeAction 0x06 with
  | none => .next s
  | some (r, s) =>
    let n := r.payload.length - 256
    let pre := if certAccepted (publicKey s.fuses.identity) r.extra then 0 else 0x03
    .next (s.authorise r ⟨r.authShape n false && decide (1 ≤ n ∧ n ≤ 4096), ownerOnly s.life, pre⟩ fun s =>
      ({ s with smc := { s.smc with cert := some r.extra } }, true, false))

/-- R444: the positions of key hash `h` that are not blown in `old`, lowest bit first. -/
def hashPositions (old h : BitVec 384) : List Nat := (List.range 384).filter fun i => h.getLsbD i && !old.getLsbD i

/-- R444: slot `x` with key hash `h` and its programmed fuse blown, `n` positions at most. -/
def KeySlot.program (x : KeySlot) (h : BitVec 384) (n : Nat) : KeySlot :=
  let ps := hashPositions x.hash h
  { x with
    hash := (ps.take n).foldl (fun (v : BitVec 384) i => v ||| BitVec.ofNat 384 (2 ^ i)) x.hash
    programmed := x.programmed || decide (ps.length < n) }

/-- The number of positions that programming slot `x` blows. -/
def KeySlot.positions (x : KeySlot) (h : BitVec 384) : Nat := (hashPositions x.hash h).length + 1

/-- The key hash in 48 bytes. -/
def hashOf (bs : List Byte) : BitVec 384 := BitVec.ofNat 384 (beNat bs)

/-- ADDKEY: an unprogrammed owner slot is programmed. -/
def execAddkey (blown : Nat) (s : State) : Host.Outcome State Fault Refusal :=
  match s.takeAction 0x08 with
  | none => .next s
  | some (r, s) =>
    let k := slotArg r.arg
    let pre := if r.arg < 4 ∧ !(s.fuses.slot k).programmed then 0 else 0x03
    .next (s.authorise r ⟨r.authShape 48 true, ownerOnly s.life, pre⟩ fun s =>
      let x := s.fuses.slot k
      ({ s with fuses := s.fuses.setSlot k (x.program (hashOf r.extra) blown) }, decide (x.positions (hashOf r.extra) ≤ blown), false))

/-! ### Transitions (R442 to R444) -/

/-- R442, R444: the next position of the counter is blown, if it verifies, and the transition recorded. -/
def State.countOn (s : State) (blown : Nat) : State :=
  if blown = 0 then s else ({ s with fuses := { s.fuses with count := s.fuses.count + 1 } }).noteLife s.life

/-- TO_BLANK: TEST becomes BLANK. -/
def execToBlank (blown : Nat) (s : State) : Host.Outcome State Fault Refusal :=
  match s.takeAction 0x10 with
  | none => .next s
  | some (r, s) =>
    .next (s.authorise r ⟨r.authShape 0 false, onlyIn s.life .test .vendor, 0⟩ fun s => (s.countOn blown, decide (1 ≤ blown), false))

/-- The slots of an ARG mask, lowest first. -/
def maskSlots (arg : Nat) : List (Fin 4) := keySlots.filter fun k => bitOf arg k.val

/-- R442: the slots `ks` are programmed with the hashes of `bs` in order, `n` positions at most: the fuses, and how
many positions are left. Choices: log entry 50. -/
def Fuses.provision (f : Fuses) (ks : List (Fin 4)) (bs : List Byte) (n : Nat) : Fuses × Nat :=
  match ks with
  | [] => (f, n)
  | k :: rest =>
    let x := f.slot k
    let h := hashOf (bs.take 48)
    (f.setSlot k (x.program h n)).provision rest (bs.drop 48) (n - x.positions h)

/-- PROVISION: owner slots are programmed, then BLANK becomes OWNED. -/
def execProvision (blown : Nat) (s : State) : Host.Outcome State Fault Refusal :=
  match s.takeAction 0x11 with
  | none => .next s
  | some (r, s) =>
    let ks := maskSlots r.arg
    let shape := r.authShape (48 * ks.length) true && decide (0 < r.arg ∧ r.arg < 16)
    let pre := if s.smc.cert.isSome then 0 else 0x03
    .next (s.authorise r ⟨shape, onlyIn s.life .blank .vendor, pre⟩ fun s =>
      let p := s.fuses.provision ks r.extra blown
      (({ s with fuses := p.1 }).countOn p.2, decide (1 ≤ p.2), false))

/-- REBLANK: RETURN becomes BLANK with the next generation of slots and a new identity key. -/
def execReblank (blown : Nat) (s : State) : Host.Outcome State Fault Refusal :=
  match s.takeAction 0x12 with
  | none => .next s
  | some (r, s) =>
    let pre := if s.fuses.rcount < 3 ∧ !s.smc.erasing then 0 else 0x03
    .next (s.authorise r ⟨r.authShape 0 false, onlyIn s.life .ret .vendor, pre⟩ fun s => (s.countOn blown, decide (1 ≤ blown), false))

/-- R443: no full image is in effect any more. -/
def State.dropImage (s : State) : State :=
  let s := ((s.setFieldOf 0x00 0x40 20 5 0).setReg 0x00 0x48 0).setReg 0x00 0x50 0
  { s with smc := { s.smc with image := none, imageSlotB := false, budget := [], partials := [], bootLoad := false } }

/-- R443: the work that follows the fuses: debug closes, IDLE is entered without a lath, the erasure begins.
Choices: log entry 50. -/
def State.startErasure (s : State) : State :=
  let s := s.dropImage
  { s with
    smc := { s.smc with debug := false, erasing := true }
    power := { s.power with target := if s.power.st = .idle then none else some .idle } }

/-- RETURN: the counter position is blown, IDLE is entered without a lath, and the erasure begins. -/
def execReturnAction (blown : Nat) (s : State) : Host.Outcome State Fault Refusal :=
  match s.takeAction 0x02 with
  | none => .next s
  | some (r, s) =>
    .next (s.authorise r ⟨r.authShape 0 false, ownerOnly s.life, if s.busy then 0x04 else 0⟩ fun s =>
      if blown = 0 then (s, false, false)
      else
        let s := (s.countOn blown).startErasure
        (s, true, s.power.target.isSome))

/-- SCRAP: the SCRAP fuse is blown, and the same content is erased. -/
def execScrap (blown : Nat) (s : State) : Host.Outcome State Fault Refusal :=
  match s.takeAction 0x07 with
  | none => .next s
  | some (r, s) =>
    .next (s.authorise r ⟨r.authShape 0 false, lathSigner s.life, if s.busy then 0x04 else 0⟩ fun s =>
      if blown = 0 then (s, false, false)
      else
        let s := (({ s with fuses := { s.fuses with scrap := true } }).noteLife s.life).startErasure
        (s, true, s.power.target.isSome))

/-! ### Erasure (R443) -/

/-- The channel table with zero in every byte. -/
def zeroTable : List Host.Cell := (List.range 2097152).map fun c => (ctBase + 8 * c + 6, 0)

/-- R443: the deep store, the ledges, the channel table and the mailbox are zeroed. -/
def State.zeroMemories (s : State) : State :=
  { s with
    dram := s.dram.zeroRange 0 s.deepSize
    sram := { s.sram with mem := zeroTable, flips := [], writeback := [], tags := [] } }

/-- ERASURE_COMPLETE: slots, channel-table store, staging buffer, certificate and every record but repair records
are erased, the memories zeroed where they have power; the requests that waited at a boot go on. Choices: log
entry 50. -/
def execErasureComplete (s : State) : Host.Outcome State Fault Refusal :=
  if !s.smc.erasing || !s.mgtOn || s.inRun || s.power.target.isSome then .next s
  else
    let keep (rs : List Record) : List Record := rs.filter fun r => isRepairRecord r.typ.toNat
    let s := { s with
      smc := { s.smc with slotA := [], slotB := [], ctStore := [], ctLen := 0, cert := none, erasing := false, eraseFirst := false }
      mgt := { s.mgt with session := none, staged := none }
      cairn := { s.cairn with seg0 := keep s.cairn.seg0, seg1 := keep s.cairn.seg1 } }
    .next ((if s.dieOn then s.zeroMemories else s).settleQueue 4)

end Sys2Proof.Machine
end

