-- ==== Sys2Proof/Machine/LathImage.lean ====
section
/-!
DEFINITION. The lath image (R25 to R41): header, directory, sections, content sets, bindings, records, and the store
contents and digests that an image gives each ridge.
-/

namespace Sys2Proof.Machine

/-! ### Sections (R26, R28) -/

/-- A directory entry with the bytes of its section. -/
structure Section where
  index : Nat
  typ : Nat
  level : Nat
  inst : Nat
  off : Nat
  len : Nat
  bytes : List Byte
  deriving DecidableEq, Repr

/-- The offset of the entry itself. -/
def Section.entry (x : Section) : Nat := 0x40 + 16 * x.index

/-- R26: the directory of an image. -/
def sectionsOf (img : List Byte) : List Section :=
  (List.range (nth 0 img 0x0F).toNat).map fun i =>
    let e := slice img (0x40 + 16 * i) 16
    let off := leAt e 4 4
    let len := leAt e 8 4
    ⟨i, leAt e 0 2, (nth 0 e 2).toNat, (nth 0 e 3).toNat, off, len, slice img off len⟩

/-- The sections of one TYPE. -/
def ofType (secs : List Section) (t : Nat) : List Section := secs.filter fun x => x.typ == t

/-- R25: FLAGS. -/
def imageFlags (img : List Byte) : Nat := leAt img 0x20 4
/-- FLAGS.PARTIAL. -/
def imagePartial (img : List Byte) : Bool := bitOf (imageFlags img) 0
/-- FLAGS.DEGRADED_OK. -/
def imageDegradedOk (img : List Byte) : Bool := bitOf (imageFlags img) 1

/-- The `n` words of `w` bytes at the front of a list. -/
def leWords (w n : Nat) (bs : List Byte) : List Nat :=
  match n with
  | 0 => []
  | n + 1 => leNat (bs.take w) :: leWords w n (bs.drop w)

/-! ### Content sets and bindings (R32, R33) -/

/-- A content set: its number, the address of its first word and its words. -/
structure ContentSet where
  num : Nat
  base : Nat
  words : List Nat
  deriving DecidableEq, Repr

/-- BASE of a content set's preamble. -/
def Section.setBase (x : Section) : Nat := leAt x.bytes 2 2
/-- COUNT of a content set's preamble. -/
def Section.setCount (x : Section) : Nat := leAt x.bytes 4 2
/-- The bytes of one word of a content set. -/
def Section.wordSize (x : Section) : Nat := if x.typ = 4 then 4 else 32

/-- The content set of a section. -/
def Section.content (x : Section) : ContentSet :=
  ⟨x.inst, x.setBase, leWords x.wordSize (min x.setCount ((x.len - 8) / x.wordSize)) (x.bytes.drop 8)⟩

/-- The content set with number `n` among the sets of TYPE `t`. -/
def contentSet (secs : List Section) (t n : Nat) : Option ContentSet :=
  ((ofType secs t).find? fun x => x.inst == n).map Section.content

/-- The sets that a binding names, with the byte that names each: bytes 0 to 7 for micro sets, 8 to 15 for stencil sets. -/
def Section.setNames (x : Section) (t : Nat) : List (Nat × Nat) :=
  let first := if t = 4 then 0 else 8
  ((List.range 8).map fun k => (first + k, (nth 0 x.bytes (first + k)).toNat)).filter fun p => p.2 != 0xFF

/-- The sets that a binding names and the image holds. -/
def boundSets (secs : List Section) (x : Section) (t : Nat) : List (Nat × ContentSet) :=
  (x.setNames t).filterMap fun p => (contentSet secs t p.2).map fun c => (p.1, c)

/-- The address after the last word of a set. -/
def ContentSet.last (c : ContentSet) : Nat := c.base + c.words.length

/-- The set covers address `a`. -/
def ContentSet.covers (c : ContentSet) (a : Nat) : Bool := decide (c.base ≤ a ∧ a < c.last)

/-- Two sets overlap in address. -/
def setsOverlap (c d : ContentSet) : Bool :=
  !c.words.isEmpty && !d.words.isEmpty && decide (c.base < d.last ∧ d.base < c.last)

/-! ### Store contents (R34, R39) -/

/-- A set in its place by address. -/
def insertSet (c : ContentSet) (cs : List ContentSet) : List ContentSet :=
  match cs with
  | [] => [c]
  | d :: rest => if c.base ≤ d.base then c :: d :: rest else d :: insertSet c rest

/-- Words with their addresses, those that equal the fill word left out. -/
def wordCells {w : Nat} (fill : BitVec w) (a : Nat) (ws : List Nat) : List (Nat × BitVec w) :=
  match ws with
  | [] => []
  | x :: rest =>
    let v := BitVec.ofNat w x
    if v = fill then wordCells fill (a + 1) rest else (a, v) :: wordCells fill (a + 1) rest

/-- R34: the contents of a store under the sets bound to a ridge, without the words that equal the fill word.
Choices: log entry 23. -/
def storeCells {w : Nat} (fill : BitVec w) (cs : List ContentSet) : List (Nat × BitVec w) :=
  (cs.foldr insertSet []).flatMap fun c => wordCells fill c.base c.words

/-- `n` words of a store from address `a` on, given cells that list no lower address. -/
def storeWords {w : Nat} (fill : BitVec w) (n : Nat) (cs : List (Nat × BitVec w)) (a : Nat) : List (BitVec w) :=
  match n, cs with
  | 0, _ => []
  | n + 1, (k, v) :: rest =>
    if k = a then v :: storeWords fill n rest (a + 1) else fill :: storeWords fill n ((k, v) :: rest) (a + 1)
  | n + 1, [] => fill :: storeWords fill n [] (a + 1)

/-- R34: the micro-store's fill word. -/
def microFill : BitVec 32 := 0x80000000

/-! ### Records (R29) -/

/-- A record of a register-image section, with its offset in the image. -/
structure LathRecord where
  at_ : Nat
  blk : Nat
  off : Nat
  val : Nat
  bytes : List Byte
  deriving DecidableEq, Repr

/-- `n` records from a list of bytes. -/
def recordsFrom (n a : Nat) (bs : List Byte) : List LathRecord :=
  match n with
  | 0 => []
  | n + 1 =>
    let r := bs.take 16
    ⟨a, (nth 0 r 0).toNat, leAt r 2 2, leAt r 8 8, r⟩ :: recordsFrom n (a + 16) (bs.drop 16)

/-- The records of a section, in section order. -/
def Section.records (x : Section) : List LathRecord := recordsFrom (x.bytes.length / 16) x.off x.bytes

/-- The records of every section of a TYPE. -/
def recordsOf (secs : List Section) (t : Nat) : List LathRecord := (ofType secs t).flatMap Section.records

/-- The last record, in section order, that writes a register. -/
def lastWrite (rs : List LathRecord) (blk off : Nat) : Option LathRecord :=
  (rs.filter fun r => r.blk == blk && r.off == off).getLast?

/-- The value that a lath-only register takes: the last record's, else `d`. -/
def writtenValue (rs : List LathRecord) (blk off d : Nat) : Nat :=
  match lastWrite rs blk off with
  | some r => r.val
  | none => d

/-! ### Content of a ridge (R39, R55) -/

/-- What R39 digests of a ridge: both stores and the bytes of the chain-section records that name it. -/
structure RidgeContent where
  micro : List (Nat × BitVec 32)
  nano : List (Nat × BitVec 256)
  chain : List Byte
  deriving DecidableEq, Repr

/-- The ridge binding of ridge `g` in an image. -/
def bindingOf (secs : List Section) (g : Nat) : Option Section := (ofType secs 6).find? fun x => x.inst == g

/-- The bytes of the chain-section records that name ridge `g`. -/
def chainBytes (secs : List Section) (g : Nat) : List Byte :=
  ((recordsOf secs 3).filter fun r => r.blk == 0xC0 + g).flatMap fun r => r.bytes

/-- The content that an image gives ridge `g`. -/
def contentOf (secs : List Section) (g : Nat) : RidgeContent :=
  match bindingOf secs g with
  | some b =>
    ⟨storeCells microFill ((boundSets secs b 4).map fun p => p.2), storeCells 0 ((boundSets secs b 5).map fun p => p.2), chainBytes secs g⟩
  | none => ⟨[], [], chainBytes secs g⟩

/-- A partial image laid over the content of its ridge: stores from its binding, records from its chain section if it has
one. -/
def RidgeContent.relath (c : RidgeContent) (secs : List Section) (g : Nat) : RidgeContent :=
  let n := contentOf secs g
  { n with chain := if (ofType secs 3).isEmpty then c.chain else n.chain }

/-- R39: the bytes that a ridge adds to a digest. -/
def RidgeContent.bytes (c : RidgeContent) : List Byte :=
  (storeWords microFill 8192 c.micro 0).flatMap (fun w => leBytes 4 w.toNat)
    ++ (storeWords (0 : BitVec 256) 1024 c.nano 0).flatMap (fun w => leBytes 32 w.toNat) ++ c.chain

/-- R39: CONTENT_DIGEST over the ridges of a mask. -/
def contentDigest (content : Nat → RidgeContent) (mask : Nat) : List Byte :=
  (sha384 (((List.range 32).filter (bitOf mask)).flatMap fun g => (content g).bytes)).take 16

/-! ### Timing budget (R38) -/

/-- An entry of the timing-budget record from its 32 bytes. -/
def budgetOf (bs : List Byte) : Budget where
  algId := BitVec.ofNat 16 (leAt bs 0 2)
  queue := nth 0 bs 2
  bound := BitVec.ofNat 32 (leAt bs 4 4)
  mask := BitVec.ofNat 32 (leAt bs 8 4)
  digest := BitVec.ofNat 128 (leAt bs 16 16)

/-- `n` budget entries from a list of bytes. -/
def budgetsFrom (n : Nat) (bs : List Byte) : List Budget :=
  match n with
  | 0 => []
  | n + 1 => budgetOf (bs.take 32) :: budgetsFrom n (bs.drop 32)

/-- The number of whole entries of a timing-budget section. -/
def Section.entries (x : Section) : Nat := min 256 (x.len / 32)

/-- The budget entries of an image, each with the offset of its first byte. -/
def budgetEntries (secs : List Section) : List (Nat × Budget) :=
  (ofType secs 0x0C).flatMap fun x =>
    (List.range x.entries).zip (budgetsFrom x.entries x.bytes) |>.map fun p => (x.off + 32 * p.1, p.2)

/-! ### Channel table (R35, R36) -/

/-- The entries that an image writes to the channel table: first index and the bytes of the entries. -/
def inlineEntries (secs : List Section) : List (Nat × List Byte) :=
  (ofType secs 0x0A).map fun x => (leAt x.bytes 0 4, (x.bytes.drop 8).take (8 * leAt x.bytes 4 4))

/-- R37: the image carries a channel-table section. -/
def hasChannelTable (secs : List Section) : Bool := !(ofType secs 0x0A).isEmpty || !(ofType secs 0x0B).isEmpty

/-! ### Site map (R31) -/

/-- The site of each logical ridge. -/
def ridgeMapOf (secs : List Section) : List Nat :=
  match ofType secs 1 with
  | x :: _ => (x.bytes.take 32).map fun b => b.toNat
  | [] => List.range 32

/-- The lane map of site `st`. -/
def laneMapOf (secs : List Section) (st : SiteId) : List Nat :=
  match ofType secs 1 with
  | x :: _ => (slice x.bytes (64 + 16 * st.val) 16).map fun b => b.toNat
  | [] => List.range 16

end Sys2Proof.Machine
end

