-- ==== Sys2Proof/Machine/LathCheck.lean ====
section
/-!
DEFINITION. The checks of a lath image in the order of R43, with the RESULT, SECTION and OFFSET of R496.
-/

namespace Sys2Proof.Machine

/-! ### Failures (R496) -/

/-- A failed check: OFFSET, SECTION and RESULT. -/
structure LathFail where
  off : Nat
  sec : Nat
  res : Nat
  deriving DecidableEq, Repr

/-- The failure with the lowest OFFSET, the first of those with the same one. Choices: log entry 37. -/
def lowestFail (xs : List LathFail) : Option LathFail :=
  match xs with
  | [] => none
  | x :: rest =>
    match lowestFail rest with
    | some y => if y.off < x.off then some y else some x
    | none => some x

/-- A failure of the header, directory, padding or signature block. Choices: log entry 37. -/
def headFail (off res : Nat) : LathFail := ⟨off, 0xFF, res⟩

/-- The failures that hold among some. -/
def failures (xs : List (Bool × LathFail)) : List LathFail := (xs.filter fun x => x.1).map fun x => x.2

/-- The positions in `[off, off + n)` of nonzero bytes. -/
def nonzeroBytes (bs : List Byte) (off n : Nat) : List Nat := (List.range n).filterMap fun i => if nth 0 bs (off + i) = 0 then none else some (off + i)

/-! ### Checks 1 to 4 (R43) -/

/-- The largest image a source can supply: a slot holds 48 MiB, the staging buffer what its session wrote. -/
def State.lathLimit (s : State) (src : LathSource) : Nat :=
  match src with
  | .push => (s.mgt.staged.getD []).length
  | _ => 0x03000000

/-- The first `n` bytes that a source supplies. -/
def State.lathBytes (s : State) (src : LathSource) (n : Nat) : List Byte :=
  match src with
  | .slotA => flashRead s.smc.slotA 0 n
  | .slotB => flashRead s.smc.slotB 0 n
  | .push => (s.mgt.staged.getD []).take n

/-- Check 1: MAGIC, FORMAT and IMAGE_LENGTH. -/
def checkLayout (limit : Nat) (head : List Byte) : List LathFail :=
  let len := leAt head 0x10 4
  failures [
    (leAt head 0 8 != 0x4854414C54535548, headFail 0x00 0x01),
    (leAt head 8 2 != 1, headFail 0x08 0x01),
    (!decide (0x140 ≤ len ∧ len ≤ 0x03000000 ∧ len % 64 = 0 ∧ len ≤ limit), headFail 0x10 0x01)]

/-- Check 2: PART, stepping and SPEED against SYS_ID. -/
def checkPart (speed20 : Bool) (img : List Byte) : List LathFail :=
  let speed := (nth 0 img 0x0E).toNat
  failures [
    (leAt img 0x0A 2 != 0x8128, headFail 0x0A 0x02),
    (nth 0 img 0x0C != 0x41, headFail 0x0C 0x02),
    (nth 0 img 0x0D != 0x02, headFail 0x0D 0x02),
    (speed != 0 && speed != (if speed20 then 2 else 1), headFail 0x0E 0x02)]

/-- Check 3: the signer's key, and then the signature. -/
def State.checkSignature (s : State) (img : List Byte) : List LathFail :=
  let sb := img.length - 256
  let slot := (nth 0 img sb).toNat
  let pub := slice img (sb + 0x10) 96
  let accepted := match lathSigner s.life with
    | some who => s.fuses.keyAccepted who slot
    | none => false
  if !accepted then [headFail sb 0x05]
  else if !s.fuses.keyMatches slot pub then [headFail (sb + 0x10) 0x05]
  else if !(validKey pub && ecdsaVerify pub (sha384 (img.take (sb + 112))) (slice img (sb + 0x70) 96)) then [headFail (sb + 0x70) 0x04]
  else []

/-- Check 4: the security version number. -/
def State.checkSvn (s : State) (img : List Byte) : List LathFail :=
  failures [(decide (leAt img 0x14 4 < s.fuses.lathSvnMin), headFail 0x14 0x06)]

/-! ### Check 5: the directory (R26 to R29, R49, R55) -/

/-- R28: TYPE is defined. -/
def typeDefined (t : Nat) : Bool := decide (1 ≤ t ∧ t ≤ 0x0C)
/-- R55: TYPE may occur in a partial image. -/
def typePartial (t : Nat) : Bool := t == 3 || t == 4 || t == 5 || t == 6 || t == 0x0C

/-- R28: the highest INSTANCE of a TYPE. -/
def topInstance (t : Nat) : Nat := if t = 4 ∨ t = 5 then 63 else if t = 6 then 31 else if t = 7 ∨ t = 0x0A then 15 else 0

/-- R28: the instances of a TYPE are distinct; of other types one section may occur. -/
def typeDistinct (t : Nat) : Bool := t == 4 || t == 5 || t == 6 || t == 7 || t == 0x0A

/-- R29: the bits of a register that are marked E. Choices: log entry 38. -/
def expertMask (blk off : Nat) : Nat :=
  if blk = 0x03 then (if off = 0x10 then 0x3 else if 0x100 ≤ off ∧ off < 0x218 then 0x7F00 else 0)
  else if blk = 0x04 then
    (if off = 0x20 then 0xFFFFFFFF else if 0x100 ≤ off ∧ off < 0x200 then 0x011F011F011F011F
     else if 0x300 ≤ off ∧ off < 0x428 then 0x3F3F else 0)
  else if blk = 0x06 then (if off = 0x18 then 0xFF else 0)
  else if blk = 0x07 then (if off = 0x10 then 0x4 else 0)
  else if blk = 0x08 then (if off = 0x10 then 0xFF else 0)
  else if blk = 0x0B then (if off = 0x10 then 0x2 else 0)
  else if blk = 0x0C then (if off = 0x608 then 0xFF else 0)
  else if 0x10 ≤ blk ∧ blk ≤ 0x2F then (if off = 0x10 then 0x3F3F else if blk = 0x10 ∧ off = 0x40 then 0x107 else 0)
  else if 0xC0 ≤ blk ∧ blk ≤ 0xDF then (if off = 0x1400 then 0x3F3F3F01 else 0)
  else 0

/-- R29: a record writes a field marked E with a value other than its reset value. -/
def LathRecord.expert (r : LathRecord) : Bool :=
  (r.val &&& expertMask r.blk r.off) != (regResetOf (regKey r.blk r.off) &&& expertMask r.blk r.off)

/-- R28: a micro content set with a word above 0x0FFF. -/
def Section.expertSet (x : Section) : Bool := x.setCount != 0 && decide (0x1000 < x.setBase + x.setCount)

/-- R28: the level that a section has by its content: 0 basic, 1 expert. Choices: log entry 38. -/
def levelOf (secs : List Section) (x : Section) : Nat :=
  let expertMicro (b : Section) : Bool := (b.setNames 4).any fun p => (ofType secs 4).any fun y => y.inst == p.2 && y.expertSet
  match x.typ with
  | 2 => 1
  | 4 => b2n x.expertSet
  | 5 => b2n ((ofType secs 6).any fun b => (b.setNames 5).any (fun p => p.2 == x.inst) && expertMicro b)
  | 3 => b2n (x.records.any LathRecord.expert)
  | 7 => b2n (x.records.any LathRecord.expert)
  | 8 => b2n (x.records.any LathRecord.expert)
  | 9 => b2n (x.records.any LathRecord.expert)
  | _ => 0

/-- One directory entry on its own: TYPE, LEVEL, INSTANCE, bounds and reserved bytes. Choices: log entry 37. -/
def checkEntry (img : List Byte) (pushed : Bool) (secs : List Section) (x : Section) : List LathFail :=
  let e := x.entry
  let sb := img.length - 256
  let dirEnd := 0x40 + 16 * secs.length
  failures [
    (!typeDefined x.typ, headFail e 0x07),
    (typeDefined x.typ && pushed && !typePartial x.typ, headFail e 0x0F),
    (typeDefined x.typ && x.level != levelOf secs x, headFail (e + 2) 0x07),
    (typeDefined x.typ && decide (topInstance x.typ < x.inst), headFail (e + 3) 0x03),
    (x.off % 64 != 0 || decide (x.off < dirEnd) || decide (sb ≤ x.off), headFail (e + 4) 0x03),
    (x.len == 0 || (decide (x.off < sb) && decide (sb < x.off + x.len)), headFail (e + 8) 0x03)]
  ++ (nonzeroBytes img (e + 12) 4).map fun k => headFail k 0x07

/-- One directory entry beside the entries before it: order, overlap, repetition and occurrence. Choices: log entry
37. -/
def checkAgainst (pushed : Bool) (earlier : List Section) (x : Section) : List LathFail :=
  let e := x.entry
  let same := earlier.filter fun y => y.typ == x.typ
  let both := (x.typ == 0x0B && earlier.any fun y => y.typ == 0x0A) || (x.typ == 0x0A && earlier.any fun y => y.typ == 0x0B)
  failures ([
    (match earlier.getLast? with
      | some y => decide (x.off < y.off)
      | none => false, headFail (e + 4) 0x03),
    (typeDistinct x.typ && same.any fun y => y.inst == x.inst, headFail (e + 3) 0x03),
    (typeDefined x.typ && !typeDistinct x.typ && !same.isEmpty, headFail e 0x03),
    (pushed && x.typ == 6 && !same.isEmpty, headFail e 0x03),
    (both, headFail e 0x03)]
  ++ earlier.map fun y =>
    (decide (y.off < x.off + x.len ∧ x.off < y.off + y.len), headFail ((if x.off < y.off then y.entry else e) + 4) 0x03))

/-- R28, R55: the sections that an image must have are there. Choices: log entry 37. -/
def requiredThere (pushed : Bool) (secs : List Section) : Bool :=
  let has (t : Nat) : Bool := !(ofType secs t).isEmpty
  if pushed then has 6
  else has 1 && has 4 && has 5 && (List.range 32).all (fun g => (bindingOf secs g).isSome) && (!has 9 || has 0x0C)

/-- Check 5: header and directory, against a full load or a push. Choices: log entry 37. -/
def checkDirectory (pushed : Bool) (img : List Byte) : List LathFail :=
  let secs := sectionsOf img
  let flags := imageFlags img
  failures [
    (secs.isEmpty || decide (64 < secs.length), headFail 0x0F 0x03),
    (imagePartial img != pushed, headFail 0x20 0x0F),
    (decide (4 ≤ flags % 256), headFail 0x20 0x07)]
  ++ ((nonzeroBytes img 0x21 31).map fun k => headFail k 0x07)
  ++ secs.flatMap (fun x => checkEntry img pushed secs x ++ checkAgainst pushed (secs.take x.index) x)
  ++ failures [(!requiredThere pushed secs, headFail 0x40 0x03)]

/-! ### Check 6: the sections (R29 to R38, R496) -/

/-- R496: the length that a section's content implies. -/
def Section.implied (x : Section) : Nat :=
  match x.typ with
  | 1 => 608
  | 6 => 16
  | 0x0B => 64
  | 4 => if x.len < 8 then 8 else 8 + 4 * x.setCount
  | 5 => if x.len < 8 then 8 else 8 + 32 * x.setCount
  | 0x0A => if x.len < 8 then 8 else 8 + 8 * leAt x.bytes 4 4
  | 0x0C => 32 * x.entries
  | _ => 16 * (x.len / 16)

/-- A failure inside a section, at a byte of it. -/
def Section.fail (x : Section) (k res : Nat) : LathFail := ⟨x.off + k, x.index, res⟩

/-- Bytes `lo` to `lo + n - 1` of a section, of which value `v` is out of range or repeats an earlier one. -/
def Section.places (x : Section) (lo n top : Nat) : List LathFail :=
  let vs := (slice x.bytes lo n).map fun b => b.toNat
  failures ((List.range n).map fun k =>
    (decide (top < nth 0 vs k) || (vs.take k).contains (nth 0 vs k), x.fail (lo + k) 0x08))

/-- R31: a site map. -/
def Section.checkSiteMap (x : Section) : List LathFail :=
  x.places 0 32 33 ++ (nonzeroBytes x.bytes 32 32).map (fun k => x.fail k 0x07)
    ++ (List.range 34).flatMap fun st => x.places (64 + 16 * st) 16 17

/-- R29: the blocks that a section's records may name. -/
def Section.allows (x : Section) (blk : Nat) : Bool :=
  match x.typ with
  | 2 => blk == 0x04
  | 3 => decide (0xC0 ≤ blk ∧ blk ≤ 0xDF)
  | 7 => blk == 0x30 + x.inst
  | 8 => blk == 0x08
  | _ => blk == 0x09

/-- R30: a record can write the register: it is lath-only or has a field with access RW or WO. -/
def recordable (blk off : Nat) : Bool :=
  match regDesc blk off with
  | some r => r.lathOnly || r.fields.any fun f => f.acc == .rw || f.acc == .wo
  | none => false

/-- R12, R13, R30: the record's write would set CFGERR. Choices: log entry 38. -/
def State.recordSetsError (s : State) (r : LathRecord) : Bool :=
  match regDesc r.blk r.off with
  | some d =>
    let w := d.write true (s.writeBase r.blk r.off) r.val (2 ^ 64 - 1)
    let group : Fin 16 := ⟨(r.blk - 0x30) % 16, by omega⟩
    let inGroup := decide (0x30 ≤ r.blk ∧ r.blk ≤ 0x3F)
    w.err || (inGroup && r.off == 0x230 && decide (s.ringUnits group ≤ field w.new 0 32))
      || (inGroup && r.off == 0x248 && decide (s.egCount group ≤ field w.new 0 16))
      || (decide (0xC0 ≤ r.blk ∧ 0x1500 ≤ r.off ∧ r.off < 0x1540) && field w.new 0 48 % 4 != 0)
  | none => true

/-- R29, R30: one record of a register-image section; `s` holds what the records before it wrote. DESIGN CHOICE (log entry
38): R496 names no byte for these failures. A block that the section may not write, or in a partial image a block other than
the target ridge's, is reported with RESULT 0x07 at the BLOCK byte; a register that no record may write at record byte 2; a
write that would set CFGERR at record byte 8. -/
def State.checkRecord (s : State) (x : Section) (only : Option Nat) (r : LathRecord) : List LathFail :=
  let k := r.at_ - x.off
  let target := match only with
    | some g => r.blk == 0xC0 + g
    | none => true
  let named := recordable r.blk r.off
  failures [
    (!x.allows r.blk || !target, x.fail k 0x07),
    (nth 0 r.bytes 1 != 0, x.fail (k + 1) 0x07),
    (!named, x.fail (k + 2) 0x07),
    (named && s.recordSetsError r, x.fail (k + 8) 0x07)]
  ++ (nonzeroBytes r.bytes 4 4).map fun b => x.fail (k + b) 0x07

/-- R30: one record takes effect. -/
def State.applyRecord (s : State) (r : LathRecord) : State := s.cfgWrite true r.blk r.off 8 r.val

/-- R29: the records of a section, each checked on the registers as the records before it left them. Choices: log
entry 38. -/
def State.checkRecords (s : State) (x : Section) (only : Option Nat) (rs : List LathRecord) : List LathFail :=
  match rs with
  | [] => []
  | r :: rest => s.checkRecord x only r ++ (s.applyRecord r).checkRecords x only rest

/-- R32: the preamble of a content set. -/
def Section.checkPreamble (x : Section) : List LathFail :=
  let top := if x.typ = 4 then 0x1FFF else 1023
  failures [
    ((nth 0 x.bytes 0).toNat != x.inst, x.fail 0 0x08),
    (nth 0 x.bytes 1 != 0, x.fail 1 0x07),
    (decide (top < x.setBase), x.fail 2 0x08),
    (decide (x.setBase ≤ top ∧ top + 1 < x.setBase + x.setCount), x.fail 4 0x08)]
  ++ (nonzeroBytes x.bytes 6 2).map fun k => x.fail k 0x07

/-- The words of a content set with the byte at which each begins. -/
def Section.wordsAt (x : Section) : List (Nat × Nat) :=
  let ws := x.content.words
  ((List.range ws.length).map fun k => 8 + x.wordSize * k).zip ws

/-- R33, R190: microwords of even parity. -/
def Section.checkMicro (x : Section) : List LathFail :=
  failures (x.wordsAt.map fun p => (!oddParity 32 p.2, x.fail p.1 0x08))

/-- A source code of a unit slice is reserved; the accumulator is a source of unit M alone. -/
def sourceReserved (u : VUnit) (v : Nat) : Bool := decide (0x0B ≤ v) || (v == 0x0A && u != .m)

/-- R200: the fields of a slice with a reserved value or out of range: bit position and RESULT. -/
def sliceFails (u : VUnit) (writes : Bool) (v : Nat) : List (Nat × Nat) :=
  let x := sliceOf v
  ([(x.en && !(List.range 11).any fun et => unitFunction u x.func et, 1, 0x08),
    (!x.en && x.func != 0, 1, 0x08),
    (sourceReserved u x.src1, 13, 0x07),
    (sourceReserved u x.src2, 17, 0x07),
    (sourceReserved u x.src3, 21, 0x07),
    (decide (5 ≤ x.dst) || (x.dst == 4 && u != .m), 25, 0x07),
    (x.dst == 1 && x.en && !writes, 25, 0x08),
    (decide (9 ≤ x.clw), 28, 0x07)].filter fun p => p.1).map fun p => p.2

/-- R199: the failing fields of a custom nano-word: bit position and RESULT. Choices: log entry 38. -/
def nanoFails (nano : Nat) : List (Nat × Nat) :=
  let wr := field nano 132 2
  ((List.range 4).zip vunits).flatMap (fun p => (sliceFails p.2 (wr != 0) (field nano (32 * p.1) 32)).map fun q => (32 * p.1 + q.1, q.2))
  ++ (([(decide (2 ≤ field nano 128 2), 128), (field nano 130 2 == 3, 130), (wr == 3, 132), (field nano 142 2 == 3, 142)].filter fun p => p.1).map
      fun p => (p.2, 0x07))
  ++ (((List.range' 134 3 ++ List.range' 144 48 ++ List.range' 205 51).filter (bitOf nano)).map fun b => (b, 0x07))

/-- R199 to R201: the custom nano-words of a stencil content set. -/
def Section.checkStencil (x : Section) : List LathFail :=
  (x.wordsAt.filter fun p => decide (0x200 ≤ x.setBase + (p.1 - 8) / 32)).flatMap fun p =>
    (nanoFails p.2).map fun q => x.fail (p.1 + q.1 / 8) q.2

/-- R33: a binding names a set number or 0xFF. -/
def Section.checkBinding (x : Section) : List LathFail :=
  failures ((List.range 16).map fun k =>
    (let v := (nth 0 x.bytes k).toNat
    decide (63 < v ∧ v < 0xFF), x.fail k 0x08))

/-- R35, R36: FIRST and COUNT at byte `k` of a channel-table section. -/
def Section.checkRange (x : Section) (k : Nat) : List LathFail :=
  let first := leAt x.bytes k 4
  let count := leAt x.bytes (k + 4) 4
  failures [
    (decide (2097152 ≤ first), x.fail k 0x08),
    (decide (first < 2097152 ∧ 2097152 < first + count), x.fail (k + 4) 0x08)]

/-- R38: the entries of a timing-budget record. -/
def Section.checkBudget (x : Section) : List LathFail :=
  let es := budgetsFrom x.entries x.bytes
  (List.range x.entries).flatMap fun k =>
    match es[k]? with
    | some b =>
      failures [
        ((es.take k).any fun c => c.algId == b.algId, x.fail (32 * k) 0x08),
        (decide (15 < b.queue.toNat) && b.queue != 0xFF, x.fail (32 * k + 2) 0x08),
        (nth 0 x.bytes (32 * k + 3) != 0, x.fail (32 * k + 3) 0x07),
        (b.bound == 0, x.fail (32 * k + 4) 0x07),
        (b.mask == 0, x.fail (32 * k + 8) 0x08)]
      ++ (nonzeroBytes x.bytes (32 * k + 12) 4).map fun j => x.fail j 0x07
    | none => []

/-- The content of one section; `base` is the machine that its records would write to. -/
def State.checkContent (base : State) (only : Option Nat) (x : Section) : List LathFail :=
  match x.typ with
  | 1 => x.checkSiteMap
  | 4 => x.checkPreamble ++ x.checkMicro
  | 5 => x.checkPreamble ++ x.checkStencil
  | 6 => x.checkBinding
  | 0x0A => x.checkRange 0
  | 0x0B => x.checkRange 48 ++ (nonzeroBytes x.bytes 56 8).map fun k => x.fail k 0x07
  | 0x0C => x.checkBudget
  | _ => base.checkRecords x only x.records

/-- Check 6 on one section: LENGTH first, then its bytes. -/
def State.checkSection (base : State) (only : Option Nat) (x : Section) : Option LathFail :=
  if x.len ≠ x.implied then some (x.fail (min x.len x.implied) 0x08) else lowestFail (base.checkContent only x)

/-- Check 6: the first failing section in directory order. -/
def State.checkSections (base : State) (only : Option Nat) (secs : List Section) : Option LathFail :=
  match secs with
  | [] => none
  | x :: rest =>
    match base.checkSection only x with
    | some f => some f
    | none => base.checkSections only rest

/-! ### Check 7: padding and the signature block -/

/-- R27: the nonzero bytes between the end of one part and the start of the next. -/
def gapBytes (img : List Byte) (from_ : Nat) (starts : List (Nat × Nat)) : List Nat :=
  match starts with
  | [] => []
  | (off, len) :: rest => nonzeroBytes img from_ (off - from_) ++ gapBytes img (off + len) rest

/-- Check 7: padding and the reserved bytes of the signature block. -/
def checkPadding (img : List Byte) (secs : List Section) : List LathFail :=
  let sb := img.length - 256
  (gapBytes img (0x40 + 16 * secs.length) ((secs.map fun x => (x.off, x.len)) ++ [(sb, 0)])
    ++ nonzeroBytes img (sb + 1) 15 ++ nonzeroBytes img (sb + 0xD0) 48).map fun k => headFail k 0x07

/-! ### Check 8: relations (R33, R35, R36, R105, R204, R392) -/

/-- R33: the sets that one binding names: present, not overlapping, and covering the vendor range. Choices: log
entry 39. -/
def checkBound (secs : List Section) (x : Section) : List LathFail :=
  let side (t : Nat) : List LathFail :=
    let names := x.setNames t
    names.flatMap fun p =>
      let earlier := names.filter fun q => decide (q.1 < p.1)
      failures [(match contentSet secs t p.2 with
        | none => true
        | some c => earlier.any fun q => q.2 == p.2 || (match contentSet secs t q.2 with
          | some d => setsOverlap d c
          | none => false), x.fail p.1 0x08)]
  let micro := boundSets secs x 4
  side 4 ++ side 5
    ++ failures [(!(List.range 0x1000).all fun a => micro.any fun p => p.2.covers a, x.fail 0 0x08)]

/-- The word at address `a` under the sets of a binding, with the byte that names its set. -/
def boundWord (sets : List (Nat × ContentSet)) (a : Nat) : Option (Nat × Nat) :=
  (sets.find? fun p => p.2.covers a).map fun p => (p.1, nth 0 p.2.words (a - p.2.base))

/-- A custom code of a ridge: its directory address, code and header address. -/
structure CustomCode where
  dir : Nat
  code : Nat
  entry : Nat
  deriving DecidableEq, Repr

/-- R202: the directory words that are not empty. -/
def directoryOf (sets : List (Nat × ContentSet)) : List CustomCode :=
  (List.range 256).filterMap fun k =>
    match boundWord sets (0x1000 + k) with
    | some (_, w) => if field w 0 12 = 0 then none else some ⟨0x1000 + k, field w 0 12, field w 12 13⟩
    | none => none

/-- R202: a directory word fails. -/
def directoryFails (sets : List (Nat × ContentSet)) (codes : List CustomCode) (a : Nat) : List Nat :=
  match boundWord sets a with
  | some (pos, w) =>
    let code := field w 0 12
    let entry := field w 12 13
    let bad :=
      if code = 0 then w != 0x80000000
      else decide (code < 0x800) || decide (entry < 0x1100 ∨ 0x1FFD < entry) || field w 25 6 != 0
        || codes.any fun c => c.code == code && decide (c.dir < a)
    if bad then [pos] else []
  | none => []

/-- R203: the header of a code; an uncovered word is held against its directory word. -/
def headerFails (sets : List (Nat × ContentSet)) (c : CustomCode) : List Nat :=
  let word (k : Nat) : Option (Nat × Nat) := boundWord sets (c.entry + k)
  let dir := (boundWord sets c.dir).toList.map fun p => p.1
  (List.range 3).flatMap fun k =>
    match word k with
    | none => dir
    | some (pos, w) =>
      let bad :=
        if k = 0 then field w 22 9 != 0 || decide (8 < field w 18 4)
        else if k = 1 then field w 24 7 != 0
        else field w 13 18 != 0
      if bad then [pos] else []

/-- R204: whether the microword at address `a` may be reached by a custom routine. -/
def reachable (codes : List CustomCode) (nano : Nat → Nat) (sel : Bool) (a w : Nat) : Bool :=
  decide (0x1100 ≤ a ∧ a ≤ 0x1FFF) && !(codes.any fun c => decide (c.entry ≤ a ∧ a < c.entry + 3)) && field w 23 4 != 7
    && decide (field w 27 4 ≤ 8) && (field (nano (field w 13 10)) 132 2 != 2 || sel)

/-- R204: a routine is followed from the addresses in `todo`, each with the byte that names the set of the word that
led to it; the bytes that name the sets of failing words. Choices: log entry 39. -/
def walkRoutine (fuel : Nat) (sets : List (Nat × ContentSet)) (codes : List CustomCode) (nano : Nat → Nat) (sel : Bool)
    (todo : List (Nat × Nat)) (seen : List Nat) : List Nat :=
  match fuel, todo with
  | _, [] => []
  | 0, _ => []
  | fuel + 1, (a, led) :: rest =>
    if seen.contains a then walkRoutine fuel sets codes nano sel rest seen
    else
      match boundWord sets a with
      | none => led :: walkRoutine fuel sets codes nano sel rest (a :: seen)
      | some (pos, w) =>
        if !reachable codes nano sel a w then pos :: walkRoutine fuel sets codes nano sel rest (a :: seen)
        else
          let next := if field w 27 4 = 8 then [] else if field w 23 4 = 0 then [field w 0 13] else [field w 0 13, field w 0 13 ||| 1]
          walkRoutine fuel sets codes nano sel (rest ++ next.map fun b => (b, pos)) (a :: seen)

/-- R202 to R204: the custom codes of one binding. -/
def checkCustom (secs : List Section) (x : Section) : List LathFail :=
  let sets := boundSets secs x 4
  let nanos := boundSets secs x 5
  let nano (a : Nat) : Nat := match boundWord nanos a with
    | some (_, w) => w
    | none => 0
  let codes := directoryOf sets
  let defined := codes.filter fun c => decide (0x800 ≤ c.code)
  let routine (c : CustomCode) : List Nat :=
    match boundWord sets c.entry, boundWord sets (c.entry + 2) with
    | some (_, h0), some (pos, h2) => walkRoutine 32768 sets defined nano (bitOf h0 15) [(field h2 0 13, pos)] []
    | _, _ => []
  ((List.range 256).flatMap (fun k => directoryFails sets codes (0x1000 + k)) ++ defined.flatMap (headerFails sets)
    ++ defined.flatMap routine).map fun pos => x.fail pos 0x08

/-- R35: an inline section overlaps one before it in directory order. Choices: log entry 39. -/
def checkInline (secs : List Section) : List LathFail :=
  (ofType secs 0x0A).flatMap fun x =>
    let range (y : Section) : Nat × Nat := (leAt y.bytes 0 4, leAt y.bytes 0 4 + leAt y.bytes 4 4)
    let r := range x
    failures [((ofType secs 0x0A).any fun y =>
      let q := range y
      decide (y.index < x.index ∧ q.1 < q.2 ∧ r.1 < r.2 ∧ q.1 < r.2 ∧ r.1 < q.2), x.fail 0 0x08)]

/-- R36: the channel-table store has the length and the digest that the reference gives. Choices: log entry 39. -/
def Smc.referenceMatches (m : Smc) (x : Section) : Bool :=
  let n := 8 * leAt x.bytes 52 4
  m.ctLen == n && sha384 (flashRead m.ctStore 0 n) == x.bytes.take 48

/-- R105: the topology that SE_CHAINn gives: the value of CHID `n`'s register on ridge `g`. -/
abbrev Topology := Nat → Nat → Nat

/-- IN of a ridge for a CHID. -/
def Topology.input (v : Topology) (g n : Nat) : Nat := field (v g n) 0 2
/-- OUT of a ridge for a CHID. -/
def Topology.output (v : Topology) (g n : Nat) : Nat := field (v g n) 2 2
/-- MEMBERS of a ridge for a CHID. -/
def Topology.members (v : Topology) (g n : Nat) : Nat := field (v g n) 4 3

/-- The ridge that OUT names. -/
def outNeighbour (g out : Nat) : Nat := if out = 3 then (g + 1) % 32 else (g + 31) % 32

/-- The ridges of CHID `n` in path order from ridge `g` on. -/
def Topology.path (v : Topology) (fuel n g : Nat) : List Nat :=
  match fuel with
  | 0 => []
  | fuel + 1 => if v.output g n = 0 then [g] else g :: v.path fuel n (outNeighbour g (v.output g n))

/-- R105: the failed rules, each as the registers (ridge, CHID) that it names. Choices: log entry 39. -/
def Topology.failedRules (v : Topology) : List (List (Nat × Nat)) :=
  let ridges := List.range 32
  let chids := List.range 16
  let hop : List (List (Nat × Nat)) := chids.flatMap fun n => ridges.filterMap fun g =>
    let out := v.output g n
    let h := outNeighbour g out
    if out ≠ 0 ∧ (v.input h n ≠ 5 - out ∨ v.members g n = 0 ∨ v.members h n = 0) then some [(g, n), (h, n)] else none
  let single : List (List (Nat × Nat)) := chids.filterMap fun n =>
    let mem := ridges.filter fun g => v.members g n != 0
    let onePath := match mem.filter fun g => v.input g n == 0 with
      | [g] =>
        let p := v.path 33 n g
        p.length == mem.length && mem.all p.contains
      | _ => mem.isEmpty
    if onePath then none else some (mem.map fun g => (g, n))
  let slots : List (List (Nat × Nat)) := ridges.filterMap fun g =>
    if 16 < (chids.map (v.members g)).sum then some (chids.map fun n => (g, n)) else none
  let credits : List (List (Nat × Nat)) := ridges.flatMap fun g => [2, 3].filterMap fun d =>
    let ns := chids.filter fun n => v.output g n == d
    if 64 < (ns.map fun n => field (v g n) 8 7).sum then some (ns.map fun n => (g, n)) else none
  hop ++ single ++ slots ++ credits

/-- R496: the VALUE field of the last record that writes one of some registers, or the section's first byte.
Choices: log entry 39. -/
def ruleFail (x : Section) (regs : List (Nat × Nat)) : LathFail :=
  match (x.records.filter fun r => regs.contains (r.blk, r.off)).getLast? with
  | some r => x.fail (r.at_ - x.off + 8) 0x08
  | none => x.fail 0 0x08

/-- R105: the chain topology after the records of a chain section over the values `now`. -/
def checkTopology (secs : List Section) (now : Topology) : List LathFail :=
  (ofType secs 3).flatMap fun x =>
    let v : Topology := fun g n => writtenValue x.records (0xC0 + g) (0x1100 + 8 * n) (now g n)
    v.failedRules.map fun rs => ruleFail x (rs.map fun r => (0xC0 + r.1, 0x1100 + 8 * r.2))

/-- R392: the queue rules of an alignment section, with the link registers of the image. Choices: log entry 39. -/
def checkQueues (secs : List Section) : List LathFail :=
  (ofType secs 9).flatMap fun x =>
    let q (k : Nat) : Nat := writtenValue x.records 0x09 (0x100 + 8 * k) 0
    let link (k : Nat) : Nat := field (q k) 30 7
    let slot (k : Nat) : Nat := field (q k) 37 5
    let cfg (k : Nat) : Nat := writtenValue (recordsOf secs 7) (0x30 + link k / 8) (0x100 + 8 * (link k % 8)) 0
    (List.range 16).flatMap fun k =>
      let reg (j : Nat) : Nat × Nat := (0x09, 0x100 + 8 * j)
      if !alnOn (q k) then []
      else
        failures ([(txMode (cfg k) != 4 || decide (blocksPerPeriod (cfg k) ≤ slot k), ruleFail x [reg k])]
        ++ (List.range k).map fun j => (alnOn (q j) && link j == link k && slot j == slot k, ruleFail x [reg j, reg k]))

/-- Check 8 of a full image. -/
def State.checkRelations (s : State) (secs : List Section) (now : Topology) : List LathFail :=
  (ofType secs 6).flatMap (fun x => checkBound secs x ++ checkCustom secs x) ++ checkInline secs
    ++ (ofType secs 0x0B).flatMap (fun x => failures [(!s.smc.referenceMatches x, x.fail 0 0x0A)])
    ++ checkTopology secs now ++ checkQueues secs

/-! ### Checks 9 and 10 (R50, R39, R40, R55) -/

/-- Check 9: a ridge without a place, unless DEGRADED_OK. -/
def State.checkPlacement (s : State) (img : List Byte) (secs : List Section) : List LathFail :=
  let sites := s.placeSites (ridgeMapOf secs)
  (ofType secs 1).flatMap fun x => failures ((List.range 32).map fun g =>
    (!imageDegradedOk img && (nth none sites g).isNone, x.fail g 0x0B))

/-- T_ALG of R81 in units of 0.1 ns. -/
def algorithmTime (bound : Nat) : Nat := (20 * bound + 2) / 3

/-- R40, R81: an entry fits the queue it names; `q` gives a queue's register and `period` ALN_CFG.PERIOD. -/
def Budget.fits (b : Budget) (q : Nat → Nat) (period : Nat) : Bool :=
  b.queue == 0xFF ||
    (let v := q b.queue.toNat
    alnOn v && decide (algorithmTime b.bound.toNat + 160 ≤ (alnL v - field v 17 13) * period))

/-- R39: the digest of an entry is the one computed. -/
def Budget.digestOk (b : Budget) (content : Nat → RidgeContent) : Bool := leBytes 16 b.digest.toNat == contentDigest content b.mask.toNat

/-- Check 10 of a full image. -/
def checkBudgets (secs : List Section) : List LathFail :=
  let rs := recordsOf secs 9
  let q (k : Nat) : Nat := writtenValue rs 0x09 (0x100 + 8 * k) 0
  let period := field (writtenValue rs 0x09 0x10 0x3E8) 0 10
  let content (g : Nat) : RidgeContent := contentOf secs g
  (ofType secs 0x0C).flatMap fun x => failures ((budgetEntries secs).map fun e =>
    (!(e.2.fits q period && e.2.digestOk content), x.fail (e.1 - x.off) 0x09))

/-- R39, R207: the content in effect of ridge `g`: the full image's, with the partial images laid over it. Choices:
log entry 52. -/
def State.contentInEffect (s : State) (g : Nat) : RidgeContent :=
  let full := contentOf (sectionsOf (s.smc.image.getD [])) g
  (s.smc.partials.filter fun p => p.1 == g).foldl (fun (c : RidgeContent) p => c.relath (sectionsOf p.2) g) full

/-- R55: the loaded record after a partial image's entries replace those with their ALG_ID or are added. Choices:
log entry 52. -/
def mergeBudget (old new : List Budget) : List Budget :=
  old.map (fun b => (new.find? fun c => c.algId == b.algId).getD b)
    ++ new.filter fun c => !old.any fun b => b.algId == c.algId

/-- Check 10 of a partial image for ridge `g`: masks, the number of entries, and R39 and R40 for every entry that
names the ridge after the swap (DESIGN CHOICE, log entry 52). -/
def State.checkPartialBudget (s : State) (secs : List Section) (g : Nat) : List LathFail :=
  let content (h : Nat) : RidgeContent := if h = g then (s.contentInEffect g).relath secs g else s.contentInEffect h
  let q (k : Nat) : Nat := s.reg 0x09 (0x100 + 8 * k)
  let period := s.fieldOf 0x09 0x10 0 10
  let es := budgetEntries secs
  let all := mergeBudget s.smc.budget (es.map fun e => e.2)
  let ok (b : Budget) : Bool := b.fits q period && b.digestOk content
  let added (e : Nat × Budget) : Bool :=
    let new := (es.filter fun f => decide (f.1 ≤ e.1)).filter fun f => !s.smc.budget.any fun b => b.algId == f.2.algId
    decide (256 < s.smc.budget.length + new.length) && !s.smc.budget.any fun b => b.algId == e.2.algId
  let own := (ofType secs 0x0C).flatMap fun x => failures (es.map fun e =>
    (e.2.mask.toNat != 2 ^ g || added e || !ok e.2, x.fail (e.1 - x.off) 0x09))
  let stayed := all.filter fun b => bitOf b.mask.toNat g && !es.any fun e => e.2.algId == b.algId
  if own.isEmpty then failures [(!stayed.all ok, headFail 0 0x09)] else own

/-! ### The whole check (R43) -/

/-- The machine that the records of a full image write to: the blocks at their reset values, every thread in reset
(R51, R30). Choices: log entry 42. -/
def State.lathBase (s : State) : State :=
  let lathBlock (key : Nat) : Bool :=
    let blk := key / 65536
    blk == 0x04 || blk == 0x08 || blk == 0x09 || decide (0x80 ≤ blk)
  (s.stopAll true).resetRegs lathBlock

/-- The machine that the records of a partial image for ridge `g` write to: its threads in reset (R56). -/
def State.relathBase (s : State) (g : RidgeId) : State :=
  threadNos.foldl (fun (s : State) n => s.setThread (threadOf g n) Thread.reset) s

/-- Checks 1 to 4 of R43. -/
def State.checkFront (s : State) (src : LathSource) : Option LathFail :=
  let limit := s.lathLimit src
  let head := s.lathBytes src 64
  match lowestFail (checkLayout limit head) with
  | some f => some f
  | none =>
    let img := s.lathBytes src (leAt head 0x10 4)
    match lowestFail (checkPart s.fuses.speed20 img) with
    | some f => some f
    | none =>
      match s.checkSignature img with
      | f :: _ => some f
      | [] => lowestFail (s.checkSvn img)

/-- The image that a source supplies. -/
def State.lathImage (s : State) (src : LathSource) : List Byte := s.lathBytes src (leAt (s.lathBytes src 64) 0x10 4)

/-- Checks 5 to 10 of a full image. -/
def State.checkFull (s : State) (img : List Byte) : Option LathFail :=
  let secs := sectionsOf img
  lowestFail (checkDirectory false img) <|> s.lathBase.checkSections none secs <|> lowestFail (checkPadding img secs)
    <|> lowestFail (s.checkRelations secs fun _ _ => 0) <|> lowestFail (s.checkPlacement img secs) <|> lowestFail (checkBudgets secs)

/-- The ridge that a partial image targets. -/
def relathTarget (secs : List Section) : RidgeId :=
  match ofType secs 6 with
  | x :: _ => ⟨x.inst % 32, by omega⟩
  | [] => 0

/-- R55: re-lathing ridge `g` is possible: a full image runs it. Choices: log entry 41. -/
def State.mayRelath (s : State) (g : RidgeId) : Bool :=
  s.inRun && s.smc.image.isSome && (s.siteOf g).isSome && !(s.ridge g).offline

/-- Checks 5 to 10 of a partial image. -/
def State.checkPartial (s : State) (img : List Byte) : Option LathFail :=
  let secs := sectionsOf img
  let g := relathTarget secs
  let now : Topology := fun h n => s.reg (0xC0 + h) (0x1100 + 8 * n)
  let permitted := failures [(!s.mayRelath g, headFail 0x20 0x0F)]
  lowestFail (checkDirectory true img) <|> lowestFail permitted <|> (s.relathBase g).checkSections (some g.val) secs
    <|> lowestFail (checkPadding img secs) <|> lowestFail (s.checkRelations secs now) <|> lowestFail (s.checkPartialBudget secs g.val)

/-- R43: the failure that ends the checks of an image, if any. -/
def State.checkLath (s : State) (src : LathSource) : Option LathFail :=
  s.checkFront src <|>
    (match src with
      | .push => s.checkPartial (s.lathImage src)
      | _ => s.checkFull (s.lathImage src))

end Sys2Proof.Machine
end

