-- ==== Sys2Proof/Machine/Moves.lean ====
section
/-!
DEFINITION. Ridge moves (R458 to R462): stopping one ridge, free sites, starting the next queued move, offline ridges; and
what a ridge takes from the images in effect (R207, R304).
-/

namespace Sys2Proof.Machine

/-- R56, R460: one ridge is stopped: threads in reset, streams and descriptors discarded without a record, masters under the
dust sheet (R95, R281, R303). -/
def State.stopRidge (s : State) (g : RidgeId) : State :=
  let s := threadNos.foldl (fun (s : State) n => s.resetThreadFull g n) s
  (s.cover (.ridge g)).dropWaiting (.ridge g)

/-- R32, R198: the nano-words of a content with the parity bits that the loader generates. -/
def nanoCells (ws : List (Nat × BitVec 256)) : List (Nat × BitVec 260) := ws.map fun c => (c.1, withParity c.2.toNat)

/-- R32, R207: the stores of a ridge written with some content; nothing is left to rewrite. -/
def Ridge.withContent (r : Ridge) (c : RidgeContent) : Ridge :=
  { r with micro := c.micro, nano := nanoCells c.nano, rewrite := [] }

/-- R338: a ridge reset gives the protection windows of its threads their reset values. -/
def State.resetWindows (s : State) (g : RidgeId) : State :=
  s.resetRegs fun key => key / 65536 == rgBlk g && decide (0x1800 ≤ key % 65536 ∧ key % 65536 < 0x2000)

/-- The chain-section records in effect for ridge `g`: the full image's, then those of the partial images in effect. -/
def State.chainRecords (s : State) (g : Nat) : List LathRecord :=
  let named (img : List Byte) : List LathRecord := (recordsOf (sectionsOf img) 3).filter fun r => r.blk == 0xC0 + g
  named (s.smc.image.getD []) ++ (s.smc.partials.filter fun p => p.1 == g).flatMap fun p => named p.2

/-- R29: records in order. -/
def State.applyRecords (s : State) (rs : List LathRecord) : State := rs.foldl (fun (s : State) r => s.applyRecord r) s

/-- R304: the records that set START start their threads. -/
def State.startThreads (s : State) (rs : List LathRecord) : State :=
  rs.foldl (fun (s : State) r =>
    if h : 0xC0 ≤ r.blk ∧ r.blk < 0xE0 then
      let g : RidgeId := ⟨r.blk - 0xC0, by omega⟩
      let t := threadOf g ⟨(r.off - 0x1500) / 8 % 8, by omega⟩
      if decide (0x1500 ≤ r.off ∧ r.off < 0x1540) && bitOf r.val 48 && field r.val 0 2 == 0 && s.ridgeRuns g
          && (s.thread t).st == ThreadState.reset then
        s.setThread t { s.thread t with st := .running }
      else s
    else s) s

/-- R50, R459: the sites that ridge moves may take: free, not retired, not named in the ridge map of the image in
effect; `passed` picks those that have passed their full site test. Choices: log entry 44. -/
def State.freeSites (s : State) (passed : Bool) : List SiteId :=
  let named := ridgeMapOf (sectionsOf (s.smc.image.getD []))
  siteIds.filter fun st =>
    (s.ridgeAt st).isNone && !s.siteRetired st.val && !named.contains st.val
      && (!passed || ((s.site st).st == 1 && !s.repair.items.contains (.site st)))

/-- The ridge whose ledge a borrow is in, if it is in a ledge. -/
def Borrow.ledge (b : Borrow) : Option RidgeId :=
  match b.bank with
  | .bulk g _ => some g
  | .saddle g _ => some g
  | _ => none

/-- R57: the partial re-lath that ridge `g` is under tests its lanes. -/
def State.relathTests (s : State) (g : RidgeId) : Bool :=
  match s.smc.op with
  | some o => o.src == .push && (o.phase == .testing || o.phase == .failed) && o.ridge == g
  | none => false

/-- R53, R57, R458: a move of ridge `g` waits: for a lath operation other than its own re-lath, a swap on the ridge, or a
borrow in its ledge. -/
def State.moveWaits (s : State) (g : RidgeId) : Bool :=
  (s.smc.op.isSome && !s.relathTests g) || (s.ridge g).swap.isSome || s.sram.borrow.any fun b => b.ledge == some g

/-- R255: a re-lath or a move wakes the ridge first. Choices: log entries 43 and 62. -/
def State.wakeRidge (s : State) (g : RidgeId) : State :=
  if s.retained g then
    let s := if s.flagOf (rgBlk g) 0x1408 0 then s.ridgeDomain g true else s
    s.setReg (rgBlk g) 0x1408 0
  else s

/-- R460: the stages up to the lane self-test: the ridge stops, and the new site's domain comes up at VCORE_SAFE.
Choices: log entry 44. -/
def State.startMove (s : State) (g : RidgeId) (st : SiteId) : State :=
  let s := (s.wakeRidge g).stopRidge g
  let s := s.setRidge g { s.ridge g with moving := true, relath := false, draining := false }
  ({ s with repair := { s.repair with move := some (g, st) } }).setCode (0x100 + 8 * st.val) codeSafe

/-- R468: the record of a retired site. -/
def State.retireSite (s : State) (st : SiteId) (cause : Byte) : State :=
  (s.setSite st { s.site st with st := 3 }).note 0x0100 [st.val, cause.toNat]

/-- R462: no healthy free site exists: the ridge goes offline. Choices: log entry 44. -/
def State.goOffline (s : State) (g : RidgeId) (cause : Byte) : State :=
  let s := s.stopRidge g
  let s := s.setRidge g { s.ridge g with offline := true, moving := false, relath := false, draining := false, siteFaulty := false }
  match s.siteOf g with
  | some old =>
    let s := (s.retireSite old cause).note 0x0102 [g.val, old.val, 0x3F, 1]
    s.remapSites (s.repair.siteOf.set g.val none g.isLt)
  | none => s

/-- The queue of moves without that of ridge `g`. -/
def State.dropMove (s : State) (g : RidgeId) : State :=
  { s with repair := { s.repair with moveQueue := s.repair.moveQueue.filter fun q => q.1 != g } }

/-- R57, R458: the queued move that is next: that of the ridge whose re-lath needs it, otherwise the head. -/
def State.queuedMove (s : State) : Option (RidgeId × Byte) :=
  (s.repair.moveQueue.find? fun q => s.relathTests q.1) <|> s.repair.moveQueue.head?

/-- R458, R459, R462, R477: the next move of the queue starts, waits for the test of a free site, or is
impossible: then a ridge on a faulty site goes offline, and one that only lacks healthy slots (cause 0, R455)
stays. Choices: log entry 44. -/
def State.nextMove (s : State) : State :=
  match s.repair.move, s.queuedMove with
  | none, some (g, cause) =>
    if !s.inRun || s.moveWaits g then s
    else if (s.siteOf g).isNone then s.dropMove g
    else
      match s.freeSites true, s.freeSites false with
      | st :: _, _ => s.startMove g st
      | [], _ :: _ => s
      | [], [] => if cause = 0 then s.dropMove g else (s.dropMove g).goOffline g cause
  | _, _ => s

/-- Moves that can be settled now, up to `n` of them. -/
def State.startMoves (n : Nat) (s : State) : State :=
  match n with
  | 0 => s
  | n + 1 => (s.nextMove).startMoves n

/-! ### Lane swaps (R455, R463) -/

/-- The spare slots of a site that have passed their test since power-up, lowest first. -/
def State.readySlots (s : State) (st : SiteId) : List Nat :=
  (s.spareSlots st).filter fun k => bitOf (s.site st).passed.toNat k

/-- R463: a lane swap on ridge `g` begins, with a slot to take: the sequencer starts no further row. -/
def State.beginSwap (s : State) (g : RidgeId) (lane : Fin 16) : State :=
  match s.siteOf g with
  | some st =>
    if s.ridgeRuns g && (s.ridge g).swap.isNone && !(s.readySlots st).isEmpty then s.setRidge g { s.ridge g with swap := some lane }
    else s
  | none => s

/-- R53: the lane swaps that waited for a lath operation begin once it has ended. -/
def State.settleSwaps (s : State) : State :=
  if s.busy then s
  else s.repair.swapQueue.foldl (fun (s : State) q => s.beginSwap q.1 q.2) { s with repair := { s.repair with swapQueue := [] } }

/-- R53, R458, R463: a lane swap on ridge `g` is requested: one per ridge, and none under a move; during a lath operation it
waits. Choices: log entry 46. -/
def State.requestSwap (s : State) (g : RidgeId) (lane : Fin 16) : State :=
  if s.busy then
    if s.repair.swapQueue.any fun q => q.1 == g then s
    else { s with repair := { s.repair with swapQueue := s.repair.swapQueue ++ [(g, lane)] } }
  else s.beginSwap g lane

/-- Every queued move and lane swap that can be settled now. -/
def State.settleMoves (s : State) : State := (s.startMoves (s.repair.moveQueue.length + 1)).settleSwaps

/-- R458: the queue of moves with one of ridge `g`; a fault of its site gives its cause to a move queued without one. -/
def joinMoves (g : RidgeId) (cause : Byte) (queue : List (RidgeId × Byte)) : List (RidgeId × Byte) :=
  if queue.any fun q => q.1 == g then queue.map fun q => if q.1 == g && q.2 == 0 then (g, cause) else q else queue ++ [(g, cause)]

/-- R458, R459: a move of ridge `g` joins the queue, once; every cause but 0 makes its site faulty. -/
def State.requestMove (s : State) (g : RidgeId) (cause : Byte) : State :=
  if (s.siteOf g).isNone then s
  else
    let s := s.setRidge g { s.ridge g with siteFaulty := (s.ridge g).siteFaulty || cause != 0 }
    { s with repair := { s.repair with moveQueue := joinMoves g cause s.repair.moveQueue } }

end Sys2Proof.Machine
end

