-- ==== Sys2Proof/Machine/Lath.lean ====
section
/-!
DEFINITION. Lath operations (R43 to R58, R496, R497): boot load, LLOAD, LPUSH, the end of the checks, the apply phase and the
partial re-lath.
-/

namespace Sys2Proof.Machine

/-! ### SYS_LATHSTAT and the end of an operation (R45, R497) -/

/-- SOURCE of the operation started last. -/
def State.lathSource (s : State) (src : LathSource) : State := s.setFieldOf 0x00 0x40 16 4 (sourceCode src)

/-- RESULT, SECTION and OFFSET of an operation that ends. -/
def State.lathResult (s : State) (f : LathFail) : State :=
  ((s.setFieldOf 0x00 0x40 0 8 f.res).setFieldOf 0x00 0x40 8 8 f.sec).setFieldOf 0x00 0x40 32 32 f.off

/-- R497: success; SECTION is 0 then (DESIGN CHOICE, log entry 41). -/
def lathSuccess : LathFail := ⟨0, 0, 0⟩

/-- R427: a waiting LLOAD or LPUSH is answered with SYS_LATHSTAT. -/
def State.answerLath (s : State) : State :=
  match s.mgt.waiting with
  | some r => if r.cmd = 0x35 ∨ r.cmd = 0x36 then s.answerWaiting 0 (leBytes 8 (s.regView 0x00 0x40)) else s
  | none => s

/-- IMAGE_ID of an operation's image: that of the image it holds, or of the bytes its source holds. -/
def State.lathId (s : State) (o : LathOp) : Nat := if o.image.isEmpty then s.sourceId o.src else leAt o.image 0x18 8

/-- R45, R53, R497: an operation ends with outcome `f`: the record, BUSY clear, the response, and the moves that
waited. Choices: log entry 41. -/
def State.endLath (s : State) (o : LathOp) (f : LathFail) : State :=
  let s := (s.lathResult f).noteLath o.src (s.lathId o) f.res f.sec f.off
  (({ s with smc := { s.smc with op := none } }).answerLath).settleMoves

/-- R48, R427, R497: an operation starts; FALLBACK will be set if its slot is not the preferred one. Choices: log
entry 41. -/
def State.startLath (s : State) (src : LathSource) (bootRetry : Bool) : State :=
  { s.lathSource src with smc := { s.smc with op := some ⟨src, .checking, bootRetry, src != slotSource s.smc.prefB, 0, []⟩ } }

/-! ### Requests and the boot load (R48, R53, R427) -/

/-- BOOT_LATH_LOAD: the SMC starts checking the preferred slot. Choices: log entry 41. -/
def execBootLathLoad (s : State) : Host.Outcome State Fault Refusal :=
  if s.smc.bootLoad && s.smc.running && s.power.st == PowerState.idle && s.power.target.isNone && !s.busy && !s.smc.eraseFirst then
    .next (({ s with smc := { s.smc with bootLoad := false } }).startLath (slotSource s.smc.prefB) true)
  else .next s

/-- R53: a lath request is turned away: an operation or a ridge move is in progress. -/
def State.lathTurnedAway (s : State) : Bool := s.busy || s.repair.move.isSome

/-- LLOAD: a full load from a slot. In STANDBY the device first goes to IDLE (R485). Choices: log entry 41. -/
def execLload (s : State) : Host.Outcome State Fault Refusal :=
  match s.takeRequest 0x35 with
  | none => .next s
  | some (r, s) =>
    let code := (nth 0 r.payload 0).toNat
    if !r.shaped 1 then .next (s.answer r 0x02 [])
    else if code ≠ 1 ∧ code ≠ 2 then .next (s.answer r 0x03 [])
    else
      let b := code == 2
      if s.lathTurnedAway then .next (s.refuseLath r (slotSource b))
      else if s.mgt.session.any fun x => lathSlot x.target == some b then .next (s.answer r 0x07 [])
      else if s.power.st = .standby ∧ s.power.thermal then .next (s.answer r 0x03 [])
      else
        let s := (s.startLath (slotSource b) false).await r
        .next (if s.power.st = .standby then { s with power := { s.power with target := some .idle } } else s)

/-- LPUSH: the image in the closed staging buffer as a partial re-lath. Choices: log entry 41. -/
def execLpush (s : State) : Host.Outcome State Fault Refusal :=
  match s.takeRequest 0x36 with
  | none => .next s
  | some (r, s) =>
    if !r.shaped 0 then .next (s.answer r 0x02 [])
    else if s.lathTurnedAway then .next (s.refuseLath r .push)
    else if s.mgt.staged.isNone then .next (s.answer r 0x07 [])
    else .next ((s.startLath .push false).await r)

/-! ### The end of the checks (R43, R46, R48) -/

/-- R48, R497: the boot load goes on with the other slot, which the preference did not name when the load began, or the
operation ends. -/
def State.lathRejected (s : State) (o : LathOp) (f : LathFail) : State :=
  if o.bootRetry then
    let s := (s.lathResult f).noteLath o.src (s.lathId o) f.res f.sec f.off
    let other := slotSource (o.src == LathSource.slotA)
    { s.lathSource other with smc := { s.smc with op := some ⟨other, .checking, false, true, 0, []⟩ } }
  else s.endLath o f

/-- R51, R56: an image that passed: the apply phase of a full load begins, or the drain of a re-lath. -/
def State.lathPassed (s : State) (o : LathOp) : State :=
  let img := s.lathImage o.src
  if o.src = .push then
    let g := relathTarget (sectionsOf img)
    let s := (s.wakeRidge g).setRidge g { s.ridge g with draining := true }
    { s with smc := { s.smc with op := some { o with phase := .draining, ridge := g, image := img } } }
  else
    let s := s.lathBase
    { s with smc := { s.smc with op := some { o with phase := .applying, image := img } } }

/-- LATH_CHECK_COMPLETE: the checks end; a flash read error is a failure of its own (R46). A full load requested in STANDBY
reaches IDLE first (R485); a pushed image is checked where the device stands. Choices: log entries 10 and 41. -/
def execLathCheckComplete (readError : Bool) (s : State) : Host.Outcome State Fault Refusal :=
  match s.smc.op with
  | some o =>
    if o.phase ≠ .checking ∨ !(s.dieOn || (o.src == LathSource.push && s.on)) then .next s
    else if readError ∧ o.src ≠ .push then .next (s.lathRejected o (headFail 0 0x0C))
    else
      match s.checkLath o.src with
      | some f => .next (s.lathRejected o f)
      | none => .next (s.lathPassed o)
  | none => .next s

/-! ### The apply phase (R35 to R37, R50, R51) -/

/-- An address of the channel table. -/
def inTable (a : Nat) : Bool := decide (ctBase ≤ a ∧ a < ctBase + 0x1000000)

/-- R35, R36: the channel table holds the entries given, with correct check bits, and every other entry masked and zero. -/
def Sram.loadTable (m : Sram) (entries : List (Nat × List Byte)) : Sram :=
  let m := { m with
    mem := m.mem.filter fun c => !inTable c.1
    flips := m.flips.filter fun c => !inTable c.1
    writeback := m.writeback.filter fun a => !inTable a }
  entries.foldl (fun (m : Sram) e => m.setBytes (ctBase + 8 * e.1) e.2) m

/-- R36: the entries that a reference section takes from flash. -/
def Smc.referencedEntries (m : Smc) (secs : List Section) : List (Nat × List Byte) :=
  (ofType secs 0x0B).map fun x => (leAt x.bytes 48 4, flashRead m.ctStore 0 (8 * leAt x.bytes 52 4))

/-- R35 to R37: the channel table under an image. -/
def State.loadTable (s : State) (secs : List Section) : State :=
  if hasChannelTable secs then { s with sram := s.sram.loadTable (inlineEntries secs ++ s.smc.referencedEntries secs) } else s

/-- R50, R51: the ridges under a placement: offline without a site, stores as `content` gives them. -/
def State.loadRidges (s : State) (content : Nat → RidgeContent) : State :=
  ridgeIds.foldl (fun (s : State) g =>
    s.setRidge g { (s.ridge g).withContent (content g.val) with offline := (s.siteOf g).isNone }) s

/-- R63, R70: domains that were off and are on now start at VCORE_SAFE. Choices: log entry 42. -/
def State.domainsStart (s : State) : State :=
  domains.foldl (fun (s : State) n =>
    if s.domainOn n ∧ s.fieldOf 0x03 (domReg n) 0 7 = 0 then s.setCode (domReg n) codeSafe else s) s

/-- R29, R51: the records of every register-image section, in directory order. -/
def registerRecords (secs : List Section) : List LathRecord :=
  (secs.filter fun x => x.typ == 2 || x.typ == 3 || x.typ == 7 || x.typ == 8 || x.typ == 9).flatMap Section.records

/-- R50, R51, R304, R390, R397: every section of an image is loaded, with the stores `content` and the records
`more` after the image's own; the device runs. Choices: log entry 42. -/
def State.loadSections (s : State) (secs : List Section) (content : Nat → RidgeContent) (more : List LathRecord) (table : Bool) : State :=
  let s := (s.placeImage (ridgeMapOf secs) (laneMapOf secs)).loadRidges content
  let s := if table then s.loadTable secs else s
  let rs := registerRecords secs ++ more
  let s := s.applyRecords rs
  let s : State := { s with
    col := { s.col with hasSection := !(ofType secs 8).isEmpty }
    smc := { s.smc with op := none }
    power := { s.power with st := .run, idleFromStandby := false, ctRetained := false, mbxRetained := false } }
  (((s.colWait).flushQueues).domainsStart).startThreads rs

/-- R47, R497: the registers that describe the full image in effect. -/
def State.describeImage (s : State) (o : LathOp) (secs : List Section) : State :=
  let s := s.setFlagOf 0x00 0x40 20 o.fallback
  let s := s.setFlagOf 0x00 0x40 21 (secs.any fun x => x.level == 1)
  let s := s.setFlagOf 0x00 0x40 22 (ridgeIds.any fun g => (s.siteOf g).isNone)
  let s := s.setFlagOf 0x00 0x40 24 true
  (s.setReg 0x00 0x48 (leAt o.image 0x18 8)).setReg 0x00 0x50 0

/-- LATH_LOAD_COMPLETE: the apply phase ends and the image is in effect. Choices: log entry 42. -/
def execLathLoadComplete (s : State) : Host.Outcome State Fault Refusal :=
  match s.smc.op with
  | some o =>
    if o.phase ≠ .applying then .next s
    else
      let secs := sectionsOf o.image
      let s := s.loadSections secs (fun g => contentOf secs g) [] true
      let s := (s.describeImage o secs)
      let s := { s with smc := { s.smc with
        image := some o.image
        imageSlotB := o.src == LathSource.slotB
        budget := (budgetEntries secs).map fun (e : Nat × Budget) => e.2
        partials := [] } }
      .next (s.endLath o lathSuccess)
  | none => .next s

/-- R484, R485: the apply phase of POWER 0x3 from the SMC's copy, partial images included; the channel table is
loaded only after an IDLE entered from STANDBY. Choices: log entry 42. -/
def State.applyCopy (s : State) : State :=
  let table := s.power.idleFromStandby
  let s := s.lathBase
  let secs := sectionsOf (s.smc.image.getD [])
  let more := s.smc.partials.flatMap fun p => recordsOf (sectionsOf p.2) 3
  s.loadSections secs s.contentInEffect more table

/-! ### Partial re-lath (R55 to R57) -/

/-- R207: the partial images in effect once `img` is in effect on ridge `g`: earlier ones stay only for the chain
records that the new one does not replace. Choices: log entry 43. -/
def Smc.withPartial (m : Smc) (g : Nat) (img : List Byte) : List (Nat × List Byte) :=
  let chain := !(ofType (sectionsOf img) 3).isEmpty
  (m.partials.filter fun p => p.1 != g || !chain) ++ [(g, img)]

/-- RELATH_SWAP: the drain ends; what still runs is discarded, the ridge is reset (R281, R303, R338), stores and chain
registers are written. Choices: log entry 43. -/
def execRelathSwap (s : State) : Host.Outcome State Fault Refusal :=
  match s.smc.op with
  | some o =>
    if o.phase ≠ .draining then .next s
    else
      let g := o.ridge
      let s := (s.stopRidge g).resetWindows g
      let s := { s with smc := { s.smc with partials := s.smc.withPartial g.val o.image, op := some { o with phase := .testing } } }
      let s := s.setRidge g { (s.ridge g).withContent (s.contentInEffect g.val) with draining := false, relath := true }
      .next (s.applyRecords (recordsOf (sectionsOf o.image) 3))
  | none => .next s

/-- R55, R57: the ridge runs with the new content: the budget, PARTIALS and the outcome; its threads start as the
records say. Choices: log entry 43. -/
def State.relathSucceeds (s : State) (o : LathOp) : State :=
  let secs := sectionsOf o.image
  let s := s.setRidge o.ridge { s.ridge o.ridge with relath := false }
  let s := { s with smc := { s.smc with budget := mergeBudget s.smc.budget ((budgetEntries secs).map fun (e : Nat × Budget) => e.2) } }
  ((s.countOf 0x00 0x50 32 16 1).startThreads (recordsOf secs 3)).endLath o lathSuccess

/-- R57, R462: a re-lath whose ridge went offline ends without success. Choices: log entries 8 and 43. -/
def State.settleRelath (s : State) : State :=
  match s.smc.op with
  | some o =>
    if s.relathTests o.ridge ∧ (s.ridge o.ridge).offline then s.endLath o (headFail 0 (Config.relathFailed.val + 1)) else s
  | none => s

/-- RELATH_SELFTEST_DONE: readback and lane self-test end; a failure is a ridge fault, and the ridge moves (R57).
Choices: log entry 43. -/
def execRelathSelftestDone (passed : Bool) (s : State) : Host.Outcome State Fault Refusal :=
  match s.smc.op with
  | some o =>
    if o.phase ≠ .testing ∨ (s.ridge o.ridge).moving then .next s
    else if passed then .next (s.relathSucceeds o)
    else
      let s : State := { s with smc := { s.smc with op := some { o with phase := .failed } } }
      .next (((s.requestMove o.ridge 3).settleMoves).settleRelath)
  | none => .next s

end Sys2Proof.Machine
end

