-- ==== Sys2Proof/Machine/Power.lean ====
section
/-!
DEFINITION. Turn-on, boot, power transitions, PFAIL, MRST_N and the thermal trip (R403, R431, R432, R472, R473, R479, R483 to
R488, R493).
-/

namespace Sys2Proof.Machine

/-! ### Turn-on and boot (R431, R432, R479) -/

/-- TURN_ON: VIN is within its limits with MRST_N high; the pins are sampled. Power-up with REFCLK_EXT selected but
absent runs from the on-module oscillator and is recorded (R403). Choices: log entry 2. -/
def execTurnOn (p : Pins) (s : State) : Host.Outcome State Fault Refusal :=
  if s.power.st = .off ∧ 4400 ≤ p.vin ∧ p.vin ≤ 18000 ∧ p.mrstN then
    let s : State := { s with power := { s.power with
      holdStby := !p.holdStbyN
      head := !p.chainHeadN
      refext := !p.refsel && p.refclkExt } }
    let s := s.powerUp
    .next (if !p.refsel && !p.refclkExt then s.note 0x0004 [0x403, 0] else s)
  else .next s

/-- R430: LENGTH of firmware copy `h`. -/
def Smc.fwLength (x : Smc) (h : Bool) : Nat := leNat (flashRead (x.cells (.firmware h)) 0x10 4)

/-- R430: the bytes of firmware copy `h`. -/
def Smc.fwCopy (x : Smc) (h : Bool) : List Byte := flashRead (x.cells (.firmware h)) 0 (x.fwLength h)

/-- R431: firmware copy `h` passes the checks of the boot ROM. -/
def State.fwPasses (s : State) (h : Bool) : Bool :=
  if !s.smc.validHeader h then false
  else
    let bs := s.smc.fwCopy h
    let sb := bs.length - 256
    let pub := slice bs (sb + 0x10) 96
    nth 0 bs sb == 0xF0 && zeroAt bs (sb + 1) 15 && zeroAt bs (sb + 0xD0) 48 && s.fuses.keyMatches 0xF0 pub && validKey pub
      && ecdsaVerify pub (sha384 (bs.take (sb + 112))) (slice bs (sb + 0x70) 96) && decide (s.fuses.fwSvnMin ≤ leAt bs 0x14 4)

/-- R431: the copy that the ROM runs: the higher SVN, then the higher BUILD, then copy 0. -/
def State.fwChoice (s : State) : Option Bool :=
  let svn (h : Bool) : Nat := leAt (s.smc.fwCopy h) 0x14 4
  let build (h : Bool) : Nat := leAt (s.smc.fwCopy h) 0x18 4
  match s.fwPasses false, s.fwPasses true with
  | true, true => some (decide (svn false < svn true) || (svn false == svn true && decide (build false < build true)))
  | true, false => some false
  | false, true => some true
  | false, false => none

/-- The SMC instance's threads start with the firmware (R287; DESIGN CHOICE, log entry 45). -/
def State.startSmcThreads (s : State) : State :=
  threadNos.foldl (fun (s : State) n => s.setThread ⟨256 + n.val, by omega⟩ { Thread.reset with st := .running }) s

/-- SMC_BOOT: the boot ROM verifies both firmware copies and runs one, or stays in ROM recovery. The end of boot
leads to IDLE unless HOLD_STBY_N was low (R485). Choices: log entries 2 and 45. -/
def execSmcBoot (s : State) : Host.Outcome State Fault Refusal :=
  if s.power.st ≠ .standby ∨ s.smc.running ∨ s.smc.recovery ∨ s.power.pfail.isSome then .next s
  else
    match s.fwChoice with
    | none => .next { s with smc := { s.smc with recovery := true } }
    | some h =>
      let s := (s.setFlagOf 0x02 0x08 1 h).setFlagOf 0x02 0x08 2 (s.fwPasses !h)
      let bs := s.smc.fwCopy h
      let s : State := { s with
        smc := { s.smc with
          running := true
          fwSvn := leAt bs 0x14 4
          fwBytes := bs
          bootLoad := true
          eraseFirst := s.smc.erasing }
        power := { s.power with target := if s.power.holdStby then none else some .idle } }
      .next ((s.startSmcThreads).note 0x0006 [b2n h, s.regView 0x00 0x40])

/-! ### Transitions (R483 to R486) -/

/-- A transition has reached its target: the request that waits for it is answered. -/
def State.transitionDone (s : State) : State :=
  let s : State := { s with power := { s.power with target := none } }
  match s.mgt.waiting with
  | some r => if r.cmd = 0x50 ∨ r.cmd = 0x71 then s.answerWaiting 0 [] else s
  | none => s

/-- R483: the state `st` is reached on the way to the target. -/
def State.transitionStep (s : State) (st : PowerState) : State := if s.power.target = some st then s.transitionDone else s

/-- R486: a repair in progress delays a transition. -/
def State.repairing (s : State) : Bool := s.repair.move.isSome || ridgeIds.any fun g => (s.ridge g).swap.isSome

/-- STANDBY_TO_IDLE: die supplies up, deep store trained, memories initialised. -/
def execStandbyToIdle (trained : BitVec 32) (s : State) : Host.Outcome State Fault Refusal :=
  if s.power.st = .standby ∧ s.smc.running ∧ (s.power.target = some .idle ∨ s.power.target = some .run) then
    .next ((s.dieUp trained).transitionStep .idle)
  else .next s

/-- POWER_TRANSITION_COMPLETE: the next state on the way to the target is reached. Choices: log entry 48. -/
def execPowerTransitionComplete (s : State) : Host.Outcome State Fault Refusal :=
  if s.repairing || s.busy then .next s
  else
    match s.power.st, s.power.target with
    | .run, some .idle => .next ((s.enterIdle).transitionStep .idle)
    | .run, some .standby => .next s.enterIdle
    | .idle, some .standby => .next ((s.enterStandby).transitionStep .standby)
    | .idle, some .run => .next ((s.applyCopy).transitionStep .run)
    | _, _ => .next s

/-- RETENTION_TIMEOUT: 1 ms in IDLE without an access of the channel table or the mailbox. -/
def execRetentionTimeout (ct : Bool) (s : State) : Host.Outcome State Fault Refusal :=
  if s.power.st = .idle then
    .next { s with power := { s.power with ctRetained := s.power.ctRetained || ct, mbxRetained := s.power.mbxRetained || !ct } }
  else .next s

/-! ### PFAIL (R54, R421, R425, R472, R473, R493) -/

/-- R54: a lath operation in progress is abandoned with RESULT 0x0D; SECTION and OFFSET are 0 then (DESIGN CHOICE, log entries 41
and 48). -/
def State.abandonLath (s : State) : State :=
  match s.smc.op with
  | some o =>
    let s := (s.lathResult ⟨0, 0, 0x0D⟩).noteLath o.src (s.lathId o) 0x0D 0 0
    { s with smc := { s.smc with op := none } }
  | none => s

/-- R473 steps 1 and 2: PFAIL with a cause. Choices: log entry 48. -/
def State.assertPfail (s : State) (cause : PfailCause) : State :=
  if !s.on || s.power.pfail.isSome then s
  else
    let s := ((s.abandonLath).abandonSession).enterOff
    { s with
      mgt := { s.mgt with queue := [], enums := [], waiting := none, upOwn := [], upPassed := [] }
      power := { s.power with pfail := some cause, drained := false } }

/-- PFAIL: VIN falls below 4.2 V, or too fast. -/
def execPfail (slope : Bool) (s : State) : Host.Outcome State Fault Refusal := .next (s.assertPfail (if slope then .slope else .level))

/-- MRST: MRST_N is held low; PFAIL with cause "level". -/
def execMrst (s : State) : Host.Outcome State Fault Refusal := .next (s.assertPfail .level)

/-- The cause in a PFAIL record (R468). -/
def causeCode (c : PfailCause) : Nat :=
  match c with
  | .level => 0
  | .slope => 1
  | .thermal => 2

/-- R473 step 3, R488 step 2: the queued records are committed, and the PFAIL record after them. -/
def State.drainWith (s : State) (cause : PfailCause) : State :=
  let n := s.cairn.queue.length + s.cairn.waiting.length
  ((s.drainLog).note 0x0005 [causeCode cause, n]).drainLog

/-- PFAIL_DRAIN_COMPLETE: the records are programmed. -/
def execPfailDrainComplete (s : State) : Host.Outcome State Fault Refusal :=
  match s.power.pfail with
  | some c =>
    if s.power.drained then .next s
    else
      let s := s.drainWith c
      .next { s with power := { s.power with drained := true } }
  | none => .next s

/-- PFAIL_RECOVERY: VIN has stayed at or above 4.5 V, and MRST_N high, for 100 ms: the SMC resets and the module boots. -/
def execPfailRecovery (s : State) : Host.Outcome State Fault Refusal :=
  if s.power.pfail.isSome && s.power.drained then .next s.powerUp else .next s

/-! ### Thermal trip (R488) -/

/-- R486, R488: a request that waits when a thermal trip comes: LLOAD and LPUSH report their abandoned operation,
POWER is refused, RETURN and SCRAP have blown their fuses. Choices: log entry 48. -/
def State.answerTripped (s : State) : State :=
  match s.mgt.waiting with
  | some r => if r.cmd = 0x50 then s.answerWaiting 0x03 [] else if r.cmd = 0x71 then s.answerWaiting 0 [] else s.answerLath
  | none => s

/-- THERMAL_TRIP: a reading reaches its trip point: the module stops, commits its records and enters STANDBY.
Choices: log entry 48. -/
def execThermalTrip (domain dram plate : Int) (s : State) : Host.Outcome State Fault Refusal :=
  if !s.on || !decide (105 ≤ domain ∨ 95 ≤ dram ∨ 70 ≤ plate) then .next s
  else
    let s := (((s.abandonLath).stopAll false).drainWith .thermal).enterStandby
    let s : State := { s with
      smc := { s.smc with bootLoad := false }
      power := { s.power with target := none, thermal := true, domainT := domain, dramT := dram, plateT := plate } }
    .next s.answerTripped

end Sys2Proof.Machine
end

