-- ==== Sys2Proof/Machine/Repair.lean ====
section
/-!
DEFINITION. Repairs (R249, R256, R450, R451, R458 to R463): rows, banks, lane swaps and ridge moves.
-/

namespace Sys2Proof.Machine

/-! ### Rows and banks (R249, R451) -/

/-- The scaffold bank of an owner has passed its test, has not failed one since, and replaces no bank yet. -/
def State.scaffoldReady (s : State) (w : ScaffoldOf) : Bool := s.sram.scaffoldPassed.contains w && !s.scaffoldUsed w

/-- R249, R454: bank `b` is replaced by its scaffold bank; a borrow of it keeps its redirection. Choices: log entry
46. -/
def State.replaceBank (s : State) (b : SramBank) : State :=
  { s.note 0x0104 (bankItems b) with sram := { s.sram with
      replaced := s.sram.replaced ++ [b]
      borrow := if (s.sram.borrow.any fun x => x.bank == b) then none else s.sram.borrow } }

/-- R249: a further bank to be retired stays in service; its retirement is recorded. -/
def State.recordBadBank (s : State) (b : SramBank) : State :=
  if s.sram.recordedBad.contains b then s
  else { s.note 0x0104 (bankItems b) with sram := { s.sram with recordedBad := s.sram.recordedBad ++ [b] } }

/-- R249, R256, R450, R477: bank `b` is to be retired: replaced, recorded, or waiting for the scaffold bank's test
or for a borrow of another bank to end; a mailbox bank has no scaffold bank. Choices: log entry 46. -/
def State.retireSramBank (s : State) (b : SramBank) : State :=
  match scaffoldFor b with
  | none => s
  | some w =>
    if s.sram.replaced.contains b || s.sram.lost.contains b then s
    else if s.scaffoldUsed w then s.recordBadBank b
    else if s.scaffoldReady w && !(s.sram.borrow.any fun x => x.bank != b && scaffoldFor x.bank == some w) then s.replaceBank b
    else s

/-- BANK_REPLACEMENT: the repair controller retires a bank. -/
def execBankReplacement (b : SramBank) (s : State) : Host.Outcome State Fault Refusal :=
  if s.dieOn then .next (s.retireSramBank b) else .next s

/-- R451: a row takes one of its bank's four scaffold rows. Choices: log entry 46. -/
def State.repairRow (s : State) (b : SramBank) (row : Nat) : State :=
  { s.note 0x0103 (bankItems b ++ [row]) with sram := { s.sram with rows := s.sram.rows ++ [(b, row)] } }

/-- ROW_REPAIR: a row is repaired, or, with the four scaffold rows spent, its bank is retired. -/
def execRowRepair (b : SramBank) (row : Nat) (s : State) : Host.Outcome State Fault Refusal :=
  if !s.dieOn || s.sram.lost.contains b then .next s
  else if s.rowsUsed b < 4 then .next (s.repairRow b row)
  else .next (s.retireSramBank b)

/-! ### Lane swaps (R455, R463) -/

/-- LANE_SWAP: a lane swap is requested. -/
def execLaneSwap (g : RidgeId) (lane : Fin 16) (s : State) : Host.Outcome State Fault Refusal := .next (s.requestSwap g lane)

/-- SITEGEN advances, up to its maximum (R47, R58). -/
def State.siteGen (s : State) : State := s.countOf 0x00 0x50 0 32 1

/-- The time in ms since the slot passed last, or since power-up. -/
def State.sinceTested (s : State) (st : SiteId) (slot : Fin 18) : Nat :=
  match s.repair.tested.find? fun x => x.1 == st && x.2.1 == slot with
  | some x => s.power.uptimeMs - x.2.2
  | none => s.power.uptimeMs

/-- R459, R468: a slot is retired, with its record; a site with more than 2 retired slots is faulty. -/
def State.retireSlot (s : State) (st : SiteId) (slot : Fin 18) (since : Nat) : State :=
  let bit := BitVec.ofNat 18 (2 ^ slot.val)
  let y := s.site st
  let s := (s.setSite st { y with passed := y.passed &&& ~~~bit, retired := y.retired ||| bit }).note 0x0101 [st.val, slot.val, since]
  if 2 < (s.site st).retiredSlots then
    (match s.ridgeAt st with
      | some g => s.requestMove g 5
      | none => s.retireSite st 5)
  else s

/-- A slot number as an index. -/
def slotOfNat (k : Nat) : Fin 18 := ⟨k % 18, by omega⟩

/-- R59, R455: the slot that a swap has freed: a rotation tests it next; a swap that no rotation asked for takes the lane off a
faulty slot, which is retired (DEDUCED: R59 retires the slot of a swap when the swap completes, and R455 that of a rotation
when its test fails). Choices: log entry 46. -/
def State.freedSlot (s : State) (st : SiteId) (slot : Fin 18) : State :=
  if s.repair.items.contains (.slot st slot) || bitOf (s.site st).retired.toNat slot.val then s
  else s.retireSlot st slot (s.sinceTested st slot)

/-- LANE_SWAP_EXECUTE: the lane map is switched to the lowest slot that has passed, SITEGEN advances, rows
resume, and the slot left is retired or tested. Moves that waited go on. Choices: log entry 46. -/
def execLaneSwapExecute (g : RidgeId) (s : State) : Host.Outcome State Fault Refusal :=
  match (s.ridge g).swap, s.siteOf g with
  | some lane, some st =>
    (match s.readySlots st with
      | slot :: _ =>
        let old := slotOfNat (s.laneSlot st lane.val)
        let s := (s.setLaneSlot st lane.val slot).siteGen
        .next (((s.setRidge g { s.ridge g with swap := none }).freedSlot st old).settleMoves)
      | [] => .next s)
  | _, _ => .next s

/-- The sweep leaves an item without a result; SKIPPED counts it. -/
def State.skipItems (s : State) (n : Nat) : State := s.countOf 0x0B 0x08 16 16 n

/-- Items in progress end; ACTIVE and KIND follow. -/
def State.dropItems (s : State) (p : Item → Bool) : State :=
  let items := s.repair.items.filter fun x => !p x
  let s : State := { s with repair := { s.repair with items := items } }
  if items.isEmpty then s.sweepKind 0 else s

/-- The item is a test of a slot of site `st`. -/
def slotItemOf (st : SiteId) (x : Item) : Bool :=
  match x with
  | .slot st' _ => st' == st
  | _ => false

/-- LANE_SWAP_ABANDON: the row in progress has not ended within 10 ms: the swap is abandoned and its item skipped. -/
def execLaneSwapAbandon (g : RidgeId) (s : State) : Host.Outcome State Fault Refusal :=
  match (s.ridge g).swap, s.siteOf g with
  | some _, some st =>
    let s := s.setRidge g { s.ridge g with swap := none }
    .next (((s.skipItems 1).dropItems (slotItemOf st)).settleMoves)
  | _, _ => .next s

/-! ### Ridge moves (R458 to R462) -/

/-- RIDGE_MOVE: the site of ridge `g` is faulty in case `cause` of R459: the move joins the queue, and starts if nothing is in
its way. -/
def execRidgeMove (g : RidgeId) (cause : BitVec 8) (s : State) : Host.Outcome State Fault Refusal :=
  if s.inRun then .next (((s.requestMove g cause).settleMoves).settleRelath) else .next s

/-- R460: an address in the ledge of ridge `g`. -/
def inLedgeOf (g : RidgeId) (a : Nat) : Bool := decide (ledgeBase + g.val * 0x400000 ≤ a ∧ a < ledgeBase + (g.val + 1) * 0x400000)

/-- R460: the ledge of a ridge with zero and correct check bits in every word. -/
def Sram.zeroLedge (m : Sram) (g : RidgeId) : Sram :=
  { m with
    mem := m.mem.filter fun c => !inLedgeOf g c.1
    flips := m.flips.filter fun c => !inLedgeOf g c.1
    writeback := m.writeback.filter fun a => !inLedgeOf g a
    tags := m.tags.filter fun c => !inLedgeOf g c.1 }

/-- R50, R58: ridge `g` on site `st`, its lanes placed there. -/
def State.placeRidge (s : State) (g : RidgeId) (st : SiteId) : State :=
  let lanes := laneMapOf (sectionsOf (s.smc.image.getD [])) st
  let placed := s.placeLanes st lanes
  let s := (List.range 16).foldl (fun (s : State) k => s.setLaneSlot st k ((nth none placed k).getD (nth k lanes k))) s
  { s.setSite st { s.site st with st := 0 } with
    repair := { (s.setSite st { s.site st with st := 0 }).repair with move := none } }.remapSites (s.repair.siteOf.set g.val (some st) g.isLt)

/-- R459, R455: the site that a ridge has left: retired when faulty, otherwise scaffold that no test has passed.
Choices: log entry 44. -/
def State.vacate (s : State) (g : RidgeId) (old : SiteId) (cause : Byte) : State :=
  if (s.ridge g).siteFaulty then s.retireSite old cause else s.setSite old { s.site old with st := 2 }

/-- R59, R460, R461: the move of ridge `g` to site `st` ends: records committed, site map rewritten, registers as
the records in effect set them, threads started, the SMC told. Choices: log entry 44. -/
def State.finishMove (s : State) (g : RidgeId) (st : SiteId) (lost : Bool) : State :=
  let cause := match s.repair.moveQueue.find? fun q => q.1 == g with
    | some q => q.2
    | none => 0
  let old := (s.siteOf g).getD st
  let s := ((s.vacate g old cause).note 0x0102 [g.val, old.val, st.val, b2n lost]).drainLog
  let s := (((s.placeRidge g st).siteGen).dropMove g).domainOff ⟨old.val, by omega⟩
  let s := if lost then { s with sram := s.sram.zeroLedge g } else s
  let r := { (s.ridge g).withContent (s.contentInEffect g.val) with moving := false, relath := false, siteFaulty := false, failedWords := [] }
  let s := (s.setRidge g r).resetRegs fun key => key / 65536 == rgBlk g
  let rs := s.chainRecords g.val
  ((s.applyRecords rs).startThreads rs).postEvent 256 (0xE0 + g.val)

/-- R57: a re-lath whose ridge runs on its new site has succeeded. -/
def State.endRelathMove (s : State) (g : RidgeId) : State :=
  match s.smc.op with
  | some o => if s.relathTests g then s.relathSucceeds o else s
  | none => s

/-- RIDGE_MOVE_COMPLETE: readback and self-test of the new site end. A site that fails is faulty too and retired;
the move begins anew with another one. Choices: log entry 44. -/
def execRidgeMoveComplete (g : RidgeId) (ok : Bool) (lost : Bool) (s : State) : Host.Outcome State Fault Refusal :=
  match s.repair.move with
  | some (h, st) =>
    if h ≠ g then .next s
    else if ok then .next (((s.finishMove g st lost).endRelathMove g).settleMoves)
    else
      let s := (s.retireSite st 3).domainOff ⟨st.val, by omega⟩
      let s : State := { s with repair := { s.repair with move := none } }
      .next ((s.settleMoves).settleRelath)
  | none => .next s

/-! ### Faults that move a ridge (R71, R207, R459) -/

/-- CONTROL_STORE_REWRITE (R207): the copy in the SMC of the word that has waited longest is written back and read back. A
failed readback, or a second failure of a word, is a site fault, and the ridge moves. PENDING clears with the last word.
Choices: log entry 30. -/
def execControlStoreRewrite (g : RidgeId) (readbackOk : Bool) (s : State) : Host.Outcome State Fault Refusal :=
  let r := s.ridge g
  match r.rewrite with
  | [] => .next s
  | word :: rest =>
    let faulty := r.siteFaulty || !readbackOk
    let s := s.setRidge g { r.restore word with rewrite := rest, siteFaulty := faulty }
    let s := if rest.isEmpty then s.setFlagOf (rgBlk g) 0x1300 52 false else s
    .next (if faulty && s.inRun then ((s.requestMove g 2).settleMoves).settleRelath else s)

/-- R71, R459: a site whose domain has a monitor fault is faulty: its ridge moves, and a site without a ridge is retired. -/
def State.monitorFault (s : State) (st : SiteId) : State :=
  if !s.flagOf 0x03 (0x100 + 8 * st.val) 38 then s
  else
    match s.ridgeAt st with
    | some g => s.requestMove g 1
    | none => if (s.site st).st == 3 then s else s.retireSite st 1

/-- RATE_SERVO_UPDATE: one 10 us update; a domain without a reading in `rs` is left as it is. The repair controller treats
monitor faults as site faults (R71). -/
def execRateServoUpdate (rs : List RateReading) (s : State) : Host.Outcome State Fault Refusal :=
  if !s.inRun then .next s
  else
    let s := s.servoUpdate rs
    .next (if s.flagOf 0x03 0x08 4 then ((siteIds.foldl State.monitorFault s).settleMoves).settleRelath else s)

end Sys2Proof.Machine
end

