-- ==== Sys2Proof/Machine/Sweep.lean ====
section
/-!
DEFINITION. The scree sweep (R452 to R456, R477): which items may start, their tests and what follows from them.
-/

namespace Sys2Proof.Machine

/-! ### Items (R453) -/

/-- SWP_CTRL.EN in RUN: new items may start. -/
def State.sweeping (s : State) : Bool := s.inRun && !s.applying && s.flagOf 0x0B 0x10 0

/-- R453: ridge `g` is at hand: not in retention, offline, or part of a move, and with no repair of it queued. -/
def State.ridgeAvailable (s : State) (g : RidgeId) : Bool :=
  (s.siteOf g).isSome && !s.retained g && !(s.ridge g).offline && !(s.ridge g).moving && !(s.ridge g).relath
    && !(s.repair.moveQueue.any fun q => q.1 == g)

/-- R453: the resource of an item is at hand. -/
def State.itemAvailable (s : State) (x : Item) : Bool :=
  match x with
  | .site st => !(s.repair.move.any fun m => m.2 == st)
  | .slot st _ =>
    (match s.ridgeAt st with
      | some g => s.ridgeAvailable g
      | none => !(s.repair.move.any fun m => m.2 == st))
  | .sram b => ((Borrow.mk b false).ledge).all fun g => s.ridgeAvailable g
  | .store g => s.ridgeAvailable g
  | _ => true

/-- SWP_STATUS.KIND of an item. -/
def Item.kind (x : Item) : Nat :=
  match x with
  | .site _ => 1
  | .slot _ _ => 2
  | .sram _ => 3
  | .store _ => 4
  | .scrub _ => 5
  | .window _ => 5
  | .bank _ => 6

/-- R453: an item whose resource is not at hand is postponed to the end of the cycle. Choices: log entry 47. -/
def State.postpone (s : State) (x : Item) : State :=
  if s.repair.postponed.contains x then s else { s with repair := { s.repair with postponed := s.repair.postponed ++ [x] } }

/-- R70: the domain of a site under its full test comes up at VCORE_SAFE. -/
def State.itemPower (s : State) (x : Item) : State :=
  match x with
  | .site st => s.setCode (0x100 + 8 * st.val) codeSafe
  | _ => s

/-- An item starts: it is no longer postponed, and SWP_STATUS shows it. -/
def State.startItem (s : State) (x : Item) : State :=
  { s.itemPower x with repair := { s.repair with
      items := s.repair.items ++ [x]
      postponed := s.repair.postponed.filter fun y => y != x } }.sweepKind x.kind

/-- R453: item `x` starts if the sweep may start it, and is postponed if its resource is not at hand. Choices: log
entry 47. -/
def State.tryItem (s : State) (x : Item) : State :=
  if !s.sweeping || s.repair.items.contains x then s
  else if s.itemAvailable x then s.startItem x
  else s.postpone x

/-- An item has been done; a failure is counted and shown. Choices: log entry 47. -/
def State.itemDone (s : State) (x : Item) (ok : Bool) : State :=
  let s := s.dropItems fun y => y == x
  let s : State := { s with repair := { s.repair with
    itemIndex := s.repair.itemIndex + 1
    failures := if ok then s.repair.failures else s.repair.failures + 1 } }
  if ok then s else s.setFlagOf 0x0B 0x08 3 true

/-! ### Sites (R459, R477) -/

/-- FULL_SITE_TEST: a full test of a site that carries no ridge and is not retired. -/
def execFullSiteTest (st : Fin 34) (s : State) : Host.Outcome State Fault Refusal :=
  if (s.ridgeAt st).isSome || s.siteRetired st.val then .next s else .next (s.tryItem (.site st))

/-- SITE_TEST_DONE: the site has passed, with every slot that is not retired, or is retired. Moves that waited go
on. Choices: log entry 10. -/
def execSiteTestDone (st : Fin 34) (ok : Bool) (s : State) : Host.Outcome State Fault Refusal :=
  if !s.repair.items.contains (.site st) then .next s
  else
    let s := s.itemDone (.site st) ok
    let s := s.domainOff ⟨st.val, by omega⟩
    let s :=
      if (s.site st).st == 3 then s
      else if ok then s.setSite st { s.site st with st := 1, passed := ~~~(s.site st).retired }
      else s.retireSite st 6
    .next ((s.settleMoves).settleRelath)

/-! ### Slots (R455) -/

/-- The slots that carry lanes 0 to 15 of a site, each with its lane. -/
def State.slotsInUse (s : State) (st : SiteId) : List (Nat × Fin 16) := (List.finRange 16).map fun k => (s.laneSlot st k.val, k)

/-- R455: the place of a slot in the order of last tests; one not tested since power-up comes first. -/
def State.testOrder (s : State) (st : SiteId) (slot : Nat) : Nat :=
  match s.repair.tested.findIdx? fun x => x.1 == st && x.2.1.val == slot with
  | some i => i + 1
  | none => 0

/-- R455: the slot in use that was tested least recently; the lower lane first. Choices: log entry 47. -/
def State.leastTested (s : State) (st : SiteId) : Option (Nat × Fin 16) :=
  (s.slotsInUse st).foldl (fun (best : Option (Nat × Fin 16)) x =>
    match best with
    | none => some x
    | some b => if s.testOrder st x.1 < s.testOrder st b.1 then some x else some b) none

/-- LANE_ROTATION: the lane of the least recently tested slot moves to a slot that has passed; without a healthy scaffold
slot the ridge moves to a free site that has passed, if there is one. -/
def execLaneRotation (st : Fin 34) (s : State) : Host.Outcome State Fault Refusal :=
  if !s.sweeping || !s.flagOf 0x0B 0x10 1 then .next s
  else
    match s.ridgeAt st, s.leastTested st with
    | some g, some (slot, lane) =>
      let x : Item := .slot st (slotOfNat slot)
      if (s.ridge g).swap.isSome || s.repair.items.any (slotItemOf st) then .next s
      else if !s.itemAvailable x || s.busy then .next (s.postpone x)
      else if (s.spareSlots st).isEmpty then
        .next (if (s.freeSites true).isEmpty then s else (s.requestMove g 0).settleMoves)
      else if (s.readySlots st).isEmpty then .next (s.postpone x)
      else .next ((s.startItem x).requestSwap g lane)
    | _, _ => .next s

/-- SCAFFOLD_SLOT_TEST: a slot that carries no lane is tested. -/
def execScaffoldSlotTest (st : Fin 34) (slot : Fin 18) (s : State) : Host.Outcome State Fault Refusal :=
  if (s.spareSlots st).contains slot.val then .next (s.tryItem (.slot st slot)) else .next s

/-- A slot has been tested now. -/
def State.slotTested (s : State) (st : SiteId) (slot : Fin 18) : State :=
  { s with repair := { s.repair with
      tested := (s.repair.tested.filter fun x => !(x.1 == st && x.2.1 == slot)) ++ [(st, slot, s.power.uptimeMs)] } }

/-- SLOT_TEST_DONE: a freed or spare slot becomes scaffold, or is retired; a site with more than 2 retired slots is faulty
(R459). -/
def execSlotTestDone (st : Fin 34) (slot : Fin 18) (ok : Bool) (s : State) : Host.Outcome State Fault Refusal :=
  let x : Item := .slot st slot
  if !s.repair.items.contains x || !(s.spareSlots st).contains slot.val then .next s
  else
    let since := s.sinceTested st slot
    let bit := BitVec.ofNat 18 (2 ^ slot.val)
    let y := s.site st
    let s := s.itemDone x ok
    if ok then .next ((s.setSite st { y with passed := y.passed ||| bit }).slotTested st slot)
    else .next ((s.retireSlot st slot since).settleMoves)

/-! ### SRAM banks (R300, R454) -/

/-- SRAM_BORROW: a bank is borrowed: its accesses go to the scaffold bank while it is tested; one borrow at a time.
Choices: log entry 46. -/
def execSramBorrow (b : SramBank) (s : State) : Host.Outcome State Fault Refusal :=
  match scaffoldFor b with
  | none => .next s
  | some w =>
    let x : Item := .sram b
    if !s.sweeping || s.sram.borrow.isSome || s.sram.lost.contains b || !s.scaffoldReady w then .next s
    else if !s.itemAvailable x then .next (s.postpone x)
    else
      let s := s.startItem x
      .next { s with sram := { s.sram with borrow := some ⟨b, true⟩ } }

/-- BORROW_TEST_DONE: the borrowed bank returns; a failing row is repaired, or the redirection becomes the bank's
replacement. Choices: log entry 46. -/
def execBorrowTestDone (ok : Bool) (row : Nat) (s : State) : Host.Outcome State Fault Refusal :=
  match s.sram.borrow with
  | none => .next s
  | some y =>
    let s := s.itemDone (.sram y.bank) ok
    let back (s : State) : State := { s with sram := { s.sram with borrow := none } }
    let s := if ok then back s else if s.rowsUsed y.bank < 4 then back (s.repairRow y.bank row) else s.replaceBank y.bank
    .next s.settleMoves

/-- SCAFFOLD_BANK_TEST: a scaffold bank that replaces no bank is tested. -/
def execScaffoldBankTest (bankOf : ScaffoldOf) (ok : Bool) (s : State) : Host.Outcome State Fault Refusal :=
  let borrowed := s.sram.borrow.any fun x => scaffoldFor x.bank == some bankOf
  if !s.sweeping || s.scaffoldUsed bankOf || borrowed then .next s
  else
    let others := s.sram.scaffoldPassed.filter fun w => w != bankOf
    let s : State :=
      if ok then { s with sram := { s.sram with scaffoldPassed := others ++ [bankOf] } }
      else { s with sram := { s.sram with scaffoldPassed := others, scaffoldRetired := s.sram.scaffoldRetired ++ [bankOf] } }
    .next (if ok then s else
      { s.setFlagOf 0x0B 0x08 3 true with repair := { s.repair with failures := s.repair.failures + 1 } })

/-! ### Compares and scrubs (R456) -/

/-- CONTROL_STORE_COMPARE: the stores of a ridge are compared with the SMC's copy; a mismatch is handled as a parity
failure (R207). Choices: log entry 30. -/
def execControlStoreCompare (g : RidgeId) (mismatch : Option ParityFail) (s : State) : Host.Outcome State Fault Refusal :=
  if !s.sweeping then .next s
  else if !s.ridgeAvailable g then .next (s.postpone (.store g))
  else
    let s := (s.startItem (.store g)).setRidge g { s.ridge g with sweepQueued := false, failedWords := [] }
    let s := match mismatch with
      | some pf => s.noteParity g false pf
      | none => s
    .next (s.itemDone (.store g) mismatch.isNone)

/-- An address of the mailbox data. -/
def inMailboxData (a : Nat) : Bool := decide (mbxBase ≤ a ∧ a < mbxBase + 0x40000)

/-- MEMORY_SCRUB: every word of the channel table or of the mailbox data is read once; only disturbed words have
effects. Choices: log entry 57. -/
def execMemoryScrub (ct : Bool) (s : State) : Host.Outcome State Fault Refusal :=
  if !s.sweeping then .next s
  else
    let x : Item := .scrub ct
    let words := (s.sram.flips.map fun c => c.1).filter fun a => if ct then inTable a else inMailboxData a
    let s := words.foldl (fun (s : State) w => s.readWordEffects .other w) (s.startItem x)
    .next (s.itemDone x true)

/-- R227: one word of a window is read, and written back when it was corrected. Choices: log entry 57. -/
def State.scrubWord (s : State) (w : Nat) : State :=
  match s.deepPlace w with
  | .windowed n raw check =>
    let c := s.deepClass raw check
    let r := s.deepReadWord .other (.windowed n raw check) w
    if c.counted then r.st.deepStoreWord (.windowed n raw check) r.bytes else r.st
  | _ => s

/-- WINDOW_SCRUB: every word of an enabled ECC window is read once; a busy window keeps the scrub waiting (R225). Choices: log
entry 35. -/
def execWindowScrub (n : Fin 16) (s : State) : Host.Outcome State Fault Refusal :=
  if !s.sweeping || !s.deepUp then .next s
  else
    match s.window n.val with
    | none => .next s
    | some (base, size) =>
      if s.flagOf 0x10 (0x100 + 8 * n.val) 50 then .next s
      else
      let x : Item := .window n
      let s := (List.range (size / 8)).foldl (fun (s : State) k => s.scrubWord (base + 8 * k)) (s.startItem x)
      .next (s.itemDone x true)

/-! ### Deep-store banks (R235, R452) -/

/-- DEEP_STORE_BANK_TEST: a scaffold bank is tested. -/
def execDeepStoreBankTest (pb : Fin 1024) (s : State) : Host.Outcome State Fault Refusal :=
  let spare := (s.spareBanks false).any fun n => (s.mapEntry n).pb.toNat == pb.val
  if !s.sweeping || !s.deepUp || !spare || s.dram.testing.contains pb.val then .next s
  else
    let s := s.startItem (.bank pb)
    .next { s with dram := { s.dram with testing := s.dram.testing ++ [pb.val] } }

/-- BANK_TEST_DONE: a scaffold bank, or the bank that a sweep migration freed, has passed or is retired. -/
def execBankTestDone (pb : Fin 1024) (ok : Bool) (s : State) : Host.Outcome State Fault Refusal :=
  if !s.dram.testing.contains pb.val then .next s
  else
    let s := s.itemDone (.bank pb) ok
    let s : State := { s with dram := { s.dram with testing := s.dram.testing.filter fun p => p != pb.val } }
    if ok then .next { s with dram := { s.dram with passed := s.dram.passed ++ [pb.val] } }
    else
      match s.entryOf pb.val with
      | some n => .next ((s.setMapEntry n { s.mapEntry n with st := 2 }).recordBankBad pb.val 3)
      | none => .next s

/-! ### Progress (R453) -/

/-- SWEEP_PROGRESS: an hour has passed: the progress record. Choices: log entry 47. -/
def execSweepProgress (s : State) : Host.Outcome State Fault Refusal :=
  if !s.inRun then .next s
  else
    let s : State := { s with repair := { s.repair with hours := s.repair.hours + 1 } }
    .next (s.note 0x0008 [s.fieldOf 0x0B 0x08 32 32, s.repair.itemIndex, s.repair.failures])

/-- SWEEP_CYCLE_END: a cycle completes; items still postponed are left untested and counted in SKIPPED. Choices: log
entry 47. -/
def execSweepCycleEnd (s : State) : Host.Outcome State Fault Refusal :=
  if !s.inRun then .next s
  else
    let s := s.skipItems s.repair.postponed.length
    let s : State := { s with repair := { s.repair with postponed := [], itemIndex := 0 } }
    .next ((s.setFlagOf 0x0B 0x08 2 true).countOf 0x0B 0x08 32 32 1)

end Sys2Proof.Machine
end

