-- ==== Sys2Proof/Machine/Dispatch.lean ====
section
/-!
DEFINITION. One arm per command: which meaning it calls.
-/

namespace Sys2Proof.Machine

/-- The effect of a command on everything but the queue. -/
def exec (i : Instr) (s : State) : Host.Outcome State Fault Refusal :=
  match i with
  | .registerWrite m blk off size v => Sys2Proof.Machine.execRegisterWrite m blk off size v s
  | .readClear m blk off size => Sys2Proof.Machine.execReadClear m blk off size s
  | .bootLathLoad => Sys2Proof.Machine.execBootLathLoad s
  | .lload => Sys2Proof.Machine.execLload s
  | .lpref => Sys2Proof.Machine.execLpref s
  | .lpush => Sys2Proof.Machine.execLpush s
  | .lathCheckComplete readError => Sys2Proof.Machine.execLathCheckComplete readError s
  | .lathLoadComplete => Sys2Proof.Machine.execLathLoadComplete s
  | .relathSwap => Sys2Proof.Machine.execRelathSwap s
  | .relathSelftestDone passed => Sys2Proof.Machine.execRelathSelftestDone passed s
  | .rateServoUpdate rs => Sys2Proof.Machine.execRateServoUpdate rs s
  | .slaunch t rt ab => Sys2Proof.Machine.execSlaunch t rt ab s
  | .slaunchResume t => Sys2Proof.Machine.execSlaunchResume t s
  | .streamDispatch g => Sys2Proof.Machine.execStreamDispatch g s
  | .chainAdmission chid => Sys2Proof.Machine.execChainAdmission chid s
  | .chainTimeout g chid => Sys2Proof.Machine.execChainTimeout g chid s
  | .stepGroupRow g pf => Sys2Proof.Machine.execStepGroupRow g pf s
  | .ridgelineRowArrival g chid => Sys2Proof.Machine.execRidgelineRowArrival g chid s
  | .ridgelineCreditReturn g chid => Sys2Proof.Machine.execRidgelineCreditReturn g chid s
  | .streamComplete g slot => Sys2Proof.Machine.execStreamComplete g slot s
  | .controlStoreRewrite g readbackOk => Sys2Proof.Machine.execControlStoreRewrite g readbackOk s
  | .coreRoutineStep t pf => Sys2Proof.Machine.execCoreRoutineStep t pf s
  | .add t w sat u rd ra rb => Sys2Proof.Machine.execAdd t w sat u rd ra rb s
  | .sub t w sat u rd ra rb => Sys2Proof.Machine.execSub t w sat u rd ra rb s
  | .neg t w sat rd ra => Sys2Proof.Machine.execNeg t w sat rd ra s
  | .abs t w sat rd ra => Sys2Proof.Machine.execAbs t w sat rd ra s
  | .and t w u rd ra rb => Sys2Proof.Machine.execAnd t w u rd ra rb s
  | .or t w u rd ra rb => Sys2Proof.Machine.execOr t w u rd ra rb s
  | .xor t w u rd ra rb => Sys2Proof.Machine.execXor t w u rd ra rb s
  | .andn t w u rd ra rb => Sys2Proof.Machine.execAndn t w u rd ra rb s
  | .not t w u rd ra => Sys2Proof.Machine.execNot t w u rd ra s
  | .shl t w sat u rd ra rb => Sys2Proof.Machine.execShl t w sat u rd ra rb s
  | .shr t w u rd ra rb => Sys2Proof.Machine.execShr t w u rd ra rb s
  | .sra t w u rd ra rb => Sys2Proof.Machine.execSra t w u rd ra rb s
  | .rotl t w u rd ra rb => Sys2Proof.Machine.execRotl t w u rd ra rb s
  | .min t w u rd ra rb => Sys2Proof.Machine.execMin t w u rd ra rb s
  | .max t w u rd ra rb => Sys2Proof.Machine.execMax t w u rd ra rb s
  | .cmpeq t w rd ra rb => Sys2Proof.Machine.execCmpeq t w rd ra rb s
  | .cmplt t w u rd ra rb => Sys2Proof.Machine.execCmplt t w u rd ra rb s
  | .cmple t w u rd ra rb => Sys2Proof.Machine.execCmple t w u rd ra rb s
  | .selnz t w u rd ra rb => Sys2Proof.Machine.execSelnz t w u rd ra rb s
  | .mov t w u rd ra => Sys2Proof.Machine.execMov t w u rd ra s
  | .popc t w u rd ra => Sys2Proof.Machine.execPopc t w u rd ra s
  | .clz t w u rd ra => Sys2Proof.Machine.execClz t w u rd ra s
  | .mul t w sat u rd ra rb => Sys2Proof.Machine.execMul t w sat u rd ra rb s
  | .mulh t w u rd ra rb => Sys2Proof.Machine.execMulh t w u rd ra rb s
  | .div t w sat u rd ra rb => Sys2Proof.Machine.execDiv t w sat u rd ra rb s
  | .divr t w sat u rd ra rb => Sys2Proof.Machine.execDivr t w sat u rd ra rb s
  | .xmul t w u xd ra rb => Sys2Proof.Machine.execXmul t w u xd ra rb s
  | .xmac t w u xd ra rb => Sys2Proof.Machine.execXmac t w u xd ra rb s
  | .xmsu t w u xd ra rb => Sys2Proof.Machine.execXmsu t w u xd ra rb s
  | .xmov t rd xs sh w sat u => Sys2Proof.Machine.execXmov t rd xs sh w sat u s
  | .fadd t fw rd ra rb => Sys2Proof.Machine.execFadd t fw rd ra rb s
  | .fsub t fw rd ra rb => Sys2Proof.Machine.execFsub t fw rd ra rb s
  | .fmul t fw rd ra rb => Sys2Proof.Machine.execFmul t fw rd ra rb s
  | .fdiv t fw rd ra rb => Sys2Proof.Machine.execFdiv t fw rd ra rb s
  | .fsqrt t fw rd ra => Sys2Proof.Machine.execFsqrt t fw rd ra s
  | .fmin t fw rd ra rb => Sys2Proof.Machine.execFmin t fw rd ra rb s
  | .fmax t fw rd ra rb => Sys2Proof.Machine.execFmax t fw rd ra rb s
  | .fminm t fw rd ra rb => Sys2Proof.Machine.execFminm t fw rd ra rb s
  | .fmaxm t fw rd ra rb => Sys2Proof.Machine.execFmaxm t fw rd ra rb s
  | .fabs t fw rd ra => Sys2Proof.Machine.execFabs t fw rd ra s
  | .fneg t fw rd ra => Sys2Proof.Machine.execFneg t fw rd ra s
  | .fcsgn t fw rd ra rb => Sys2Proof.Machine.execFcsgn t fw rd ra rb s
  | .frint t fw rd ra => Sys2Proof.Machine.execFrint t fw rd ra s
  | .fcmpeq t fw rd ra rb => Sys2Proof.Machine.execFcmpeq t fw rd ra rb s
  | .fcmplt t fw rd ra rb => Sys2Proof.Machine.execFcmplt t fw rd ra rb s
  | .fcmple t fw rd ra rb => Sys2Proof.Machine.execFcmple t fw rd ra rb s
  | .cvtff t src dst rd ra => Sys2Proof.Machine.execCvtff t src dst rd ra s
  | .cvtfi t fw w u rd ra => Sys2Proof.Machine.execCvtfi t fw w u rd ra s
  | .cvtif t fw w u rd ra => Sys2Proof.Machine.execCvtif t fw w u rd ra s
  | .fma t fw rd ra rb rc => Sys2Proof.Machine.execFma t fw rd ra rb rc s
  | .fms t fw rd ra rb rc => Sys2Proof.Machine.execFms t fw rd ra rb rc s
  | .fnma t fw rd ra rb rc => Sys2Proof.Machine.execFnma t fw rd ra rb rc s
  | .fnms t fw rd ra rb rc => Sys2Proof.Machine.execFnms t fw rd ra rb rc s
  | .bcdadd t rd ra rb => Sys2Proof.Machine.execBcdadd t rd ra rb s
  | .bcdsub t rd ra rb => Sys2Proof.Machine.execBcdsub t rd ra rb s
  | .movad t ad ra => Sys2Proof.Machine.execMovad t ad ra s
  | .movda t rd aa => Sys2Proof.Machine.execMovda t rd aa s
  | .cmpaeq t rd aa ab => Sys2Proof.Machine.execCmpaeq t rd aa ab s
  | .cmpaltu t rd aa ab => Sys2Proof.Machine.execCmpaltu t rd aa ab s
  | .adda t ad aa imm => Sys2Proof.Machine.execAdda t ad aa imm s
  | .suba t ad aa imm => Sys2Proof.Machine.execSuba t ad aa imm s
  | .addi t rd ra imm => Sys2Proof.Machine.execAddi t rd ra imm s
  | .andi t rd ra imm => Sys2Proof.Machine.execAndi t rd ra imm s
  | .ori t rd ra imm => Sys2Proof.Machine.execOri t rd ra imm s
  | .li t rd imm => Sys2Proof.Machine.execLi t rd imm s
  | .shli t rd ra sh => Sys2Proof.Machine.execShli t rd ra sh s
  | .shri t rd ra sh => Sys2Proof.Machine.execShri t rd ra sh s
  | .srai t rd ra sh => Sys2Proof.Machine.execSrai t rd ra sh s
  | .rotli t rd ra sh => Sys2Proof.Machine.execRotli t rd ra sh s
  | .cmpeqi t rd ra imm => Sys2Proof.Machine.execCmpeqi t rd ra imm s
  | .cmplti t rd ra imm => Sys2Proof.Machine.execCmplti t rd ra imm s
  | .cmpltui t rd ra imm => Sys2Proof.Machine.execCmpltui t rd ra imm s
  | .ld t rt ab sz disp => Sys2Proof.Machine.execLd t rt ab sz disp s
  | .lds t rt ab sz disp => Sys2Proof.Machine.execLds t rt ab sz disp s
  | .st t rt ab sz disp => Sys2Proof.Machine.execSt t rt ab sz disp s
  | .beqz t rc disp => Sys2Proof.Machine.execBeqz t rc disp s
  | .bnez t rc disp => Sys2Proof.Machine.execBnez t rc disp s
  | .bltz t rc disp => Sys2Proof.Machine.execBltz t rc disp s
  | .bgez t rc disp => Sys2Proof.Machine.execBgez t rc disp s
  | .bra t disp => Sys2Proof.Machine.execBra t disp s
  | .bal t rc disp => Sys2Proof.Machine.execBal t rc disp s
  | .ja t ab => Sys2Proof.Machine.execJa t ab s
  | .jal t rc ab => Sys2Proof.Machine.execJal t rc ab s
  | .nop t => Sys2Proof.Machine.execNop t s
  | .mfs t rd s8 => Sys2Proof.Machine.execMfs t rd s8 s
  | .mts t ra s8 => Sys2Proof.Machine.execMts t ra s8 s
  | .wfe t rd vm => Sys2Proof.Machine.execWfe t rd vm s
  | .wtu t rd ra vm => Sys2Proof.Machine.execWtu t rd ra vm s
  | .sev t ra ev => Sys2Proof.Machine.execSev t ra ev s
  | .callg t gate => Sys2Proof.Machine.execCallg t gate s
  | .retx t => Sys2Proof.Machine.execRetx t s
  | .fence t => Sys2Proof.Machine.execFence t s
  | .illegalInstruction t word => Sys2Proof.Machine.execIllegalInstruction t word s
  | .asyncException t => Sys2Proof.Machine.execAsyncException t s
  | .loadDataReturn t => Sys2Proof.Machine.execLoadDataReturn t s
  | .reservationGrant pt => Sys2Proof.Machine.execReservationGrant pt s
  | .storeBufferRelease t => Sys2Proof.Machine.execStoreBufferRelease t s
  | .wfeWake t => Sys2Proof.Machine.execWfeWake t s
  | .wtuWake t => Sys2Proof.Machine.execWtuWake t s
  | .fenceComplete t => Sys2Proof.Machine.execFenceComplete t s
  | .threadReset g n pc start => Sys2Proof.Machine.execThreadReset g n pc start s
  | .threadStart g n pc => Sys2Proof.Machine.execThreadStart g n pc s
  | .watchdogKick g n period => Sys2Proof.Machine.execWatchdogKick g n period s
  | .watchdogExpiry g n => Sys2Proof.Machine.execWatchdogExpiry g n s
  | .debugHalt t => Sys2Proof.Machine.execDebugHalt t s
  | .ledgeAccess m addr acc upset => Sys2Proof.Machine.execLedgeAccess m addr acc upset s
  | .eccWriteback addr => Sys2Proof.Machine.execEccWriteback addr s
  | .aliasOperation m addr bytes => Sys2Proof.Machine.execAliasOperation m addr bytes s
  | .retentionEnter g => Sys2Proof.Machine.execRetentionEnter g s
  | .retentionWake g => Sys2Proof.Machine.execRetentionWake g s
  | .wakeComplete g => Sys2Proof.Machine.execWakeComplete g s
  | .channelTableLookup m c upset => Sys2Proof.Machine.execChannelTableLookup m c upset s
  | .channelTableWrite m addr bytes => Sys2Proof.Machine.execChannelTableWrite m addr bytes s
  | .mailboxDataAccess m addr acc upset => Sys2Proof.Machine.execMailboxDataAccess m addr acc upset s
  | .doorbellWrite m tag v => Sys2Proof.Machine.execDoorbellWrite m tag v s
  | .semaphoreAcquire owner n => Sys2Proof.Machine.execSemaphoreAcquire owner n s
  | .semaphoreRelease owner n => Sys2Proof.Machine.execSemaphoreRelease owner n s
  | .semaphoreBreak n => Sys2Proof.Machine.execSemaphoreBreak n s
  | .forcedBreak m n => Sys2Proof.Machine.execForcedBreak m n s
  | .matrixRequestEntry m id qos addr acc => Sys2Proof.Machine.execMatrixRequestEntry m id qos addr acc s
  | .matrixGrant pt => Sys2Proof.Machine.execMatrixGrant pt s
  | .dustSheetLift p => Sys2Proof.Machine.execDustSheetLift p s
  | .deepStoreGrant ifc upset => Sys2Proof.Machine.execDeepStoreGrant ifc upset s
  | .trainingComplete ifc ok => Sys2Proof.Machine.execTrainingComplete ifc ok s
  | .recentring ifc ch => Sys2Proof.Machine.execRecentring ifc ch s
  | .edcRetry ifc ch attempt ok sixteen => Sys2Proof.Machine.execEdcRetry ifc ch attempt ok sixteen s
  | .retrainComplete ifc ch ok => Sys2Proof.Machine.execRetrainComplete ifc ch ok s
  | .outageRemap => Sys2Proof.Machine.execOutageRemap s
  | .outageEnd => Sys2Proof.Machine.execOutageEnd s
  | .refreshOwed pb => Sys2Proof.Machine.execRefreshOwed pb s
  | .refreshIssue pb => Sys2Proof.Machine.execRefreshIssue pb s
  | .dramTemperatureRead ifc celsius => Sys2Proof.Machine.execDramTemperatureRead ifc celsius s
  | .retrain m rate => Sys2Proof.Machine.execRetrain m rate s
  | .windowEnable m n v => Sys2Proof.Machine.execWindowEnable m n v s
  | .windowInit m n v => Sys2Proof.Machine.execWindowInit m n v s
  | .windowZeroingDone n => Sys2Proof.Machine.execWindowZeroingDone n s
  | .migrationStart => Sys2Proof.Machine.execMigrationStart s
  | .migrationRowCopy => Sys2Proof.Machine.execMigrationRowCopy s
  | .bankReplacement b => Sys2Proof.Machine.execBankReplacement b s
  | .rowRepair b row => Sys2Proof.Machine.execRowRepair b row s
  | .blockLock x => Sys2Proof.Machine.execBlockLock x s
  | .lockLoss x openFrame => Sys2Proof.Machine.execLockLoss x openFrame s
  | .flpFrame l blocks => Sys2Proof.Machine.execFlpFrame l blocks s
  | .leg8Frame l groups => Sys2Proof.Machine.execLeg8Frame l groups s
  | .eth25Frame l bytes fecBad => Sys2Proof.Machine.execEth25Frame l bytes fecBad s
  | .ringWpAdvance n => Sys2Proof.Machine.execRingWpAdvance n s
  | .saddleRelease m n sat rel0 rel1 => Sys2Proof.Machine.execSaddleRelease m n sat rel0 rel1 s
  | .ringEnable m n v => Sys2Proof.Machine.execRingEnable m n v s
  | .linkFailure l => Sys2Proof.Machine.execLinkFailure l s
  | .linkFailClear l => Sys2Proof.Machine.execLinkFailClear l s
  | .linkDeadMarking l => Sys2Proof.Machine.execLinkDeadMarking l s
  | .block0Transmit l => Sys2Proof.Machine.execBlock0Transmit l s
  | .egressEntry n => Sys2Proof.Machine.execEgressEntry n s
  | .egressDatagram n k => Sys2Proof.Machine.execEgressDatagram n k s
  | .colEvaluation => Sys2Proof.Machine.execColEvaluation s
  | .colDeadline => Sys2Proof.Machine.execColDeadline s
  | .resultDelivery q tag v inCutoff => Sys2Proof.Machine.execResultDelivery q tag v inCutoff s
  | .releasePoint q => Sys2Proof.Machine.execReleasePoint q s
  | .fastCheck run => Sys2Proof.Machine.execFastCheck run s
  | .bxcAdvance => Sys2Proof.Machine.execBxcAdvance s
  | .bunchClockLoss => Sys2Proof.Machine.execBunchClockLoss s
  | .bunchClockFailover => Sys2Proof.Machine.execBunchClockFailover s
  | .bunchClockPresent inputB => Sys2Proof.Machine.execBunchClockPresent inputB s
  | .orbitMarker => Sys2Proof.Machine.execOrbitMarker s
  | .orbitLost => Sys2Proof.Machine.execOrbitLost s
  | .arm m => Sys2Proof.Machine.execArm m s
  | .timeCodeFrame part => Sys2Proof.Machine.execTimeCodeFrame part s
  | .timeCodeTimeout => Sys2Proof.Machine.execTimeCodeTimeout s
  | .refclkLoss => Sys2Proof.Machine.execRefclkLoss s
  | .timerCountEnable m c v => Sys2Proof.Machine.execTimerCountEnable m c v s
  | .timerTick x => Sys2Proof.Machine.execTimerTick x s
  | .timerCmpWrite m c v => Sys2Proof.Machine.execTimerCmpWrite m c v s
  | .timerCompareEnable m c v => Sys2Proof.Machine.execTimerCompareEnable m c v s
  | .captureRise c => Sys2Proof.Machine.execCaptureRise c s
  | .captureFall c => Sys2Proof.Machine.execCaptureFall c s
  | .captureRead m c => Sys2Proof.Machine.execCaptureRead m c s
  | .chainPortUp up => Sys2Proof.Machine.execChainPortUp up s
  | .chainPortDown up => Sys2Proof.Machine.execChainPortDown up s
  | .chainPacket up bytes => Sys2Proof.Machine.execChainPacket up bytes s
  | .enumStart => Sys2Proof.Machine.execEnumStart s
  | .enum => Sys2Proof.Machine.execEnum s
  | .ident => Sys2Proof.Machine.execIdent s
  | .read => Sys2Proof.Machine.execRead s
  | .write => Sys2Proof.Machine.execWrite s
  | .telem => Sys2Proof.Machine.execTelem s
  | .telemetrySample p => Sys2Proof.Machine.execTelemetrySample p s
  | .fopen => Sys2Proof.Machine.execFopen s
  | .fdata => Sys2Proof.Machine.execFdata s
  | .fclose => Sys2Proof.Machine.execFclose s
  | .logread => Sys2Proof.Machine.execLogread s
  | .power => Sys2Proof.Machine.execPower s
  | .powerTransitionComplete => Sys2Proof.Machine.execPowerTransitionComplete s
  | .reboot => Sys2Proof.Machine.execReboot s
  | .challenge => Sys2Proof.Machine.execChallenge s
  | .attest => Sys2Proof.Machine.execAttest s
  | .idpub => Sys2Proof.Machine.execIdpub s
  | .certread => Sys2Proof.Machine.execCertread s
  | .certstore => Sys2Proof.Machine.execCertstore s
  | .lread => Sys2Proof.Machine.execLread s
  | .lclose => Sys2Proof.Machine.execLclose s
  | .fwopen => Sys2Proof.Machine.execFwopen s
  | .openDebug => Sys2Proof.Machine.execOpenDebug s
  | .returnAction blown => Sys2Proof.Machine.execReturnAction blown s
  | .lathSvn blown => Sys2Proof.Machine.execLathSvn blown s
  | .fwSvn blown => Sys2Proof.Machine.execFwSvn blown s
  | .revoke blown => Sys2Proof.Machine.execRevoke blown s
  | .cert => Sys2Proof.Machine.execCert s
  | .scrap blown => Sys2Proof.Machine.execScrap blown s
  | .addkey blown => Sys2Proof.Machine.execAddkey blown s
  | .toBlank blown => Sys2Proof.Machine.execToBlank blown s
  | .provision blown => Sys2Proof.Machine.execProvision blown s
  | .reblank blown => Sys2Proof.Machine.execReblank blown s
  | .erasureComplete => Sys2Proof.Machine.execErasureComplete s
  | .turnOn p => Sys2Proof.Machine.execTurnOn p s
  | .smcBoot => Sys2Proof.Machine.execSmcBoot s
  | .standbyToIdle trained => Sys2Proof.Machine.execStandbyToIdle trained s
  | .retentionTimeout ct => Sys2Proof.Machine.execRetentionTimeout ct s
  | .thermalTrip domain dram plate => Sys2Proof.Machine.execThermalTrip domain dram plate s
  | .mrst => Sys2Proof.Machine.execMrst s
  | .pfail slope => Sys2Proof.Machine.execPfail slope s
  | .pfailDrainComplete => Sys2Proof.Machine.execPfailDrainComplete s
  | .pfailRecovery => Sys2Proof.Machine.execPfailRecovery s
  | .fullSiteTest st => Sys2Proof.Machine.execFullSiteTest st s
  | .siteTestDone st ok => Sys2Proof.Machine.execSiteTestDone st ok s
  | .laneRotation st => Sys2Proof.Machine.execLaneRotation st s
  | .slotTestDone st slot ok => Sys2Proof.Machine.execSlotTestDone st slot ok s
  | .sramBorrow b => Sys2Proof.Machine.execSramBorrow b s
  | .borrowTestDone ok row => Sys2Proof.Machine.execBorrowTestDone ok row s
  | .controlStoreCompare g mismatch => Sys2Proof.Machine.execControlStoreCompare g mismatch s
  | .memoryScrub ct => Sys2Proof.Machine.execMemoryScrub ct s
  | .windowScrub n => Sys2Proof.Machine.execWindowScrub n s
  | .deepStoreBankTest pb => Sys2Proof.Machine.execDeepStoreBankTest pb s
  | .bankTestDone pb ok => Sys2Proof.Machine.execBankTestDone pb ok s
  | .sweepProgress => Sys2Proof.Machine.execSweepProgress s
  | .sweepCycleEnd => Sys2Proof.Machine.execSweepCycleEnd s
  | .laneSwap g lane => Sys2Proof.Machine.execLaneSwap g lane s
  | .laneSwapExecute g => Sys2Proof.Machine.execLaneSwapExecute g s
  | .laneSwapAbandon g => Sys2Proof.Machine.execLaneSwapAbandon g s
  | .ridgeMove g cause => Sys2Proof.Machine.execRidgeMove g cause s
  | .ridgeMoveComplete g ok lost => Sys2Proof.Machine.execRidgeMoveComplete g ok lost s
  | .recordCommit => Sys2Proof.Machine.execRecordCommit s
  | .compactionComplete => Sys2Proof.Machine.execCompactionComplete s
  | .cairnAppend m v => Sys2Proof.Machine.execCairnAppend m v s
  | .txrange l khz => Sys2Proof.Machine.execTxrange l khz s
  | .bunchClockAbsent inputB => Sys2Proof.Machine.execBunchClockAbsent inputB s
  | .scaffoldSlotTest st slot => Sys2Proof.Machine.execScaffoldSlotTest st slot s
  | .scaffoldBankTest bankOf ok => Sys2Proof.Machine.execScaffoldBankTest bankOf ok s

end Sys2Proof.Machine
end

