-- ==== Sys2Proof/Safety.lean ====
section
/-!
DEFINITION. The terms that claims use: canonical forms that every step keeps, what it means that a control-core
instruction issues, completes or takes an exception (R284 to R309, R342 to R345), and the plain arithmetic of R311 and
R315 to which results are compared.
-/

namespace Sys2Proof.Machine

/-! ### Canonical forms -/

/-- Stored keys rise strictly. -/
def keysRise {α : Type} (low : Option Nat) (m : List (Nat × α)) : Bool :=
  match m with
  | [] => true
  | (k, _) :: rest =>
    (match low with
      | none => true
      | some l => decide (l < k)) && keysRise (some k) rest

/-- On-die memory is canonical: addresses rise, and no byte is listed that equals what an unlisted address reads as; so
are the disturbances of stored words and the tag words. -/
def Sram.wf (m : Sram) : Bool :=
  Sparse.wf sramDefault m.mem && Sparse.wf (fun _ => (0 : BitVec 72)) m.flips
    && Sparse.wf (fun _ => (⟨0, false, false⟩ : TagWord)) m.tags

/-- The ranges (first address, address after the last) rise from above `low`, none is empty and none touches the next. -/
def rangesRise (low : Option Nat) (rs : List (Nat × Nat)) : Bool :=
  match rs with
  | [] => true
  | (a, b) :: rest =>
    (match low with
      | none => true
      | some l => decide (l < a)) && decide (a < b) && rangesRise (some b) rest

/-- The deep store is canonical: raw addresses rise, and no zero is listed where an unlisted address reads as zero; the
zeroed ranges rise apart from each other; the bank map lists only what differs from the default map. -/
def Dram.wf (d : Dram) : Bool :=
  keysRise none d.deep && (d.deep.all fun c => !(d.zeroed c.1 && c.2 == 0)) && Sparse.wf defaultMapEntry d.map
    && rangesRise none d.zeros

/-- Configuration registers are canonical: only what differs from its reset value is listed. -/
def State.regsWf (s : State) : Bool := Sparse.wf (fun k => BitVec.ofNat 64 (s.regReset k)) s.regs

/-- Every memory is in canonical form. -/
def Memory.wf (s : State) : Bool := s.sram.wf && s.dram.wf

/-- So is the register file. -/
def State.wf (s : State) : Bool := Memory.wf s && s.regsWf

/-! ### Control-core instructions -/

/-- The thread whose instruction word a command is, for the commands that R310 gives a word. -/
def ofThread (i : Instr) : Option ThreadId :=
  match i with
  | .add t _ _ _ _ _ _ => some t
  | .sub t _ _ _ _ _ _ => some t
  | .neg t _ _ _ _ => some t
  | .abs t _ _ _ _ => some t
  | .and t _ _ _ _ _ => some t
  | .or t _ _ _ _ _ => some t
  | .xor t _ _ _ _ _ => some t
  | .andn t _ _ _ _ _ => some t
  | .not t _ _ _ _ => some t
  | .shl t _ _ _ _ _ _ => some t
  | .shr t _ _ _ _ _ => some t
  | .sra t _ _ _ _ _ => some t
  | .rotl t _ _ _ _ _ => some t
  | .min t _ _ _ _ _ => some t
  | .max t _ _ _ _ _ => some t
  | .cmpeq t _ _ _ _ => some t
  | .cmplt t _ _ _ _ _ => some t
  | .cmple t _ _ _ _ _ => some t
  | .selnz t _ _ _ _ _ => some t
  | .mov t _ _ _ _ => some t
  | .popc t _ _ _ _ => some t
  | .clz t _ _ _ _ => some t
  | .mul t _ _ _ _ _ _ => some t
  | .mulh t _ _ _ _ _ => some t
  | .div t _ _ _ _ _ _ => some t
  | .divr t _ _ _ _ _ _ => some t
  | .xmul t _ _ _ _ _ => some t
  | .xmac t _ _ _ _ _ => some t
  | .xmsu t _ _ _ _ _ => some t
  | .xmov t _ _ _ _ _ _ => some t
  | .fadd t _ _ _ _ => some t
  | .fsub t _ _ _ _ => some t
  | .fmul t _ _ _ _ => some t
  | .fdiv t _ _ _ _ => some t
  | .fsqrt t _ _ _ => some t
  | .fmin t _ _ _ _ => some t
  | .fmax t _ _ _ _ => some t
  | .fminm t _ _ _ _ => some t
  | .fmaxm t _ _ _ _ => some t
  | .fabs t _ _ _ => some t
  | .fneg t _ _ _ => some t
  | .fcsgn t _ _ _ _ => some t
  | .frint t _ _ _ => some t
  | .fcmpeq t _ _ _ _ => some t
  | .fcmplt t _ _ _ _ => some t
  | .fcmple t _ _ _ _ => some t
  | .cvtff t _ _ _ _ => some t
  | .cvtfi t _ _ _ _ _ => some t
  | .cvtif t _ _ _ _ _ => some t
  | .fma t _ _ _ _ _ => some t
  | .fms t _ _ _ _ _ => some t
  | .fnma t _ _ _ _ _ => some t
  | .fnms t _ _ _ _ _ => some t
  | .bcdadd t _ _ _ => some t
  | .bcdsub t _ _ _ => some t
  | .movad t _ _ => some t
  | .movda t _ _ => some t
  | .cmpaeq t _ _ _ => some t
  | .cmpaltu t _ _ _ => some t
  | .adda t _ _ _ => some t
  | .suba t _ _ _ => some t
  | .addi t _ _ _ => some t
  | .andi t _ _ _ => some t
  | .ori t _ _ _ => some t
  | .li t _ _ => some t
  | .shli t _ _ _ => some t
  | .shri t _ _ _ => some t
  | .srai t _ _ _ => some t
  | .rotli t _ _ _ => some t
  | .cmpeqi t _ _ _ => some t
  | .cmplti t _ _ _ => some t
  | .cmpltui t _ _ _ => some t
  | .ld t _ _ _ _ => some t
  | .lds t _ _ _ _ => some t
  | .st t _ _ _ _ => some t
  | .slaunch t _ _ => some t
  | .beqz t _ _ => some t
  | .bnez t _ _ => some t
  | .bltz t _ _ => some t
  | .bgez t _ _ => some t
  | .bra t _ => some t
  | .bal t _ _ => some t
  | .ja t _ => some t
  | .jal t _ _ => some t
  | .nop t => some t
  | .mfs t _ _ => some t
  | .mts t _ _ => some t
  | .wfe t _ _ => some t
  | .wtu t _ _ _ => some t
  | .sev t _ _ => some t
  | .callg t _ => some t
  | .retx t => some t
  | .fence t => some t
  | _ => none

/-- R284 to R286, R308: thread `t` issues `i` in its slot, the fetch check passes, and `i` is legal where it stands. -/
def State.Issues (s : State) (t : ThreadId) (i : Instr) : Prop :=
  (s.thread t).canIssue = true ∧ s.fetchFault t = none ∧ legalAt t (s.thread t).slot i = true

/-- R181: none of the flags `f` traps in thread `t`. -/
def State.NoTrap (s : State) (t : ThreadId) (f : Flags) : Prop := traps (s.thread t).r.ts f = false

/-- A register as the view of R291 and R292 that a delayed write reaches. -/
def CoreRegs.view (r : CoreRegs) (dst : RegDst) : BitVec 128 :=
  match dst with
  | .d n => (r.d[n.toNat]'n.isLt).setWidth 128
  | .aBase n => (r.aBase[n.toNat]'n.isLt).setWidth 128
  | .xMov n => r.xMov[n.toNat]'n.isLt
  | .ts => r.ts.setWidth 128

/-- A write of an earlier instruction to `dst` takes effect at the next instruction boundary. -/
def Thread.due (th : Thread) (dst : RegDst) : Bool := th.pend.any fun w => w.left == 0 && w.dst == dst

/-- R180, R291, R293, R301: from `s` to `s'` an instruction of thread `t` completed with the writes `ws`, the flags `f` and,
for a branch, its delay slot: a write of distance 0 shows from now on and a longer one comes one instruction closer, as
do the writes of earlier instructions; the flags are ORed into TS.FLG; the PC moves on; no other register, no other part
of the thread and nothing outside the thread changes. -/
structure State.Completed (s s' : State) (t : ThreadId) (ws : List PendWrite) (f : Flags) (slot : Option Slot) : Prop where
  /-- Nothing outside the thread changes. -/
  only : s' = s.setThread t (s'.thread t)
  /-- Writes of distance 0 show. -/
  shown : ∀ w ∈ ws, w.left = 0 → (s'.thread t).r.view w.dst = w.val
  /-- Longer writes wait. -/
  delayed : ∀ w ∈ ws, w.left ≠ 0 → { w with left := w.left - 1 } ∈ (s'.thread t).pend
  /-- So do longer writes of earlier instructions. -/
  waiting : ∀ w ∈ (s.thread t).pend, w.left ≠ 0 → w.dst ≠ .ts → { w with left := w.left - 1 } ∈ (s'.thread t).pend
  /-- Nothing else waits. -/
  nothingNew : (s'.thread t).pend.length =
    (((s.thread t).pend ++ ws).filter fun w => w.left != 0).length
  /-- Registers without a write keep their values. -/
  kept : ∀ dst : RegDst, dst ≠ .ts → (s.thread t).due dst = false → (∀ w ∈ ws, w.left = 0 → w.dst ≠ dst) →
    (s'.thread t).r.view dst = (s.thread t).r.view dst
  /-- R180: the flags, with nothing else of TS changed. -/
  status : (s.thread t).due .ts = false → (∀ w ∈ ws, w.left = 0 → w.dst ≠ .ts) →
    (s'.thread t).r.ts = tsOrFlags (s.thread t).r.ts f
  /-- Adds, compares and accumulations read what they read before. -/
  arith : (s'.thread t).r.a = (s.thread t).r.a ∧ (s'.thread t).r.x = (s.thread t).r.x
  /-- The exception registers, TV and GTB stay. -/
  special : (s'.thread t).r.xpc = (s.thread t).r.xpc ∧ (s'.thread t).r.xts = (s.thread t).r.xts
    ∧ (s'.thread t).r.xcause = (s.thread t).r.xcause ∧ (s'.thread t).r.xinfo = (s.thread t).r.xinfo
    ∧ (s'.thread t).r.xaddr = (s.thread t).r.xaddr ∧ (s'.thread t).r.tv = (s.thread t).r.tv
    ∧ (s'.thread t).r.gtb = (s.thread t).r.gtb
  /-- The PC moves past the instruction, or from a delay slot to where its branch goes. -/
  pc : (s'.thread t).pc = (s.thread t).nextPc ∧ (s'.thread t).slot = slot
  /-- The thread runs on. -/
  running : (s'.thread t).st = .running ∧ (s'.thread t).park = none ∧ (s'.thread t).held = none
    ∧ (s'.thread t).routine = (s.thread t).routine
  /-- Store buffer, events, machine checks, watchdog and descriptor queue stay. -/
  rest : (s'.thread t).stores = (s.thread t).stores ∧ (s'.thread t).events = (s.thread t).events
    ∧ (s'.thread t).mchecks = (s.thread t).mchecks ∧ (s'.thread t).warnPending = (s.thread t).warnPending
    ∧ (s'.thread t).wdCount = (s.thread t).wdCount ∧ (s'.thread t).seqNo = (s.thread t).seqNo
    ∧ (s'.thread t).dq = (s.thread t).dq

/-- R342 to R345: from `s` to `s'` thread `t` took an exception: entry in the handler ring with GM = 1 and TEN = 0, pending
writes in effect (R294), the return point and the causes saved, and the PC at the vector; nothing outside the thread but
its request for a reservation changes. -/
structure State.TookException (s s' : State) (t : ThreadId) (e : Exc) (xpc : Addr) (ds : Bool) : Prop where
  /-- Nothing else changes. -/
  only : s' = (s.unregister t).setThread t (s'.thread t)
  /-- R345: what describes the exception. -/
  saved : (s'.thread t).r.xcause = BitVec.ofNat 64 e.cause ∧ (s'.thread t).r.xinfo = BitVec.ofNat 64 e.info
    ∧ (s'.thread t).r.xaddr = BitVec.ofNat 64 e.addr ∧ (s'.thread t).r.xpc = xpc.setWidth 64
  /-- R343: XTS is TS with DS in bit 3. -/
  savedStatus : ∀ n : Nat, n < 64 →
    (s'.thread t).r.xts.getLsbD n = (if n = 3 then ds else ((s.thread t).r.flush (s.thread t).pend).ts.getLsbD n)
  /-- R342: the handler ring, and GM. -/
  mode : tsRing (s'.thread t).r.ts = handlerRing (tsRing (s.thread t).r.ts) ∧ tsGM (s'.thread t).r.ts = true
    ∧ tsTen (s'.thread t).r.ts = 0
  /-- RM and FLG stay. -/
  arithmetic : tsFlg (s'.thread t).r.ts = tsFlg ((s.thread t).r.flush (s.thread t).pend).ts
    ∧ tsRM (s'.thread t).r.ts = tsRM ((s.thread t).r.flush (s.thread t).pend).ts
  /-- R342: the vector. -/
  vector : (s'.thread t).pc = BitVec.ofNat 48 ((s.thread t).r.tv.toNat / 1024 * 1024 + vectorOffset e.cause)
  /-- R294: pending writes took effect, and no other register changes. -/
  registers : (s'.thread t).pend = [] ∧ (∀ dst : RegDst, dst ≠ .ts →
      (s'.thread t).r.view dst = ((s.thread t).r.flush (s.thread t).pend).view dst)
    ∧ (s'.thread t).r.a = (s.thread t).r.a ∧ (s'.thread t).r.x = (s.thread t).r.x
    ∧ (s'.thread t).r.tv = (s.thread t).r.tv ∧ (s'.thread t).r.gtb = (s.thread t).r.gtb
  /-- The thread runs at the handler. -/
  running : (s'.thread t).st = .running ∧ (s'.thread t).slot = none ∧ (s'.thread t).park = none
    ∧ (s'.thread t).held = none ∧ (s'.thread t).routine = none
  /-- Store buffer, events, watchdog and descriptor queue stay. -/
  rest : (s'.thread t).stores = (s.thread t).stores ∧ (s'.thread t).events = (s.thread t).events
    ∧ (s'.thread t).wdCount = (s.thread t).wdCount ∧ (s'.thread t).seqNo = (s.thread t).seqNo
    ∧ (s'.thread t).dq = (s.thread t).dq

/-- Command `i` at `s` answers a next state, and to it thread `t` completed as said over `s1`, which is `s` with the
instruction's other effects. -/
def Runs (i : Instr) (s : State) (t : ThreadId) (s1 : State) (ws : List PendWrite) (f : Flags) (slot : Option Slot) : Prop :=
  ∃ s', exec i s = .next s' ∧ s1.Completed s' t ws f slot

/-- Command `i` at `s` answers a next state of which `p` holds. -/
def Answers (i : Instr) (s : State) (p : State → Prop) : Prop := ∃ s', exec i s = .next s' ∧ p s'

/-- Every configuration register but those at the places `ks`, as (block, offset), keeps its content. -/
def State.OnlyRegs (s s' : State) (ks : List (Nat × Nat)) : Prop :=
  ∀ blk off, (∀ k ∈ ks, regKey blk off ≠ regKey k.1 k.2) → s'.reg blk off = s.reg blk off

/-! ### Plain arithmetic -/

/-- R311: the low `w` bits of `x`, extended to 64 bits: by zeros when `u`, by the sign otherwise. -/
def narrow (u : Bool) (w : Nat) (x : Word) : Word :=
  if u then (x.setWidth w).setWidth 64 else (x.setWidth w).signExtend 64

/-- R311: a source of `w` bits as a number. -/
def operand (u : Bool) (w : Nat) (x : Word) : Int :=
  if u then ((x.setWidth w).toNat : Int) else (x.setWidth w).toInt

/-- R139: the number of `w` bits nearest to `z`. -/
def clamp (u : Bool) (w : Nat) (z : Int) : Int :=
  if u then max 0 (min (2 ^ w - 1) z) else max (-(2 ^ (w - 1))) (min (2 ^ (w - 1) - 1) z)

/-- R139, R311: the exact result `z` reduced to `w` bits, saturated or wrapped, and extended. -/
def reduced (sat u : Bool) (w : Nat) (z : Int) : Word :=
  if sat then BitVec.ofInt 64 (clamp u w z) else narrow u w (BitVec.ofInt 64 z)

/-- R139: Q, raised when a saturating reduction changes the value. -/
def reducedFlags (sat u : Bool) (w : Nat) (z : Int) : Flags := if sat && clamp u w z != z then flagQ else 0

/-- R312: a comparison result. -/
def allOnesIf (b : Bool) : Word := if b then BitVec.allOnes 64 else 0

end Sys2Proof.Machine
end

