-- ==== Sys2Proof/Certificates/Slice0/Obligations.lean ====
section
/-!
DEFINITION. The statements about the HF8128 that are to be proved, from the numbered rules of spec/. A statement about
one command says what its next state holds and, for the state it does not name, that it stays.
-/

open Sys2Proof Sys2Proof.Machine

/-! ### The queue -/

/-- A command at the front of the queue runs over the queue's rest. -/
def Obligations.StepRunsFrontCommand : Prop :=
  ∀ (c : Instr) (rest : List Instr) (s : State),
    step { s with pending := c :: rest } = exec c { s with pending := rest }

/-- R414: while no command waits the block idles but for its upstream chain port, which sends one ready packet, a passed-up
one before an own one; with none ready, or the port not served, nothing changes. That a step on an empty queue does this
is the model's choice (log entry 1). -/
def Obligations.EmptyQueueOnlySendsUpstream : Prop :=
  ∀ (s : State) (p : List Byte) (rest : List (List Byte)), s.pending = [] →
    ((s.mgtOn = false ∨ s.portUp true = false ∨ (s.mgt.upPassed = [] ∧ s.mgt.upOwn = [])) → step s = .next s)
    ∧ (s.mgtOn = true → s.portUp true = true → s.mgt.upPassed = p :: rest →
      step s = .next { s with mgt := { s.mgt with upPassed := rest, upOut := s.mgt.upOut ++ [p] } })
    ∧ (s.mgtOn = true → s.portUp true = true → s.mgt.upPassed = [] → s.mgt.upOwn = p :: rest →
      step s = .next { s with mgt := { s.mgt with upOwn := rest, upOut := s.mgt.upOut ++ [p] } })

/-! ### Instruction words (R305 to R334) -/

/-- Every legal instruction of a thread has a word, and the word decodes to it with every operand. -/
def Obligations.DecodeOfEncodeIsInstruction : Prop :=
  ∀ (t : ThreadId) (i : Instr) (x : BitVec 32),
    wellFormed i = true → ofThread i = some t → encode i = some x → decode t x = some i

/-- Every word that decodes is the word of the instruction it decodes to, which is legal: no two words mean the same
instruction. -/
def Obligations.EncodeOfDecodeIsWord : Prop :=
  ∀ (t : ThreadId) (x : BitVec 32) (i : Instr),
    decode t x = some i → encode i = some x ∧ wellFormed i = true ∧ ofThread i = some t

/-- R308: the words of zeros and of ones are illegal, NOP is 0xC000_0000, and words written out from R306, R310 and R312 to
R327 decode to ADD, FMA, LI, ST, BNEZ and MTS. -/
def Obligations.WordsOfTheTablesDecode : Prop :=
  ∀ t : ThreadId, decode t 0x00000000 = none ∧ decode t 0xFFFFFFFF = none
    ∧ decode t 0xC0000000 = some (.nop t)
    ∧ decode t 0x04431280 = some (.add t 1 false true 2 3 2)
    ∧ decode t 0x10A628C1 = some (.fma t 1 5 6 5 3)
    ∧ decode t 0x2020FFFF = some (.li t 1 0x3FFF)
    ∧ decode t 0x48E50008 = some (.st t 7 2 4 8)
    ∧ decode t 0x649FFFFE = some (.bnez t 4 0x1FFFFE)
    ∧ decode t 0xC0090002 = some (.mts t 9 0)

/-! ### Integer instructions (R311 to R314) -/

/-- R312, R313, R139: ADD, SUB, NEG, ABS, SHL and MUL write the exact result reduced to W bits, with Q when saturation
changes it; MUL one instruction later. -/
def Obligations.IntegerArithmeticReducesExactResult : Prop :=
  ∀ (s : State) (t : ThreadId) (w : BitVec 2) (sat u : Bool) (rd ra rb : BitVec 5),
    let n := wBits w
    let a := operand u n ((s.thread t).d ra)
    let b := operand u n ((s.thread t).d rb)
    let na := operand false n ((s.thread t).d ra)
    let sh := ((s.thread t).d rb).toNat % n
    (s.Issues t (.add t w sat u rd ra rb) → s.NoTrap t (reducedFlags sat u n (a + b)) →
      Runs (.add t w sat u rd ra rb) s t s [writeD 0 rd (reduced sat u n (a + b))] (reducedFlags sat u n (a + b)) none)
    ∧ (s.Issues t (.sub t w sat u rd ra rb) → s.NoTrap t (reducedFlags sat u n (a - b)) →
      Runs (.sub t w sat u rd ra rb) s t s [writeD 0 rd (reduced sat u n (a - b))] (reducedFlags sat u n (a - b)) none)
    ∧ (s.Issues t (.neg t w sat rd ra) → s.NoTrap t (reducedFlags sat false n (-na)) →
      Runs (.neg t w sat rd ra) s t s [writeD 0 rd (reduced sat false n (-na))] (reducedFlags sat false n (-na)) none)
    ∧ (s.Issues t (.abs t w sat rd ra) → s.NoTrap t (reducedFlags sat false n (na.natAbs : Int)) →
      Runs (.abs t w sat rd ra) s t s [writeD 0 rd (reduced sat false n (na.natAbs : Int))] (reducedFlags sat false n (na.natAbs : Int)) none)
    ∧ (s.Issues t (.shl t w sat u rd ra rb) → s.NoTrap t (reducedFlags sat u n (a * 2 ^ sh)) →
      Runs (.shl t w sat u rd ra rb) s t s [writeD 0 rd (reduced sat u n (a * 2 ^ sh))] (reducedFlags sat u n (a * 2 ^ sh)) none)
    ∧ (s.Issues t (.mul t w sat u rd ra rb) → s.NoTrap t (reducedFlags sat u n (a * b)) →
      Runs (.mul t w sat u rd ra rb) s t s [writeD 1 rd (reduced sat u n (a * b))] (reducedFlags sat u n (a * b)) none)

/-- R312: AND, OR, XOR, ANDN, NOT, MOV and SELNZ work on the low W bits, extend the result, and raise no flag; MIN and MAX select
by value, comparisons write all ones or zero, POPC counts the ones and CLZ the leading zeros of the low W bits. -/
def Obligations.LogicSelectionAndComparisons : Prop :=
  (∀ (s : State) (t : ThreadId) (w : BitVec 2) (u : Bool) (rd ra rb : BitVec 5),
    let n := wBits w
    let a := (s.thread t).d ra
    let b := (s.thread t).d rb
    (s.Issues t (.and t w u rd ra rb) → Runs (.and t w u rd ra rb) s t s [writeD 0 rd (narrow u n (a &&& b))] 0 none)
    ∧ (s.Issues t (.or t w u rd ra rb) → Runs (.or t w u rd ra rb) s t s [writeD 0 rd (narrow u n (a ||| b))] 0 none)
    ∧ (s.Issues t (.xor t w u rd ra rb) → Runs (.xor t w u rd ra rb) s t s [writeD 0 rd (narrow u n (a ^^^ b))] 0 none)
    ∧ (s.Issues t (.andn t w u rd ra rb) → Runs (.andn t w u rd ra rb) s t s [writeD 0 rd (narrow u n (a &&& ~~~b))] 0 none)
    ∧ (s.Issues t (.not t w u rd ra) → Runs (.not t w u rd ra) s t s [writeD 0 rd (narrow u n (~~~a))] 0 none)
    ∧ (s.Issues t (.mov t w u rd ra) → Runs (.mov t w u rd ra) s t s [writeD 0 rd (narrow u n a)] 0 none)
    ∧ (s.Issues t (.selnz t w u rd ra rb) →
      Runs (.selnz t w u rd ra rb) s t s [writeD 0 rd (narrow u n (if a.setWidth n = 0 then b else a))] 0 none))
  ∧ (∀ (s : State) (t : ThreadId) (w : BitVec 2) (u : Bool) (rd ra rb : BitVec 5),
    let n := wBits w
    let a := (s.thread t).d ra
    let b := (s.thread t).d rb
    (s.Issues t (.min t w u rd ra rb) →
      Runs (.min t w u rd ra rb) s t s [writeD 0 rd (narrow u n (if operand u n a ≤ operand u n b then a else b))] 0 none)
    ∧ (s.Issues t (.max t w u rd ra rb) →
      Runs (.max t w u rd ra rb) s t s [writeD 0 rd (narrow u n (if operand u n a ≤ operand u n b then b else a))] 0 none)
    ∧ (s.Issues t (.cmpeq t w rd ra rb) →
      Runs (.cmpeq t w rd ra rb) s t s [writeD 0 rd (allOnesIf (decide (a.setWidth n = b.setWidth n)))] 0 none)
    ∧ (s.Issues t (.cmplt t w u rd ra rb) →
      Runs (.cmplt t w u rd ra rb) s t s [writeD 0 rd (allOnesIf (decide (operand u n a < operand u n b)))] 0 none)
    ∧ (s.Issues t (.cmple t w u rd ra rb) →
      Runs (.cmple t w u rd ra rb) s t s [writeD 0 rd (allOnesIf (decide (operand u n a ≤ operand u n b)))] 0 none)
    ∧ (s.Issues t (.popc t w u rd ra) →
      Runs (.popc t w u rd ra) s t s
        [writeD 0 rd (BitVec.ofNat 64 ((List.range n).countP fun k => a.getLsbD k))] 0 none)
    ∧ (s.Issues t (.clz t w u rd ra) → ∃ z : Nat, z ≤ n ∧ (∀ k, n - z ≤ k → k < n → a.getLsbD k = false)
      ∧ (z < n → a.getLsbD (n - 1 - z) = true)
      ∧ Runs (.clz t w u rd ra) s t s [writeD 0 rd (BitVec.ofNat 64 z)] 0 none))

/-- R312: SHR, SRA and ROTL take the whole second source modulo W, and MULH (R313) gives the upper half of the product. -/
def Obligations.ShiftsRotatesAndHighProduct : Prop :=
  ∀ (s : State) (t : ThreadId) (w : BitVec 2) (u : Bool) (rd ra rb : BitVec 5),
    let n := wBits w
    let a := (s.thread t).d ra
    let sh := ((s.thread t).d rb).toNat % n
    (s.Issues t (.shr t w u rd ra rb) →
      Runs (.shr t w u rd ra rb) s t s [writeD 0 rd (narrow u n ((a.setWidth n >>> sh).setWidth 64))] 0 none)
    ∧ (s.Issues t (.sra t w u rd ra rb) →
      Runs (.sra t w u rd ra rb) s t s [writeD 0 rd (narrow u n (((a.setWidth n).sshiftRight sh).setWidth 64))] 0 none)
    ∧ (s.Issues t (.rotl t w u rd ra rb) →
      Runs (.rotl t w u rd ra rb) s t s [writeD 0 rd (narrow u n (((a.setWidth n).rotateLeft sh).setWidth 64))] 0 none)
    ∧ (s.Issues t (.mulh t w u rd ra rb) →
      Runs (.mulh t w u rd ra rb) s t s
        [writeD 1 rd (narrow u n (BitVec.ofInt 64 (operand u n a * operand u n ((s.thread t).d rb) / 2 ^ n)))] 0 none)

/-- R168, R208, R313, R316, R319: DIV and DIVR start a routine of 3 microwords, 5 at W = 64, that holds the quotient rounded toward
zero and, for DIVR, the remainder; a zero divisor gives quotient 0, the dividend as remainder and Z. FDIV and FSQRT start
one of 3, 5 at binary64, and BCDADD and BCDSUB one of 2, that holds the result and its flags. -/
def Obligations.LongOperationsStartRoutines : Prop :=
  (∀ (s : State) (t : ThreadId) (w : BitVec 2) (sat u : Bool) (rd ra rb : BitVec 5),
    let n := wBits w
    let a := operand u n ((s.thread t).d ra)
    let b := operand u n ((s.thread t).d rb)
    let q := if b = 0 then 0 else reduced sat u n (a.tdiv b)
    let r := if b = 0 then narrow u n ((s.thread t).d ra) else narrow u n (BitVec.ofInt 64 (a.tmod b))
    let f := if b = 0 then flagZ else reducedFlags sat u n (a.tdiv b)
    let len := if w = 0 then 5 else 3
    (s.Issues t (.div t w sat u rd ra rb) →
      exec (.div t w sat u rd ra rb) s
        = .next (s.setThread t { s.thread t with routine := some ⟨.divide rd q none f len, 0, 0, 0, 0, 0⟩ }))
    ∧ (s.Issues t (.divr t w sat u rd ra rb) →
      exec (.divr t w sat u rd ra rb) s
        = .next (s.setThread t { s.thread t with routine := some ⟨.divide rd q (some r) f len, 0, 0, 0, 0, 0⟩ })))
  ∧ (∀ (s : State) (t : ThreadId) (fw : BitVec 2) (rd ra rb : BitVec 5),
    let th := s.thread t
    let n := fwBits fw
    let rm := tsRM th.r.ts
    let a := (th.d ra).toNat
    let b := (th.d rb).toNat
    let starts (i : Instr) (r : Nat × Flags) (len : Nat) : Prop := s.Issues t i →
      exec i s = .next (s.setThread t { th with routine := some ⟨.result rd (BitVec.ofNat 64 r.1) r.2 len, 0, 0, 0, 0, 0⟩ })
    starts (.fdiv t fw rd ra rb) ((fpOfWidth n).div rm (a % 2 ^ n) (b % 2 ^ n)) (if fw = 2 then 5 else 3)
    ∧ starts (.fsqrt t fw rd ra) ((fpOfWidth n).sqrt rm (a % 2 ^ n)) (if fw = 2 then 5 else 3)
    ∧ starts (.bcdadd t rd ra rb) (bcdOp false a b) 2
    ∧ starts (.bcdsub t rd ra rb) (bcdOp true a b) 2)

/-- R313, R169, R314: XMUL, XMAC and XMSU work modulo 2^128 on the accumulator as accumulations read it, which XMOV reads
two instructions later; XMOV shifts, rounds under TS.RM and reduces what it reads. -/
def Obligations.AccumulatorsAddProducts : Prop :=
  ∀ (s : State) (t : ThreadId) (w : BitVec 2) (sat u : Bool) (rd ra rb : BitVec 5) (xd : BitVec 2) (sh : BitVec 7),
    let n := wBits w
    let p := BitVec.ofInt 128 (operand u n ((s.thread t).d ra) * operand u n ((s.thread t).d rb))
    let x := (s.thread t).x xd
    let r := xmovValue (tsRM (s.thread t).r.ts) sat (!u) n ((s.thread t).xMov xd).toNat sh.toNat
    let withX (v : BitVec 128) : State := s.setThread t ((s.thread t).setX xd v)
    (s.Issues t (.xmul t w u xd ra rb) → Runs (.xmul t w u xd ra rb) s t (withX p) [⟨2, .xMov xd, p⟩] 0 none)
    ∧ (s.Issues t (.xmac t w u xd ra rb) → Runs (.xmac t w u xd ra rb) s t (withX (x + p)) [⟨2, .xMov xd, x + p⟩] 0 none)
    ∧ (s.Issues t (.xmsu t w u xd ra rb) → Runs (.xmsu t w u xd ra rb) s t (withX (x - p)) [⟨2, .xMov xd, x - p⟩] 0 none)
    ∧ (s.Issues t (.xmov t rd xd sh w sat u) → s.NoTrap t r.2 →
      Runs (.xmov t rd xd sh w sat u) s t s [writeD 1 rd (narrow u n (BitVec.ofNat 64 r.1))] r.2 none)

/-! ### Floating point and decimal (R315 to R319) -/

/-- R315, R316, R318: FADD, FSUB, FMUL, the fused forms and FRINT read the low bits of their sources at the width of FW,
round under TS.RM, and write the result with zeros above one instruction later. -/
def Obligations.FloatArithmeticRoundsUnderTs : Prop :=
  ∀ (s : State) (t : ThreadId) (fw : BitVec 2) (rd ra rb rc : BitVec 5),
    let th := s.thread t
    let n := fwBits fw
    let rm := tsRM th.r.ts
    let a := (th.d ra).toNat % 2 ^ n
    let b := (th.d rb).toNat % 2 ^ n
    let c := (th.d rc).toNat % 2 ^ n
    let gives (i : Instr) (r : Nat × Flags) : Prop := s.Issues t i → s.NoTrap t r.2 →
      Runs i s t s [writeD 1 rd (BitVec.ofNat 64 r.1)] r.2 none
    gives (.fadd t fw rd ra rb) ((fpOfWidth n).add rm a b)
    ∧ gives (.fsub t fw rd ra rb) ((fpOfWidth n).sub rm a b)
    ∧ gives (.fmul t fw rd ra rb) ((fpOfWidth n).mul rm a b)
    ∧ gives (.fma t fw rd ra rb rc) ((fpOfWidth n).fma rm false false a b c)
    ∧ gives (.fms t fw rd ra rb rc) ((fpOfWidth n).fma rm false true a b c)
    ∧ gives (.fnma t fw rd ra rb rc) ((fpOfWidth n).fma rm true false a b c)
    ∧ gives (.fnms t fw rd ra rb rc) ((fpOfWidth n).fma rm true true a b c)
    ∧ gives (.frint t fw rd ra) ((fpOfWidth n).rint rm a)

/-- R316: FABS clears, FNEG inverts and FCSGN copies the sign bit and nothing else, with no flag even on a NaN; minima and
maxima return one of their operands' values or a quiet NaN. -/
def Obligations.FloatSignAndSelect : Prop :=
  ∀ (s : State) (t : ThreadId) (fw : BitVec 2) (rd ra rb : BitVec 5),
    let th := s.thread t
    let n := fwBits fw
    let x := (th.d ra).toNat % 2 ^ n
    let y := (th.d rb).toNat % 2 ^ n
    let a := (th.d ra).setWidth n
    let b := (th.d rb).setWidth n
    let top := BitVec.ofNat n (2 ^ (n - 1))
    let gives (i : Instr) (r : Nat × Flags) : Prop := s.Issues t i → s.NoTrap t r.2 →
      Runs i s t s [writeD 1 rd (BitVec.ofNat 64 r.1)] r.2 none
    (s.Issues t (.fabs t fw rd ra) → Runs (.fabs t fw rd ra) s t s [writeD 1 rd ((a &&& ~~~top).setWidth 64)] 0 none)
    ∧ (s.Issues t (.fneg t fw rd ra) → Runs (.fneg t fw rd ra) s t s [writeD 1 rd ((a ^^^ top).setWidth 64)] 0 none)
    ∧ (s.Issues t (.fcsgn t fw rd ra rb) →
      Runs (.fcsgn t fw rd ra rb) s t s [writeD 1 rd (((a &&& ~~~top) ||| (b &&& top)).setWidth 64)] 0 none)
    ∧ gives (.fmin t fw rd ra rb) ((fpOfWidth n).minMax false true x y)
    ∧ gives (.fmax t fw rd ra rb) ((fpOfWidth n).minMax true true x y)
    ∧ gives (.fminm t fw rd ra rb) ((fpOfWidth n).minMax false false x y)
    ∧ gives (.fmaxm t fw rd ra rb) ((fpOfWidth n).minMax true false x y)

/-- R316, R317: comparisons write all ones or zero; conversions go between the formats and to and from integers of W bits,
which are extended to 64 bits. -/
def Obligations.FloatComparisonsAndConversions : Prop :=
  ∀ (s : State) (t : ThreadId) (fw dst w : BitVec 2) (u : Bool) (rd ra rb : BitVec 5),
    let th := s.thread t
    let n := fwBits fw
    let f := fpOfWidth n
    let rm := tsRM th.r.ts
    let a := (th.d ra).toNat % 2 ^ n
    let b := (th.d rb).toNat % 2 ^ n
    let gives (i : Instr) (v : Word) (fl : Flags) : Prop := s.Issues t i → s.NoTrap t fl →
      Runs i s t s [writeD 1 rd v] fl none
    gives (.fcmpeq t fw rd ra rb) (allOnesIf (f.compare .eq a b).1) (f.compare .eq a b).2
    ∧ gives (.fcmplt t fw rd ra rb) (allOnesIf (f.compare .lt a b).1) (f.compare .lt a b).2
    ∧ gives (.fcmple t fw rd ra rb) (allOnesIf (f.compare .le a b).1) (f.compare .le a b).2
    ∧ gives (.cvtff t fw dst rd ra) (BitVec.ofNat 64 (fpConvert f (fpOfWidth (fwBits dst)) rm a).1)
        (fpConvert f (fpOfWidth (fwBits dst)) rm a).2
    ∧ gives (.cvtfi t fw w u rd ra) (BitVec.ofInt 64 (fpToInt f rm (!u) (wBits w) a).1) (fpToInt f rm (!u) (wBits w) a).2
    ∧ gives (.cvtif t fw w u rd ra) (BitVec.ofNat 64 (intToFp f rm (operand u (wBits w) (th.d ra))).1)
        (intToFp f rm (operand u (wBits w) (th.d ra))).2

/-! ### Address registers and immediates (R320, R321) -/

/-- R320, R292: MOVAD, ADDA and SUBA write an A register, which adds and compares see at once and accesses one instruction
later as a base; MOVDA reads it and CMPAEQ and CMPALTU compare two. R321: the immediate instructions work on 64 bits; ADDI,
LI and the comparisons sign-extend the immediate, ANDI and ORI zero-extend it. -/
def Obligations.AddressRegistersAndImmediates : Prop :=
  (∀ (s : State) (t : ThreadId) (rd ra : BitVec 5) (ad aa ab : BitVec 4) (imm : BitVec 14),
    let th := s.thread t
    let sets (i : Instr) (v : Addr) : Prop := s.Issues t i →
      Runs i s t (s.setThread t (th.setA ad v)) [⟨1, .aBase ad, v.setWidth 128⟩] 0 none
    let gives (i : Instr) (v : Word) : Prop := s.Issues t i → Runs i s t s [writeD 0 rd v] 0 none
    sets (.movad t ad ra) ((th.d ra).setWidth 48)
    ∧ sets (.adda t ad aa imm) (th.a aa + imm.signExtend 48)
    ∧ sets (.suba t ad aa imm) (th.a aa - imm.signExtend 48)
    ∧ gives (.movda t rd aa) ((th.a aa).setWidth 64)
    ∧ gives (.cmpaeq t rd aa ab) (allOnesIf (decide (th.a aa = th.a ab)))
    ∧ gives (.cmpaltu t rd aa ab) (allOnesIf (decide ((th.a aa).toNat < (th.a ab).toNat))))
  ∧ (∀ (s : State) (t : ThreadId) (rd ra : BitVec 5) (imm : BitVec 14) (sh : BitVec 6),
    let a := (s.thread t).d ra
    let gives (i : Instr) (v : Word) : Prop := s.Issues t i → Runs i s t s [writeD 0 rd v] 0 none
    gives (.addi t rd ra imm) (a + imm.signExtend 64)
    ∧ gives (.andi t rd ra imm) (a &&& imm.setWidth 64)
    ∧ gives (.ori t rd ra imm) (a ||| imm.setWidth 64)
    ∧ gives (.li t rd imm) (imm.signExtend 64)
    ∧ gives (.shli t rd ra sh) (a <<< sh.toNat)
    ∧ gives (.shri t rd ra sh) (a >>> sh.toNat)
    ∧ gives (.srai t rd ra sh) (a.sshiftRight sh.toNat)
    ∧ gives (.rotli t rd ra sh) (a.rotateLeft sh.toNat)
    ∧ gives (.cmpeqi t rd ra imm) (allOnesIf (decide (a = imm.signExtend 64)))
    ∧ gives (.cmplti t rd ra imm) (allOnesIf (decide (a.toInt < imm.toInt)))
    ∧ gives (.cmpltui t rd ra imm) (allOnesIf (decide (a.toNat < (imm.signExtend 64).toNat))))

/-! ### Branches and system instructions (R325 to R334) -/

/-- R301, R325, R326: a branch leaves a delay slot, after which the thread goes on at the target when it is taken and behind
the slot when it is not; BAL and JAL write PC + 8 to the link register. -/
def Obligations.BranchesLeaveDelaySlot : Prop :=
  ∀ (s : State) (t : ThreadId) (rc : BitVec 5) (ab : BitVec 4) (disp : BitVec 21),
    let th := s.thread t
    let c := th.d rc
    let rel := th.pc + disp.signExtend 48 * 4
    let abs := th.base ab &&& ~~~3
    let link := [writeD 0 rc ((th.pc + 8).setWidth 64)]
    let goes (i : Instr) (taken : Bool) (target : Addr) (ws : List PendWrite) (rD : Option (BitVec 5))
        (rA : Option (BitVec 4)) : Prop := s.Issues t i →
      Runs i s t s ws 0 (some ⟨th.pc, if taken then target else th.pc + 8, rD, rA⟩)
    goes (.beqz t rc disp) (decide (c = 0)) rel [] (some rc) none
    ∧ goes (.bnez t rc disp) (decide (c ≠ 0)) rel [] (some rc) none
    ∧ goes (.bltz t rc disp) (decide (c.toInt < 0)) rel [] (some rc) none
    ∧ goes (.bgez t rc disp) (decide (0 ≤ c.toInt)) rel [] (some rc) none
    ∧ goes (.bra t disp) true rel [] none none
    ∧ goes (.bal t rc disp) true rel link none none
    ∧ goes (.ja t ab) true abs [] none (some ab)
    ∧ goes (.jal t rc ab) true abs link none (some ab)

/-- R327, R334: NOP does nothing; MFS reads a system register that the ring allows; MTS writes one, or TS three instructions
later (R301). R290: one that the ring does not allow, or that makes the ring more privileged or changes GM from ring 2 or 3,
takes XCAUSE 0x02, and a reserved bit of TS takes XCAUSE 0x01; nothing is written. -/
def Obligations.SystemRegistersMoveUnderGuard : Prop :=
  (∀ (s : State) (t : ThreadId) (rd ra : BitVec 5) (s8 : BitVec 8),
    let th := s.thread t
    let v := th.d ra
    let ring := tsRing th.r.ts
    (s.Issues t (.nop t) → Runs (.nop t) s t s [] 0 none)
    ∧ (s.Issues t (.mfs t rd s8) → (s8 = 0 ∨ s8 = 8 ∨ ring ≤ 1) →
      Runs (.mfs t rd s8) s t s [writeD 0 rd (readSys t th.r s8)] 0 none)
    ∧ (s.Issues t (.mts t ra 0) → tsReserved v = false → tsRmReserved v = false → ring ≤ tsRing v →
      (ring ≤ 1 ∨ tsGM v = tsGM th.r.ts) →
      Runs (.mts t ra 0) s t s [⟨2, .ts, v.setWidth 128⟩] 0 none)
    ∧ (s.Issues t (.mts t ra s8) → s8 ≠ 0 → v.toNat < 2 ^ sysWidth s8 → ring ≤ mtsRing s8 →
      Runs (.mts t ra s8) s t (s.setThread t { th with r := th.r.writeSys s8 v }) [] 0 none))
  ∧ (∀ (s : State) (t : ThreadId) (rd ra : BitVec 5) (s8 : BitVec 8),
    let th := s.thread t
    let v := th.d ra
    let ring := tsRing th.r.ts
    let takes (i : Instr) (e : Exc) : Prop := s.Issues t i → tsGM th.r.ts = false → th.slot = none →
      ∃ s', exec i s = .next s' ∧ s.TookException s' t e th.pc false
    ((s8 ≠ 0 ∧ s8 ≠ 8 ∧ 2 ≤ ring) → takes (.mfs t rd s8) ⟨0x02, 3 + 256 * s8.toNat, 0⟩)
    ∧ ((s8 ≠ 0 ∧ v.toNat < 2 ^ sysWidth s8 ∧ mtsRing s8 < ring) → takes (.mts t ra s8) ⟨0x02, 3 + 256 * s8.toNat, 0⟩)
    ∧ ((tsReserved v = true ∨ tsRmReserved v = true) → takes (.mts t ra 0) ⟨0x01, wordOf (.mts t ra 0), 0⟩)
    ∧ ((tsReserved v = false ∧ tsRmReserved v = false ∧ tsRing v < ring) → takes (.mts t ra 0) ⟨0x02, 1, 0⟩)
    ∧ ((tsReserved v = false ∧ tsRmReserved v = false ∧ ring ≤ tsRing v ∧ 2 ≤ ring ∧ tsGM v ≠ tsGM th.r.ts) →
      takes (.mts t ra 0) ⟨0x02, 2, 0⟩))

/-! ### Loads, stores and waiting (R295 to R299, R322 to R332) -/

/-- R292, R295, R322, R323: LD and LDS of the thread's own ledge complete with the bytes at EA, buffered stores
applied, one instruction later, or two when the access is not aligned; of an undisturbed ledge with an empty
store buffer they are the stored bytes, and nothing else changes. Where the spec leaves a choice, the clauses
follow the model's (log entries 21 and 24). -/
def Obligations.OwnLedgeLoadsReturnBytes : Prop :=
  ∀ (s : State) (t : ThreadId) (rt : BitVec 5) (ab : BitVec 4) (sz : BitVec 3) (disp : BitVec 14) (signed : Bool),
    let ea := ((s.thread t).base ab + disp.signExtend 48).toNat
    let n := if sz = 4 then 32 else 2 ^ sz.toNat
    let dist := if ea % n = 0 then 1 else 2
    let i : Instr := if signed then .lds t rt ab sz disp else .ld t rt ab sz disp
    s.Issues t i → s.dataFault t .read ea n = none → s.accClass t ea n = .own →
      Runs i s t (s.loadBytes t ea n).2 (loadWrites dist signed rt sz (s.loadBytes t ea n).1) 0 none
      ∧ ((s.thread t).stores = [] → (∀ w ∈ wordsOf ea n, s.flip w = 0) →
        Runs i s t s (loadWrites dist signed rt sz ((List.range n).map fun k => s.sramByte (ea + k))) 0 none)

/-- R275, R276, R278: at a fixed distance LD and LDS complete at once when no reservation is registered at the arbitration
point and it has granted none in the last two cycles, register a request otherwise, and wait while an earlier access to
another target is incomplete. -/
def Obligations.FixedDistanceLoadsReserve : Prop :=
  ∀ (s : State) (t : ThreadId) (rt : BitVec 5) (ab : BitVec 4) (sz : BitVec 3) (disp : BitVec 14) (signed : Bool)
      (pt : ArbPoint) (dist : Nat),
    let ea := ((s.thread t).base ab + disp.signExtend 48).toNat
    let n := szBytes sz
    let i : Instr := if signed then .lds t rt ab sz disp else .ld t rt ab sz disp
    let taken := s.noteGranted pt (ridgeOf t)
    s.Issues t i → s.dataFault t .read ea n = none → s.accClass t ea n = .fixed pt dist →
      (s.orderHeld t ea = true → exec i s = .next ((s.hold t i pt).countOf 0x04 0x10 0 32 1))
      ∧ (s.orderHeld t ea = false → s.sheeted (.core t) = false → (pt ∈ s.matrix.granted ∨ ∃ r ∈ s.matrix.requests, r.2 = pt) →
        exec i s = .next ((s.hold t i pt).register t pt))
      ∧ (s.orderHeld t ea = false → s.sheeted (.core t) = false → pt ∉ s.matrix.granted → (∀ r ∈ s.matrix.requests, r.2 ≠ pt) →
        Runs i s t (taken.loadBytes t ea n).2 (loadWrites dist signed rt sz (taken.loadBytes t ea n).1) 0 none)

/-- R295, R279, R297: a load that goes through the matrix parks the thread and enters the matrix, unless it waits for
buffered stores. LOAD_DATA_RETURN completes it once every byte has come back, with the stores buffered at its issue
applied; data of an undisturbed ledge that no grant has served yet are its stored bytes. Where the spec leaves a choice,
the clauses follow the model's (log entry 58). -/
def Obligations.MatrixLoadsParkUntilData : Prop :=
  ∀ (s : State) (t : ThreadId) (rt : BitVec 5) (ab : BitVec 4) (sz : BitVec 3) (disp : BitVec 14) (signed : Bool) (addr : Addr)
      (fwd : List StoreEntry) (got : List (Nat × Byte)) (bs : List Byte) (x : Txn) (g : RidgeId) (off : Nat),
    let th := s.thread t
    let n := szBytes sz
    let a := addr.toNat
    let ea := th.base ab + disp.signExtend 48
    let i : Instr := if signed then .lds t rt ab sz disp else .ld t rt ab sz disp
    let parked := s.setThread t { th with st := .parked, park := some (.load ea signed rt sz th.stores []), held := none }
    let stored := (List.range n).map fun k => s.sramByte (a + k)
    (s.Issues t i → s.dataFault t .read ea.toNat n = none → s.accClass t ea.toNat n = .parks →
      (s.waitsForStores t ea.toNat = false →
        exec i s = .next (parked.enterAccess (.core t) (coreId t) 0 none ea (.read n)))
      ∧ (s.waitsForStores t ea.toNat = true → exec i s = .next parked))
    ∧ (th.st = .parked → th.park = some (.load addr signed rt sz fwd got) → s.sheeted (.core t) = false →
      s.matrix.waiting = [] → s.loadPieces t = [] → bs.length = n →
      (∀ k, k < n → (got.find? fun c => c.1 == a + k) = some (a + k, nth 0 bs k)) →
      Runs (.loadDataReturn t) s t s (loadWrites 0 signed rt sz (forward a fwd bs)) 0 none)
    ∧ (th.st = .parked → th.park = some (.load addr signed rt sz [] []) → s.sheeted (.core t) = false →
      s.matrix.waiting = [] → s.matrix.flight = [x] → x.m = .core t → x.addr = addr → x.acc = .read n → x.covered = false →
      x.aux = none → s.region a = .ledge g off → (∀ w ∈ wordsOf a n, s.flip w = 0) →
      Runs (.loadDataReturn t) s t { s with matrix := { s.matrix with flight := [] }, readData := stored }
        (loadWrites 0 signed rt sz stored) 0 none)

/-- R296, R330: ST and SEV take an entry of the store buffer and complete when one of the four is free, at a fixed distance
after a reservation; when none is free the slot stays a bubble. -/
def Obligations.StoresEnterTheBuffer : Prop :=
  ∀ (s : State) (t : ThreadId) (rt ra : BitVec 5) (ab : BitVec 4) (sz : BitVec 3) (disp : BitVec 14) (ev : BitVec 8),
    let th := s.thread t
    let ea := th.base ab + disp.signExtend 48
    let bytes := th.storeBytes rt sz
    let bell : Addr := BitVec.ofNat 48 (mbxBase + 0x41000 + 8 * (th.d ra).toNat)
    let evBytes := leBytes 8 ev.toNat
    (s.Issues t (.st t rt ab sz disp) → s.dataFault t .write ea.toNat bytes.length = none →
      ((∀ pt d, s.accClass t ea.toNat bytes.length ≠ .fixed pt d) → s.storeSlots t < 4 →
        Runs (.st t rt ab sz disp) s t (s.bufferStore t ea bytes) [] 0 none)
      ∧ (∀ pt d, s.accClass t ea.toNat bytes.length = .fixed pt d → s.storeSlots t < 4 → s.orderHeld t ea.toNat = false →
        s.sheeted (.core t) = false → pt ∉ s.matrix.granted → (∀ r ∈ s.matrix.requests, r.2 ≠ pt) →
        Runs (.st t rt ab sz disp) s t ((s.noteGranted pt (ridgeOf t)).bufferStore t ea bytes) [] 0 none)
      ∧ (4 ≤ s.storeSlots t → exec (.st t rt ab sz disp) s = .next s))
    ∧ (s.Issues t (.sev t ra ev) → (th.d ra).toNat ≤ 0x100 → s.dataFault t .write bell.toNat 8 = none →
      s.storeSlots t < 4 →
      (∀ pt d, s.accClass t bell.toNat 8 = .fixed pt d → s.orderHeld t bell.toNat = false → s.sheeted (.core t) = false →
        pt ∉ s.matrix.granted → (∀ r ∈ s.matrix.requests, r.2 ≠ pt) →
        Runs (.sev t ra ev) s t ((s.noteGranted pt (ridgeOf t)).bufferStore t bell evBytes) [] 0 none)
      ∧ ((∀ pt d, s.accClass t bell.toNat 8 ≠ .fixed pt d) →
        Runs (.sev t ra ev) s t (s.bufferStore t bell evBytes) [] 0 none))

/-- R296: STORE_BUFFER_RELEASE writes the oldest buffered store: over a ledge whose words are undisturbed, its bytes
read as stored and every other byte of memory, every register and every other thread as before. Where the spec
leaves a choice, the clauses follow the model's (log entry 24). -/
def Obligations.ReleasedStoreWritesItsBytesOnly : Prop :=
  ∀ (s : State) (t : ThreadId) (e : StoreEntry) (rest : List StoreEntry),
    let a := e.addr.toNat
    let n := e.bytes.length
    (s.thread t).stores = e :: rest → s.accClass t a n ≠ .parks → (∃ g off, s.region a = .ledge g off) →
    a + n ≤ scaffoldBase → (∀ w ∈ wordsOf a n, s.flip w = 0) →
      ∃ s', exec (.storeBufferRelease t) s = .next s'
        ∧ (∀ k, k < n → s'.sramByte (a + k) = nth 0 e.bytes k)
        ∧ (∀ b, b < a ∨ a + n ≤ b → s'.sramByte b = s.sramByte b)
        ∧ s'.thread t = { s.thread t with stores := rest }
        ∧ (∀ u, u ≠ t → s'.thread u = s.thread u)
        ∧ s'.regs = s.regs ∧ s'.dram = s.dram ∧ s'.ridges = s.ridges ∧ s'.matrix = s.matrix ∧ s'.cairn = s.cairn

/-- R276: RESERVATION_GRANT takes the request first in the round behind the ridge granted last and issues the instruction
that waited for it; with no request the point may grant at once again. -/
def Obligations.GrantIssuesTheWaitingInstruction : Prop :=
  ∀ (s : State) (pt : ArbPoint) (t : ThreadId) (h : HeldAccess),
    let r := s.registerHeld pt
    let g := ((r.unregister t).noteGranted pt (ridgeOf t)).setThread t { r.thread t with held := none }
    (r.nextReservation pt = some t → (r.thread t).held = some h →
      exec (.reservationGrant pt) s = .next (g.issue t h.i (grantedAct t h.i)))
    ∧ (r.nextReservation pt = some t → (∃ x ∈ r.matrix.requests, x = (t, pt))
      ∧ ∀ x ∈ r.matrix.requests, x.2 = pt →
        ((ridgeOf t).val + 31 - r.lastGranted pt % 32) % 32 ≤ ((ridgeOf x.1).val + 31 - r.lastGranted pt % 32) % 32)
    ∧ (r.nextReservation pt = none → exec (.reservationGrant pt) s
      = .next { r with matrix := { r.matrix with granted := r.matrix.granted.filter fun p => p != pt } })

/-- R328, R329: WFE completes with the lowest pending event that its mask selects, which it takes, and WTU with all ones
once the crossing counter has reached its limit, before any event; both park when nothing is ready, and WFE_WAKE
and WTU_WAKE complete the parked instruction in the same way. -/
def Obligations.WaitsTakeTheLowestEvent : Prop :=
  ∀ (s : State) (t : ThreadId) (rd ra : BitVec 5) (vm : BitVec 3) (mask : BitVec 256) (limit : Word) (e : Nat),
    let th := s.thread t
    let lowest (m : BitVec 256) : Prop := e < 256 ∧ (s.eventsOf t &&& m).getLsbD e = true
      ∧ ∀ k, k < e → (s.eventsOf t &&& m).getLsbD k = false
    let event (i : Instr) : Prop := Runs i s t (s.dropEvent t e) [writeD 0 rd (BitVec.ofNat 64 e)] 0 none
    let parked (p : Park) : State := s.setThread t { th with st := .parked, park := some p }
    (s.Issues t (.wfe t rd vm) → lowest (th.v vm) → event (.wfe t rd vm))
    ∧ (s.Issues t (.wfe t rd vm) → s.eventsOf t &&& th.v vm = 0 →
      exec (.wfe t rd vm) s = .next (parked (.wfe rd (th.v vm))))
    ∧ (s.Issues t (.wtu t rd ra vm) → (th.d ra).toNat ≤ s.bxc →
      Runs (.wtu t rd ra vm) s t s [writeD 0 rd (BitVec.allOnes 64)] 0 none)
    ∧ (s.Issues t (.wtu t rd ra vm) → s.bxc < (th.d ra).toNat → lowest (th.v vm) → event (.wtu t rd ra vm))
    ∧ (s.Issues t (.wtu t rd ra vm) → s.bxc < (th.d ra).toNat → s.eventsOf t &&& th.v vm = 0 →
      exec (.wtu t rd ra vm) s = .next (parked (.wtu rd (th.d ra) (th.v vm))))
    ∧ (th.st = .parked → th.park = some (.wfe rd mask) → lowest mask → event (.wfeWake t))
    ∧ (th.st = .parked → th.park = some (.wtu rd limit mask) → limit.toNat ≤ s.bxc →
      Runs (.wtuWake t) s t s [writeD 0 rd (BitVec.allOnes 64)] 0 none)
    ∧ (th.st = .parked → th.park = some (.wtu rd limit mask) → s.bxc < limit.toNat → lowest mask → event (.wtuWake t))

/-- R332: FENCE completes when the thread's store buffer is empty and no write of it is in the matrix, and parks otherwise;
FENCE_COMPLETE completes it once that holds. -/
def Obligations.FenceWaitsForStores : Prop :=
  ∀ (s : State) (t : ThreadId),
    let th := s.thread t
    let done : Prop := th.stores = [] ∧ ∀ x ∈ s.matrix.waiting ++ s.matrix.flight, x.m = .core t → x.aux = none → x.isRead = true
    (s.Issues t (.fence t) → done → Runs (.fence t) s t s [] 0 none)
    ∧ (s.Issues t (.fence t) → ¬done →
      exec (.fence t) s = .next (s.setThread t { th with st := .parked, park := some .fence }))
    ∧ (th.st = .parked → th.park = some .fence → done → Runs (.fenceComplete t) s t s [] 0 none)
    ∧ (th.st = .parked → th.park = some .fence → ¬done → exec (.fenceComplete t) s = .next s)

/-! ### Exceptions and routines (R197, R208 to R211, R339 to R351) -/

/-- R308, R342, R343, R345: a thread that issues an illegal word takes XCAUSE 0x01 with the word in XINFO, and in a delay
slot XPC is the branch and DS is set; with GM = 1 the thread halts and posts event 0x80 + r to the SMC (R350, R351).
R286, R344: a thread whose PC is not in its own ledge, or not executable at its ring, takes XCAUSE 0x03 with access type
execute, and the instruction has no effect. -/
def Obligations.IllegalWordsAndFetchFaultsTrap : Prop :=
  (∀ (s : State) (t : ThreadId) (word : BitVec 32),
    let th := s.thread t
    decode t word = none → th.canIssue = true → s.fetchFault t = none → word ≠ BitVec.allOnes 32 →
      (tsGM th.r.ts = false → th.slot = none →
        ∃ s', exec (.illegalInstruction t word) s = .next s' ∧ s.TookException s' t ⟨0x01, word.toNat, 0⟩ th.pc false)
      ∧ (∀ sl, tsGM th.r.ts = false → th.slot = some sl →
        ∃ s', exec (.illegalInstruction t word) s = .next s' ∧ s.TookException s' t ⟨0x01, word.toNat, 0⟩ sl.branch true)
      ∧ (tsGM th.r.ts = true → isSmcThread t = false →
        ∃ s', exec (.illegalInstruction t word) s = .next s' ∧ (s'.thread t).st = .halted
          ∧ (s'.thread t).r.xcause = 0x08 ∧ (s'.thread t).r.xinfo = 0x01 ∧ (s'.thread t).pc = th.pc
          ∧ (s'.thread t).r.xpc = th.r.xpc ∧ (s'.thread t).r.xts = th.r.xts
          ∧ s'.smc.events.getLsbD (0x80 + (ridgeOf t).val) = true))
  ∧ (∀ (s : State) (t : ThreadId) (e : Exc) (i : Instr) (act : State → Thread → Act),
    (s.thread t).canIssue = true → s.fetchFault t = some e → tsGM (s.thread t).r.ts = false → (s.thread t).slot = none →
      e.cause = 0x03 ∧ e.info = 3 ∧ s.TookException (s.issue t i act) t e (s.thread t).pc false)

/-- R308, R342, R343, R345: ILLEGAL_INSTRUCTION completes by taking XCAUSE 0x01 with the word in XINFO, for every word that is
illegal by its own bits and from every place, a delay slot among them; 0xFFFF_FFFF read from an uncorrectable word is
counted and raises the machine check of R286 before it. -/
def Obligations.IllegalInstructionTakesException : Prop :=
  ∀ (s : State) (t : ThreadId) (word : BitVec 32),
    let th := s.thread t
    let w := th.pc.toNat / 8 * 8
    let failed : Prop := word = BitVec.allOnes 32 ∧ isSmcThread t = false ∧ s.wordClass w = .uncorrectable
    let takes (s1 : State) : Prop :=
      (th.slot = none → ∃ s', exec (.illegalInstruction t word) s = .next s'
        ∧ s1.TookException s' t ⟨0x01, word.toNat, 0⟩ th.pc false)
      ∧ (∀ sl, th.slot = some sl → ∃ s', exec (.illegalInstruction t word) s = .next s'
        ∧ s1.TookException s' t ⟨0x01, word.toNat, 0⟩ sl.branch true)
    decode t word = none → th.canIssue = true → s.fetchFault t = none → tsGM th.r.ts = false →
      (¬failed → takes s) ∧ (failed → takes (s.readWordEffects (.thread t) w))

/-- R181, R182: an instruction that raises a flag whose trap is enabled takes XCAUSE 0x07 with the flags in XINFO and leaves
no result; shown for the saturating ADD. -/
def Obligations.EnabledFlagTraps : Prop :=
  ∀ (s : State) (t : ThreadId) (w : BitVec 2) (u : Bool) (rd ra rb : BitVec 5),
    let f := reducedFlags true u (wBits w) (operand u (wBits w) ((s.thread t).d ra) + operand u (wBits w) ((s.thread t).d rb))
    s.Issues t (.add t w true u rd ra rb) → traps (s.thread t).r.ts f = true → tsGM (s.thread t).r.ts = false →
    (s.thread t).slot = none →
      ∃ s', exec (.add t w true u rd ra rb) s = .next s'
        ∧ s.TookException s' t ⟨0x07, f.toNat, 0⟩ (s.thread t).pc false

/-- R348, R349: at a boundary with GM = 0 a thread takes a machine check before the watchdog warning and that before
the lowest enabled event that its WFE or WTU does not itself await; each is taken once, and XPC is the instruction that issues next or the WFE or WTU
abandoned. Where the spec leaves a choice, the clauses follow the model's (log entry 32). -/
def Obligations.AsyncSourcesInOrder : Prop :=
  ∀ (s : State) (t : ThreadId) (mc : MCheck) (rest : List MCheck) (e : Nat),
    let th := s.thread t
    let without (x : Thread) (ex : Exc) : Prop := ∃ s', exec (.asyncException t) s = .next s'
      ∧ (s.setThread t x).TookException s' t ex th.pc false
    th.samples = true → isSmcThread t = false →
      (th.mchecks = mc :: rest → without { th with mchecks := rest } ⟨0x20, mc.info.toNat, mc.addr.toNat⟩)
      ∧ (th.mchecks = [] → th.warnPending = true → without { th with warnPending := false } ⟨0x10, 0x100, 0⟩)
      ∧ (th.mchecks = [] → th.warnPending = false → lowestEvent (s.eventsOf t &&& (s.enables t &&& ~~~th.awaited)) = some e →
        without { th with events := clearEvent th.events e } ⟨0x10, e, 0⟩)

/-- R197, R208: a microword of a routine that is not the last advances it by one; the last of a result or a divide writes
the result with its flags, and the remainder beside the quotient. -/
def Obligations.RoutineEndsWithItsResult : Prop :=
  ∀ (s : State) (t : ThreadId) (rt : Routine) (rd : BitVec 5) (v r : Word) (f : Flags) (len : Nat),
    let th := s.thread t
    let idle := s.setThread t { th with routine := none }
    let last (k : RoutineKind) : Prop := th.routine = some rt ∧ rt.kind = k ∧ rt.done = len - 1
    (th.routine = some rt → rt.done + 1 < rt.kind.len → th.mchecks = [] → (isSmcThread t = true → s.smc.mchecks = []) →
      (∀ rd q rem f n, rt.kind ≠ .divide rd q rem f n) →
      ∃ next : Routine, next.kind = rt.kind ∧ next.done = rt.done + 1
        ∧ exec (.coreRoutineStep t none) s = .next (s.setThread t { th with routine := some next }))
    ∧ (last (.result rd v f len) → s.NoTrap t f →
      Runs (.coreRoutineStep t none) s t idle [writeD 0 rd v] f none)
    ∧ (last (.divide rd v none f len) → s.NoTrap t f →
      Runs (.coreRoutineStep t none) s t idle [writeD 0 rd v] f none)
    ∧ (last (.divide rd v (some r) f len) → s.NoTrap t f →
      Runs (.coreRoutineStep t none) s t idle [writeD 0 rd v, writeD 0 (rd + 1) r] f none)

/-- R339 to R341, R208: CALLG of a valid entry that the ring may call starts a routine of four microwords, and its last one
enters the gate: the PC at TARGET, TS.RING the entry's TRING and GM = 1, XPC the next instruction and XTS the old TS with
DS = 0. -/
def Obligations.GateCallEntersTarget : Prop :=
  ∀ (s : State) (t : ThreadId) (gate : BitVec 8) (target : Addr) (tring : BitVec 2) (rt : Routine),
    let th := s.thread t
    let addr := (th.r.gtb.toNat + 8 * gate.toNat) % 2 ^ 48
    let entry := leNat (s.sramBytes addr 8)
    (s.Issues t (.callg t gate) → th.r.gtb.toNat % 8 = 0 → s.gateEntryOk t addr = true → s.flip addr = 0 →
      bitOf entry 63 = true → field entry 52 11 = 0 → tsRing th.r.ts ≤ field entry 50 2 → field entry 48 2 ≤ tsRing th.r.ts →
      s.gateTargetOk t (field entry 0 48) (field entry 48 2) = true →
      exec (.callg t gate) s = .next (s.setThread t
        { th with routine := some ⟨.gate (BitVec.ofNat 48 (field entry 0 48)) (BitVec.ofNat 2 (field entry 48 2)), 0, 0, 0, 0, 0⟩ }))
    ∧ (th.routine = some rt → rt.kind = .gate target tring → rt.done = 3 → th.pend = [] →
      ∃ s', exec (.coreRoutineStep t none) s = .next s' ∧ s' = s.setThread t (s'.thread t)
        ∧ (s'.thread t).pc = target ∧ tsRing (s'.thread t).r.ts = tring.toNat ∧ tsGM (s'.thread t).r.ts = true
        ∧ tsFlg (s'.thread t).r.ts = tsFlg th.r.ts ∧ tsTen (s'.thread t).r.ts = tsTen th.r.ts
        ∧ (s'.thread t).r.xpc = (th.pc + 4).setWidth 64
        ∧ (∀ n, n < 64 → (s'.thread t).r.xts.getLsbD n = (n != 3 && th.r.ts.getLsbD n))
        ∧ (s'.thread t).r.d = th.r.d ∧ (s'.thread t).routine = none ∧ (s'.thread t).st = .running)

/-- R347: RETX with a legal XTS that does not raise the privilege starts a routine of two microwords; the second restores
RING, GM, RM and TEN from XTS, ORs FLG, and goes on at XPC with its two lowest bits zero. -/
def Obligations.RetxRestoresSavedState : Prop :=
  ∀ (s : State) (t : ThreadId) (rt : Routine),
    let th := s.thread t
    (s.Issues t (.retx t) → retxCheck (th.r.flush th.pend) = .ok →
      exec (.retx t) s = .next (s.setThread t { th with routine := some ⟨.retx, 0, 0, 0, 0, 0⟩ }))
    ∧ (s.Issues t (.retx t) → retxCheck (th.r.flush th.pend) = .privilege → tsGM th.r.ts = false → th.slot = none →
      ∃ s', exec (.retx t) s = .next s'
        ∧ s.TookException s' t ⟨0x05, tsRing (th.r.flush th.pend).xts, 0⟩ th.pc false)
    ∧ (th.routine = some rt → rt.kind = .retx → rt.done = 1 → th.pend = [] →
      ∃ s', exec (.coreRoutineStep t none) s = .next s' ∧ s' = s.setThread t (s'.thread t)
        ∧ (s'.thread t).pc.toNat = th.r.xpc.toNat / 4 * 4 % 2 ^ 48
        ∧ tsRing (s'.thread t).r.ts = tsRing th.r.xts ∧ tsGM (s'.thread t).r.ts = tsGM th.r.xts
        ∧ tsRM (s'.thread t).r.ts = tsRM th.r.xts ∧ tsTen (s'.thread t).r.ts = tsTen th.r.xts
        ∧ tsFlg (s'.thread t).r.ts = tsFlg th.r.xts ||| tsFlg th.r.ts
        ∧ (s'.thread t).r.d = th.r.d ∧ (s'.thread t).r.xts = th.r.xts ∧ (s'.thread t).r.xpc = th.r.xpc
        ∧ (s'.thread t).routine = none)

/-! ### Thread control (R303, R304, R353, R445) -/

/-- R303, R304: THREAD_RESET puts a thread into the reset state with its registers at their reset values, and THREAD_START
runs a thread in the reset state at an aligned PC when its ridge runs.
R353: WATCHDOG_KICK loads the period and reloads the count at 1,024 steps a unit; the first expiry warns the thread and
reloads, and a second without a kick halts it with XCAUSE 0x08. -/
def Obligations.ThreadsStartResetAndAreWatched : Prop :=
  (∀ (s : State) (g : RidgeId) (n : Fin 8) (pc : BitVec 48),
    let t := threadOf g n
    s.dieOn = true → pc.toNat % 4 = 0 →
      (∃ s', exec (.threadReset g n pc false) s = .next s' ∧ (s'.thread t).st = .reset ∧ (s'.thread t).pc = pc
        ∧ (s'.thread t).r = CoreRegs.reset ∧ (s'.thread t).stores = [] ∧ (s'.thread t).pend = []
        ∧ (s'.thread t).events = 0 ∧ (s'.thread t).dq = [] ∧ (s'.thread t).seqNo = 0
        ∧ ((∀ m ∈ (s.ridge g).streams, m.th = n → m.chid = none) →
          (∀ u, u ≠ t → s'.thread u = s.thread u) ∧ s'.sram.mem = s.sram.mem ∧ s'.dram = s.dram))
      ∧ ((s.thread t).st = .reset → s.ridgeRuns g = true →
        exec (.threadStart g n pc) s = .next (s.setThread t { s.thread t with pc := pc, st := .running })))
  ∧ (∀ (s : State) (g : RidgeId) (n : Fin 8) (period : BitVec 32),
    let t := threadOf g n
    let off := 0x1640 + 8 * n.val
    let p := s.fieldOf (rgBlk g) off 0 32
    (s.dieOn = true → ∃ s', exec (.watchdogKick g n period) s = .next s'
      ∧ s'.fieldOf (rgBlk g) off 0 32 = period.toNat ∧ s'.flagOf (rgBlk g) off 33 = false
      ∧ (s'.thread t) = { s.thread t with wdCount := 1024 * period.toNat } ∧ s'.sram = s.sram ∧ s'.dram = s.dram)
    ∧ (p ≠ 0 → ((s.thread t).st = .running ∨ (s.thread t).st = .parked) → s.flagOf (rgBlk g) off 33 = false →
      ∃ s', exec (.watchdogExpiry g n) s = .next s'
        ∧ s'.thread t = { s.thread t with warnPending := true, wdCount := 1024 * p }
        ∧ s'.flagOf (rgBlk g) off 33 = true ∧ s'.fieldOf (rgBlk g) off 0 32 = p)
    ∧ (p ≠ 0 → ((s.thread t).st = .running ∨ (s.thread t).st = .parked) → s.flagOf (rgBlk g) off 33 = true →
      ∃ s', exec (.watchdogExpiry g n) s = .next s' ∧ (s'.thread t).st = .halted ∧ (s'.thread t).r.xcause = 0x08
        ∧ (s'.thread t).r.xinfo = 0x10000 ∧ s'.smc.events.getLsbD (0x80 + g.val) = true))

/-- R445: DEBUG_HALT halts a running or parked thread where the life-cycle state allows it, with pending writes in effect
and the exception registers as they were; elsewhere nothing happens. -/
def Obligations.DebugHaltKeepsExceptionRegisters : Prop :=
  ∀ (s : State) (t : ThreadId),
    let th := s.thread t
    (s.mayDebug t = true → (th.st = .running ∨ th.st = .parked) → ∃ s', exec (.debugHalt t) s = .next s'
      ∧ (s'.thread t).st = .halted ∧ (s'.thread t).pc = th.pc ∧ (s'.thread t).r.xcause = th.r.xcause
      ∧ (s'.thread t).r.xinfo = th.r.xinfo ∧ (s'.thread t).r.xaddr = th.r.xaddr ∧ (s'.thread t).r.xpc = th.r.xpc
      ∧ (s'.thread t).r.d = (th.r.flush th.pend).d ∧ s'.sram.mem = s.sram.mem ∧ s'.regs = s.regs)
    ∧ (s.mayDebug t = false → exec (.debugHalt t) s = .next s)

/-! ### On-die memories (R240 to R265) -/

/-- R243, R244, R257 to R261: an undisturbed access of a ledge, the mailbox data or the channel table returns the stored
bytes and changes no memory and no register, or stores its bytes and no others.
R253: over an undisturbed word an alias write sets (or clears) exactly the bits of its value and keeps every other bit
of memory. -/
def Obligations.MemoryAndAliasAccessesTouchTheirBytes : Prop :=
  (∀ (s : State) (m : Master) (addr : BitVec 48) (n : Nat) (bs : List Byte) (c : Fin 2097152),
    let a := addr.toNat
    let reads (i : Instr) (a n : Nat) : Prop := ∃ s', exec i s = .next s'
      ∧ s'.readData = (List.range n).map (fun k => s.sramByte (a + k))
      ∧ s'.sram.mem = s.sram.mem ∧ s'.sram.tags = s.sram.tags ∧ s'.regs = s.regs ∧ s'.threads = s.threads ∧ s'.dram = s.dram
    let stores (i : Instr) : Prop := ∃ s', exec i s = .next s'
      ∧ (∀ k, k < bs.length → s'.sramByte (a + k) = nth 0 bs k)
      ∧ (∀ b, b < a ∨ a + bs.length ≤ b → s'.sramByte b = s.sramByte b)
      ∧ s'.regs = s.regs ∧ s'.threads = s.threads ∧ s'.dram = s.dram ∧ s'.readData = s.readData
    let clean (a n : Nat) : Prop := ∀ w ∈ wordsOf a n, s.flip w = 0
    s.dieOn = true →
      (s.allReach m a n inLedge = true → clean a n → reads (.ledgeAccess m addr (.read n) 0) a n)
      ∧ (s.allReach m a bs.length inLedge = true → clean a bs.length → stores (.ledgeAccess m addr (.write bs) 0))
      ∧ (s.allReach m a n inMailbox = true → clean a n → reads (.mailboxDataAccess m addr (.read n) 0) a n)
      ∧ (s.allReach m a bs.length inMailbox = true → clean a bs.length → stores (.mailboxDataAccess m addr (.write bs) 0))
      ∧ (s.allReach m (ctBase + 8 * c.val) 8 inChannelTable = true → clean (ctBase + 8 * c.val) 8 →
        reads (.channelTableLookup m c 0) (ctBase + 8 * c.val) 8)
      ∧ (s.allReach m a bs.length inChannelTable = true → clean a bs.length → stores (.channelTableWrite m addr bs)))
  ∧ (∀ (s : State) (m : Master) (a : Nat) (bs : List Byte),
    let set : BitVec 48 := BitVec.ofNat 48 (a + aliasSet)
    let clear : BitVec 48 := BitVec.ofNat 48 (a + aliasClear)
    let rest (s' : State) : Prop := (∀ b, b < a ∨ a + bs.length ≤ b → s'.sramByte b = s.sramByte b)
      ∧ s'.regs = s.regs ∧ s'.threads = s.threads ∧ s'.dram = s.dram
    a < aliasSet → s.dieOn = true → (∀ w ∈ wordsOf a bs.length, s.flip w = 0) →
      (aliasShape (a + aliasSet) bs.length = true → s.allReach m (a + aliasSet) bs.length inAlias = true →
        ∃ s', exec (.aliasOperation m set bs) s = .next s'
          ∧ (∀ k, k < bs.length → s'.sramByte (a + k) = s.sramByte (a + k) ||| nth 0 bs k) ∧ rest s')
      ∧ (aliasShape (a + aliasClear) bs.length = true → s.allReach m (a + aliasClear) bs.length inAlias = true →
        ∃ s', exec (.aliasOperation m clear bs) s = .next s'
          ∧ (∀ k, k < bs.length → s'.sramByte (a + k) = s.sramByte (a + k) &&& ~~~(nth 0 bs k)) ∧ rest s'))

/-- R224, R244: a ledge word found with one disturbed bit reads corrected, counts in LD_ECC and waits for
write-back, which restores it; one found with two disturbed bits reads as 0xFF throughout, counts apart, records
its offset and raises SOURCE 0x10 at a thread of the ridge. Where the spec leaves a choice, the clauses follow
the model's (log entries 13 and 57). -/
def Obligations.LedgeErrorsAreCorrectedOrReported : Prop :=
  ∀ (s : State) (t : ThreadId) (g : RidgeId) (off j k : Nat) (addr : BitVec 48),
    let w := addr.toNat
    let read (u : BitVec 72) : Instr := .ledgeAccess (.core t) addr (.read 8) u
    let bit (i : Nat) : BitVec 72 := BitVec.ofNat 72 (2 ^ i)
    s.dieOn = true → w % 8 = 0 → s.allReach (.core t) w 8 inLedge = true → s.baseRegion w = .ledge g off → s.flip w = 0 →
    ridgeOf t = g → isSmcThread t = false → k < 72 →
      (∃ s', exec (read (bit k)) s = .next s' ∧ s'.readData = s.sramBytes w 8
        ∧ s'.fieldOf (rgBlk g) 0x1410 0 16 = satAdd 16 (s.fieldOf (rgBlk g) 0x1410 0 16) 1
        ∧ w ∈ s'.sram.writeback ∧ s'.sram.mem = s.sram.mem ∧ s'.flip w = bit k
        ∧ ∃ s2, exec (.eccWriteback addr) s' = .next s2 ∧ s2.flip w = 0 ∧ s2.sramBytes w 8 = s.sramBytes w 8
          ∧ w ∉ s2.sram.writeback)
      ∧ (j < k → ∃ s', exec (read (bit j ||| bit k)) s = .next s' ∧ s'.readData = List.replicate 8 0xFF
        ∧ s'.fieldOf (rgBlk g) 0x1410 16 16 = satAdd 16 (s.fieldOf (rgBlk g) 0x1410 16 16) 1
        ∧ s'.fieldOf (rgBlk g) 0x1410 32 22 = off
        ∧ (s'.thread t).mchecks = (s.thread t).mchecks ++ [⟨0x10, addr⟩] ∧ s'.sram.mem = s.sram.mem)

/-- R254: retention is entered only by an idle ridge, whose domain goes to CODE 0; an enter refused sets CFGERR and
leaves RET; a wake starts the domain at VCORE_SAFE with WAKING set until WAKE_COMPLETE; the ledge keeps its
contents. Where the spec leaves a choice, the clauses follow the model's (log entry 18). -/
def Obligations.RetentionIsEnteredByIdleRidges : Prop :=
  ∀ (s : State) (g : RidgeId) (st : SiteId),
    let b := rgBlk g
    let dom := 0x100 + 8 * st.val
    s.inRun = true → s.siteOf g = some st →
      (s.flagOf b 0x1408 0 = false → s.ridgeIdle g = true → ∃ s', exec (.retentionEnter g) s = .next s'
        ∧ s'.flagOf b 0x1408 0 = true ∧ s'.fieldOf 0x03 dom 0 7 = 0 ∧ s'.retained g = true ∧ s'.sram = s.sram)
      ∧ (s.flagOf b 0x1408 0 = false → s.ridgeIdle g = false → exec (.retentionEnter g) s = .next (s.cfgerr b))
      ∧ (s.flagOf b 0x1408 0 = true → ∃ s', exec (.retentionWake g) s = .next s'
        ∧ s'.flagOf b 0x1408 0 = false ∧ s'.flagOf b 0x1408 2 = true ∧ s'.fieldOf 0x03 dom 0 7 = 100 ∧ s'.sram = s.sram)
      ∧ (s.flagOf b 0x1408 2 = true → ∃ s', exec (.wakeComplete g) s = .next s'
        ∧ s'.flagOf b 0x1408 2 = false ∧ s'.flagOf b 0x1408 0 = s.flagOf b 0x1408 0 ∧ s'.sram = s.sram)

/-- R262: a doorbell write of a number below 256 sets that event and no other at its thread or the SMC, and one with higher
bits posts nothing and sets DBERR.
R263, R265: a free semaphore goes to the reader, with STATUS 2 once after a break; a held one stays and reads busy, or
already held; only the holder's write releases it, and any other sets SEMERR; a break served frees it and marks it,
whether it was on its way or forced through MBX_SEMFORCE. -/
def Obligations.DoorbellsAndSemaphores : Prop :=
  (∀ (s : State) (m : Master) (tag : Fin 257) (v : BitVec 64) (t : ThreadId),
    s.dieOn = true → mayRing m = true →
      (v.toNat < 256 → tag.val = t.val → (s.ridge (ridgeOf t)).offline = false → (s.ridge (ridgeOf t)).relath = false →
        (s.ridge (ridgeOf t)).draining = false →
        (s.ridge (ridgeOf t)).moving = false → s.retained (ridgeOf t) = false → isSmcThread t = false →
        ∃ s', exec (.doorbellWrite m tag v) s = .next s' ∧ s' = s.setThread t (s'.thread t)
          ∧ s'.thread t = { s.thread t with events := (s'.thread t).events }
          ∧ ∀ e, e < 256 → (s'.thread t).events.getLsbD e = (decide (e = v.toNat) || (s.thread t).events.getLsbD e))
      ∧ (v.toNat < 256 → tag = 256 → ∃ s', exec (.doorbellWrite m tag v) s = .next s'
        ∧ s' = { s with smc := { s.smc with events := s'.smc.events } }
        ∧ ∀ e, e < 256 → s'.smc.events.getLsbD e = (decide (e = v.toNat) || s.smc.events.getLsbD e))
      ∧ (256 ≤ v.toNat → ∃ s', exec (.doorbellWrite m tag v) s = .next s' ∧ s'.flagOf 0x06 0x08 2 = true
        ∧ s'.threads = s.threads ∧ s'.smc = s.smc))
  ∧ (∀ (s : State) (m : Master) (owner h : Fin 257) (n : Fin 256),
    let x := s.sem n
    let reads (v : Nat) (y : Sem) : Prop := exec (.semaphoreAcquire owner n) s
      = .next { s.setSem n y with readData := leBytes 8 v }
    s.dieOn = true → s.ownerCovered owner = false →
      (x.holder = none → reads ((if x.broken then 2 else 0) + owner.val * 256) ⟨some owner, false, x.breaking⟩)
      ∧ (x.holder = some h → reads ((if h = owner then 3 else 1) + h.val * 256) x)
      ∧ (x.holder = some owner → exec (.semaphoreRelease owner n) s = .next (s.setSem n ⟨none, x.broken, false⟩))
      ∧ (x.holder ≠ some owner → ∃ s', exec (.semaphoreRelease owner n) s = .next s' ∧ s'.flagOf 0x06 0x08 1 = true
        ∧ s'.sram = s.sram ∧ s'.threads = s.threads)
      ∧ (x.breaking = true → x.holder = some h → exec (.semaphoreBreak n) s = .next (s.setSem n ⟨none, true, false⟩))
      ∧ (x.breaking = true → x.holder = none → exec (.semaphoreBreak n) s = .next (s.setSem n ⟨none, x.broken, false⟩))
      ∧ (x.holder = some h → s.cfgReach m 0x06 = true →
        exec (.forcedBreak m n) s = .next (s.setSem n ⟨none, true, false⟩))
      ∧ (x.holder = none → s.cfgReach m 0x06 = true → exec (.forcedBreak m n) s = .next s))

/-! ### The stream matrix (R266 to R283) -/

/-- R226, R272, R278, R279: an access of one piece enters the matrix behind the transactions in flight when nothing holds
it, with its QoS stamped and, in a window of the deep store, what the window logic needs beside it; otherwise it waits
in its input queue, and a hold under R278 is counted. Where the spec leaves a choice, the
clauses follow the model's (log entries 58 and 66). -/
def Obligations.MatrixAccessesEnterOrWait : Prop :=
  ∀ (s : State) (m : Master) (id : BitVec 8) (qos : BitVec 4) (addr : BitVec 48) (n : Nat),
    let a := addr.toNat
    let x : Txn := ⟨m, requestId m id, qos, addr, .read n, false, s.requestSlot m qos, s.matrix.nextNo, addr, none, none⟩
    let held := s.txnHeld x (s.matrix.waiting ++ s.matrix.flight)
    let behind := s.matrix.waiting.any fun y => masterNo y.m == masterNo m && s.txnTarget y == s.txnTarget x
    let queued (s' : State) : Prop := s'.matrix.waiting = s.matrix.waiting ++ [x] ∧ s'.matrix.flight = s.matrix.flight
      ∧ s'.sram = s.sram ∧ s'.dram = s.dram
    let stamped : Txn := { x with qos := s.stampQos m qos }
    let free : Prop := held = false ∧ behind = false ∧ s.barred x = false ∧ s.withinLimits x = true
    s.dieOn = true → s.requestOk m qos = true → s.aliasOk a (.read n) = true → s.allReach m a n (matrixCarries m) = true →
    a % s.unitAt a + n ≤ s.unitAt a →
      (free → deepEnd ≤ a → exec (.matrixRequestEntry m id qos addr (.read n)) s
        = .next { s with matrix := { s.matrix with flight := s.matrix.flight ++ [stamped], nextNo := s.matrix.nextNo + 1 } })
      ∧ (free → a < deepEnd → exec (.matrixRequestEntry m id qos addr (.read n)) s
        = .next { s with
            matrix := { s.matrix with flight := s.matrix.flight ++ s.withCompanions stamped, nextNo := s.matrix.nextNo + 1 }
            dram := s.dram.touchCheck (s.deepPlace a) })
      ∧ (held = true → ∃ s', exec (.matrixRequestEntry m id qos addr (.read n)) s = .next s' ∧ queued s'
        ∧ s'.fieldOf 0x04 0x10 0 32 = satAdd 32 (s.fieldOf 0x04 0x10 0 32) 1)
      ∧ (held = false → (behind = true ∨ s.barred x = true ∨ s.withinLimits x = false) →
        ∃ s', exec (.matrixRequestEntry m id qos addr (.read n)) s = .next s' ∧ queued s' ∧ s'.regs = s.regs)

/-- R230, R274: MATRIX_GRANT serves one transaction that waits at the point, of the highest QoS unless a running grant goes
on, and it leaves the matrix; with none waiting nothing happens. A mailbox read returns the stored bytes.
R282: a dust sheet lifts once its event is over and every covered transaction has completed, and stays before. -/
def Obligations.MatrixGrantsServeAndSheetsLift : Prop :=
  (∀ (s : State) (pt : ArbPoint) (x : Txn) (g : Grant) (off n : Nat),
    let served := serveGrant (s.ptGrant pt) (s.reg 0x04 (0x200 + 8 * ptTarget pt)) (s.ptReady pt)
    (served = some (x, g) → x ∈ s.matrix.flight ∧ s.txnPoint x = pt
      ∧ (grantGoesOn (s.ptGrant pt) (s.ptReady pt) = false → ∀ y ∈ s.ptReady pt, y.qos.toNat ≤ x.qos.toNat))
    ∧ (s.dieOn = true → served = none → exec (.matrixGrant pt) s = .next s)
    ∧ (s.dieOn = true → served = some (x, g) → s.matrix.waiting = [] → s.region x.addr.toNat = .mailbox off →
      x.acc = .read n → x.covered = false → (∀ w ∈ wordsOf x.addr.toNat n, s.flip w = 0) →
      ∃ s', exec (.matrixGrant pt) s = .next s' ∧ s'.readData = (List.range n).map (fun k => s.sramByte (x.addr.toNat + k))
        ∧ s'.matrix.flight.length + 1 = s.matrix.flight.length ∧ s'.sram = s.sram ∧ s'.dram = s.dram ∧ s'.regs = s.regs))
  ∧ (∀ (s : State) (p : SheetPart),
    let open_ : Prop := ∃ x ∈ s.matrix.flight, x.covered = true ∧ coversTxn p x = true
    (p ∈ s.matrix.sheets → s.sheetEventOver p = true → ¬open_ → s.matrix.waiting = [] →
      ∃ s', exec (.dustSheetLift p) s = .next s' ∧ p ∉ s'.matrix.sheets
        ∧ (∀ q, q ≠ p → (q ∈ s'.matrix.sheets ↔ q ∈ s.matrix.sheets)) ∧ s'.matrix.flight = s.matrix.flight
        ∧ s'.sram = s.sram ∧ s'.regs = s.regs ∧ s'.threads = s.threads)
    ∧ (open_ → exec (.dustSheetLift p) s = .next s))

/-! ### The deep store and repairs (R213 to R239, R249, R451) -/

/-- R214, R217 to R219, R227, R229, R231: a trained interface, the re-centring of a channel, a retry, a full retrain, a refresh debt of at most 7
once emergency refreshes are permitted, and DS_CTRL.RETRAIN; a second full retrain of a channel within 10 s, a
failed one and failed training lose the interface and begin an outage. Where the spec leaves a choice, the
clauses follow the model's (log entry 34). -/
def Obligations.DeepStoreLinksTrainAndRefresh : Prop :=
  ∀ (s : State) (i : Fin 32) (ch attempt : Fin 2) (sixteen ok : Bool) (pb : Fin 1024) (c : Int) (m : Master) (rate : BitVec 3),
    let b := dsBlk i
    let lost (s' : State) : Prop := s'.lostIf i = true ∧ s'.trained i = false ∧ s'.dram.outage = 1 ∧ i ∈ s'.dram.lostNow
      ∧ s'.migrating = false ∧ s'.threads = s.threads ∧ s'.sram = s.sram ∧ s'.dram.deep = s.dram.deep
    let regsOnly (s' : State) (ks : List (Nat × Nat)) : Prop := s' = { s with regs := s'.regs } ∧ s.OnlyRegs s' ks
    let permitted := s.bulkGrantRuns (ifaceOf pb.val) = false
    s.dieOn = true →
      (s.trained i = false → s.lostIf i = false →
        Answers (.trainingComplete i true) s (fun s' => s'.trained i = true ∧ regsOnly s' [(b, 0x08)])
        ∧ Answers (.trainingComplete i false) s lost)
      ∧ (s.trained i = true →
        (s.mayRecentre i ch = true → exec (.recentring i ch) s
          = .next { s with dram := { s.dram with recentring := s.dram.recentring ++ [(i, ch)] } })
        ∧ (s.dram.recentring.contains (i, ch) = true → Answers (.recentring i ch) s fun s' => (i, ch) ∉ s'.dram.recentring
          ∧ (∀ x, x ≠ (i, ch) → (x ∈ s'.dram.recentring ↔ x ∈ s.dram.recentring))
          ∧ s' = { s with dram := { s.dram with recentring := s'.dram.recentring } })
        ∧ Answers (.dramTemperatureRead i c) s (fun s' => s'.flagOf b 0x08 4 = decide (85 < c) ∧ regsOnly s' [(b, 0x08)]))
      ∧ (s.trained i = true → s.dram.retraining.contains (i, ch) = false →
        Answers (.edcRetry i ch ⟨attempt.val, by omega⟩ ok false) s (fun s' =>
          s'.fieldOf b 0x18 32 16 = satAdd 16 (s.fieldOf b 0x18 32 16) 1 ∧ regsOnly s' [(b, 0x18)])
        ∧ (s.retrainedLately i ch = false → Answers (.edcRetry i ch 2 false sixteen) s (fun s' =>
          (i, ch) ∈ s'.dram.retraining ∧ s'.flagOf b 0x08 3 = true ∧ s'.retrainedLately i ch = true ∧ s'.sram = s.sram
          ∧ s'.threads = s.threads ∧ s.OnlyRegs s' [(b, 0x08), (b, 0x18)]))
        ∧ (s.retrainedLately i ch = true → Answers (.edcRetry i ch 2 false sixteen) s lost
          ∧ Answers (.edcRetry i ch ⟨attempt.val, by omega⟩ ok true) s lost))
      ∧ (s.dram.retraining.contains (i, ch) = true →
        Answers (.retrainComplete i ch true) s (fun s' => (i, ch) ∉ s'.dram.retraining
          ∧ (∀ x, x ≠ (i, ch) → (x ∈ s'.dram.retraining ↔ x ∈ s.dram.retraining))
          ∧ s'.flagOf b 0x08 3 = (s'.dram.retraining.any fun x => x.1 == i) ∧ s.OnlyRegs s' [(b, 0x08)])
        ∧ Answers (.retrainComplete i ch false) s lost)
      ∧ (s.lostIf (ifaceOf pb.val) = false → permitted → Answers (.refreshOwed pb) s fun s' =>
        s'.owedBy pb.val = min 7 (s.owedBy pb.val + 1)
        ∧ s' = { s with dram := { s.dram with owed := s'.dram.owed, refreshed := s'.dram.refreshed } })
      ∧ (0 < s.owedBy pb.val → s.bankAsked pb.val = false → Answers (.refreshIssue pb) s fun s' =>
        s'.owedBy pb.val + 1 = s.owedBy pb.val ∧ (ifaceOf pb.val, channelOf pb.val) ∈ s'.dram.refreshed
        ∧ s' = { s with dram := { s.dram with owed := s'.dram.owed, refreshed := s'.dram.refreshed } }
        ∧ ∀ p, p ≠ pb.val → s'.owedBy p = s.owedBy p)
      ∧ (s.cfgReach m 0x10 = true → rate.toNat ≤ s.maxRate → Answers (.retrain m rate) s fun s' =>
        s'.fieldOf 0x10 0x40 0 3 = rate.toNat ∧ (∀ j, s'.trained j = false) ∧ s' = { s with regs := s'.regs })

/-- R225, R235 to R238, R249, R371, R451: windows open, are zeroed and refused; a migration starts, copies rows and
ends by exchanging two bank-map entries; an outage builds a new map and drops or zeroes windows, and its end
empties the rings; a grant serves one transaction; a row or a bank is replaced by scaffold. Where the spec
leaves a choice, the clauses follow the model's (log entries 34 to 36). -/
def Obligations.DeepStoreWindowsMigrateAndRepair : Prop :=
  ∀ (s : State) (m : Master) (n : Fin 16) (v : BitVec 64) (b z : Nat),
    let off := 0x100 + 8 * n.val
    let plain : Prop := field v.toNat 50 14 = 0 ∧ field v.toNat 21 3 = 0 ∧ field v.toNat 45 3 = 0 ∧ field v.toNat 24 21 ≤ 2091008
    s.dieOn = true →
      (s.cfgReach m 0x10 = true → s.window n.val = none → plain → v.toNat.testBit 48 = true →
        (s.windowMayOpen n.val v.toNat = true →
          Answers (.windowEnable m n v) s (fun s' =>
            s'.window n.val = some (field v.toNat 0 21 * 65536, field v.toNat 24 21 * 65536) ∧ s' = { s with regs := s'.regs }
            ∧ s.OnlyRegs s' [(0x10, off)])
          ∧ Answers (.windowInit m n v) s (fun s' => s'.window n.val = some (field v.toNat 0 21 * 65536, field v.toNat 24 21 * 65536)
            ∧ s'.flagOf 0x10 off 50 = true ∧ s' = { s with regs := s'.regs } ∧ s.OnlyRegs s' [(0x10, off)]))
        ∧ (s.windowMayOpen n.val v.toNat = false →
          Answers (.windowEnable m n v) s (fun s' => s'.window n.val = none ∧ s'.flagOf 0x10 0x08 0 = true)
          ∧ Answers (.windowInit m n v) s (fun s' => s'.window n.val = none ∧ s'.flagOf 0x10 0x08 0 = true)))
      ∧ (s.flagOf 0x10 off 50 = true → s.dram.outage ≠ 1 → s.window n.val = some (b, z) →
        Answers (.windowZeroingDone n) s fun s' => s'.flagOf 0x10 off 50 = false ∧ s'.window n.val = some (b, z)
          ∧ (∀ a, b ≤ a → a < b + z → s'.dram.byte a = 0) ∧ (∀ a, a < b ∨ b + z ≤ a → s'.dram.byte a = s.dram.byte a)
          ∧ s'.sram = s.sram ∧ s'.threads = s.threads ∧ s.OnlyRegs s' [(0x10, off)])
      ∧ (∀ pb cause slot e rest es, s.migrating = false → s.dram.outage = 0 → s.inRun = true →
        s.dram.migQueue = (pb, cause) :: rest → s.entryOf pb = some slot → slot < s.slots → s.spareBanks true = e :: es →
        Answers .migrationStart s fun s' => s'.migrating = true ∧ s'.fence = 0 ∧ s'.fieldOf 0x10 0x50 8 10 = slot
          ∧ s'.fieldOf 0x10 0x50 20 10 = (s.mapEntry e).pb.toNat ∧ s' = { s with regs := s'.regs } ∧ s.OnlyRegs s' [(0x10, 0x50)])
      ∧ (s.migrating = true → s.dram.outage = 0 → s.fence < 65535 → Answers .migrationRowCopy s fun s' =>
        s'.fence = s.fence + 1 ∧ s'.migrating = true ∧ s' = { s with regs := s'.regs } ∧ s.OnlyRegs s' [(0x10, 0x50)])
      ∧ (∀ e, let slot := s.fieldOf 0x10 0x50 8 10
        s.migrating = true → s.dram.outage = 0 → s.fence = 65535 → s.entryOf (s.fieldOf 0x10 0x50 20 10) = some e → e ≠ slot →
        Answers .migrationRowCopy s fun s' => s'.migrating = false ∧ (s'.mapEntry slot).pb = (s.mapEntry e).pb
          ∧ (s'.mapEntry slot).st = 0 ∧ (s'.mapEntry e).pb = (s.mapEntry slot).pb ∧ (s'.mapEntry e).st ≠ 0
          ∧ (∀ k, k ≠ slot → k ≠ e → s'.mapEntry k = s.mapEntry k) ∧ s'.dram.deep = s.dram.deep)
      ∧ (s.dram.outage = 1 → s.deepDrained = true → Answers .outageRemap s fun s' =>
        s'.dram.outage = 2 ∧ s'.dram.deep = [] ∧ (∀ j, j < 1024 → s'.mapEntry j = (s.builtMap)[j]?.getD (defaultMapEntry j))
        ∧ (s.window n.val = some (b, z) → s'.deepSize < b + z → s'.window n.val = none ∧ s'.flagOf 0x10 off 51 = true)
        ∧ (s.window n.val = some (b, z) → b + z ≤ s'.deepSize → s'.window n.val = some (b, z) ∧ s'.flagOf 0x10 off 50 = true))
      ∧ (s.dram.outage = 2 → Answers .outageEnd s fun s' => s'.dram = { s.dram with outage := 0 }
        ∧ s'.fieldOf (lgBlk n) 0x228 0 32 = 0 ∧ s'.fieldOf (lgBlk n) 0x230 0 32 = 0
        ∧ s'.flagOf (lgBlk n) 0x228 48 = true ∧ (s'.group n).ringPend = []
        ∧ s'.ringOn n = (s.ringOn n && !s.ringAbove (s.reg (lgBlk n) 0x220)))
      ∧ (∀ i x g len, let served := serveGrant (s.dsGrant i) (s.reg (dsBlk i) 0x10) (s.deepReady i)
        served = some (x, g) → x.acc = .read len → x.covered = false → x.aux = none → s.matrix.waiting = [] →
        s.dram.outage = 0 → (∀ k, k < 16 → s.window k = none) → s.txnPlace x = .raw x.addr.toNat →
        x.addr.toNat % 32 + len ≤ 32 → (∀ t, x.m ≠ .core t) →
        Answers (.deepStoreGrant i 0) s fun s' => s'.readData = s.deepBytes x.addr.toNat len
          ∧ s'.matrix.flight.length + 1 = s.matrix.flight.length ∧ s'.dram.deep = s.dram.deep ∧ s'.sram = s.sram
          ∧ s'.regs = s.regs ∧ s'.threads = s.threads)
      ∧ (∀ (k : SramBank) (row : Nat), s.sram.lost.contains k = false → s.rowsUsed k < 4 →
        Answers (.rowRepair k row) s fun s' => s'.sram = { s.sram with rows := s.sram.rows ++ [(k, row)] } ∧ s'.regs = s.regs)
      ∧ (∀ (k : SramBank) w, scaffoldFor k = some w → s.sram.replaced.contains k = false → s.sram.lost.contains k = false →
        (s.scaffoldUsed w = false → s.scaffoldReady w = true → s.sram.borrow = none → Answers (.bankReplacement k) s fun s' =>
          k ∈ s'.sram.replaced ∧ s'.sram.mem = s.sram.mem ∧ s'.sram.flips = s.sram.flips)
        ∧ (s.scaffoldUsed w = true → Answers (.bankReplacement k) s fun s' =>
          k ∈ s'.sram.recordedBad ∧ s'.sram.replaced = s.sram.replaced ∧ s'.sram.mem = s.sram.mem))

/-! ### Links (R356 to R381) -/

/-- R358 to R371, R380: 64 valid sync headers or K28.5 give lock and 16 invalid ones in 64 take it away; blocks and code
groups spell a frame with its CRC-32C checked; a frame counts its errors, hands over its header and writes its payload
to its saddle or ring, with the tag words or the record header; a ring's WP follows, a saddle bank is released,
a ring opens. Where the spec leaves a choice, the clauses follow the model's (log entries 16, 35 and 51). -/
def Obligations.LinksReceiveFrames : Prop :=
  ∀ (s : State) (m : Master) (l : Fin 128) (n : Fin 16) (sd b : Fin 2) (f : Frame) (bs : List Byte) (v : BitVec 64)
      (rx part : Received) (x : RingRecord) (rest : List RingRecord),
    let k := lgBlk (linkGroup l)
    let o := lstatOff l
    let cfg := s.linkCfg l
    let e := BitVec.ofNat 64 (extendTag 12 s.bxc f.tag.toNat)
    let headBad := f.ftype != 0 || f.linkid.toNat != expectedId cfg
    let crcBad := !f.crcOk && !f.foreign
    let lenBad := payLen cfg != 0 && f.payload.length != payLen cfg
    let counted (s' : State) : Prop := s'.fieldOf k o 16 16 = satAdd 16 (s.fieldOf k o 16 16) (b2n crcBad)
      ∧ s'.fieldOf k o 32 16 = satAdd 16 (s.fieldOf k o 32 16) (b2n (headBad || f.foreign || lenBad))
    let heads (s' : State) : Prop := s'.col.heads = if !s.linkFailed l && !headBad && s.linkEnabled l && s.col.hasSection && !s.evaluated e
      then s.col.heads ++ [(e, l, f.summary)] else s.col.heads
    let noRing := bitOf cfg 38 = false
    let noSaddle := saddleRoute cfg ≠ 1 ∧ saddleRoute cfg ≠ 2
    let place (len : Nat) := ringPlace (s.ringUnits (linkGroup l)) (s.group (linkGroup l)).ringW (s.fieldOf k 0x230 0 32) (1 + (len + 31) / 32)
    let ringReady (data : List Byte) (pos : Nat) : Prop := s.ringOn (linkGroup l) = true ∧ s.dram.outage = 0
      ∧ (∀ i, i < 16 → s.window i = none) ∧ (place data.length).map (·.1) = some pos
      ∧ s.allDeep (s.ringBase (linkGroup l) + 32 * pos) (32 * (1 + (data.length + 31) / 32)) = true
      ∧ s.allDeep (s.ringBase (linkGroup l) + 32 * (s.group (linkGroup l)).ringW) 32 = true
      ∧ s.deepHeld (s.ringBase (linkGroup l) + 32 * pos) (32 * (1 + (data.length + 31) / 32)) = false
      ∧ s.deepHeld (s.ringBase (linkGroup l) + 32 * (s.group (linkGroup l)).ringW) 32 = false
    let recorded (data : List Byte) (status pos : Nat) (tag : Word) (summary : BitVec 32) (s' : State) : Prop :=
      let g := s.group (linkGroup l)
      let bytes := ringHeader tag data.length (linkNo l) status summary g.ringSeq ++ data
      (∀ j, j < bytes.length → s'.dram.byte (s.ringBase (linkGroup l) + 32 * pos + j) = nth 0 bytes j)
      ∧ (s'.group (linkGroup l)).ringSeq = g.ringSeq + 1
      ∧ (s'.group (linkGroup l)).ringPend = g.ringPend ++ [⟨(pos + (1 + (data.length + 31) / 32)) % s.ringUnits (linkGroup l), []⟩]
    let fits := rxFits rx (rxMode cfg)
    (∀ xs : List Bool, (xs.length = 64 → locksOn 0 xs = xs.all id)
      ∧ (xs.length ≤ 64 → losesLock 0 0 xs = decide (16 ≤ xs.countP (!·))))
    ∧ (∀ (h t : Block66) (ds more : List Block66), h.sync = 2 → h.bits.toNat % 256 = 0x78 → (∀ d ∈ ds, d.sync = 1) →
      t.sync = 2 → t.bits.toNat % 256 = 0xCC → t.bits.toNat / 2 ^ 40 = 0 →
      flpDeframe (h :: ds ++ t :: more) = some ({
        tag := h.bits.extractLsb' 8 12
        linkid := h.bits.extractLsb' 20 8
        ftype := h.bits.extractLsb' 28 4
        summary := h.bits.extractLsb' 32 32
        payload := ds.map fun d => d.bits
        crcOk := decide (leBytes 4 (t.bits.toNat / 256)
          = leBytes 4 (crc32c (leBytes 7 (h.bits.toNat / 256) ++ ds.flatMap fun d => leBytes 8 d.bits.toNat)))
        foreign := false }, true))
    ∧ (∀ (head body : List Byte) (more : List CodeGroup), head.length = 7 → body.length % 8 = 0 →
      leg8Deframe (.control 0xFB :: (head ++ body ++ leBytes 4 (crc32c (head ++ body))).map CodeGroup.data ++ .control 0xFD :: more)
        = some (frameOf head body (some (leBytes 4 (crc32c (head ++ body)))) false, true))
    ∧ (s.inRun = true → fits = true → rxLocks rx = true → Answers (.blockLock ⟨l, rx⟩) s fun s' => s'.linkLocked l = true
      ∧ s' = { s with regs := s'.regs } ∧ s.OnlyRegs s' [(k, o)])
    ∧ (rxLocks rx = false → exec (.blockLock ⟨l, rx⟩) s = .next s)
    ∧ (s.linkLocked l = true → fits = true → losesLock 0 0 (rxValid rx) = true →
      (rxOpenFrame part = none → Answers (.lockLoss ⟨l, rx⟩ part) s fun s' => s'.linkLocked l = false ∧ s' = { s with regs := s'.regs }
        ∧ s.OnlyRegs s' [(k, o)])
      ∧ (rxMode cfg ≠ 2 → rxFits part (rxMode cfg) = true → rxOpenFrame part = some f → Answers (.lockLoss ⟨l, rx⟩ part) s fun s' =>
        s'.linkLocked l = false ∧ s'.fieldOf k o 16 16 = satAdd 16 (s.fieldOf k o 16 16) 1))
    ∧ (losesLock 0 0 (rxValid rx) = false → exec (.lockLoss ⟨l, rx⟩ part) s = .next s)
    ∧ (∀ i : Instr, (∃ xs, i = .flpFrame l xs ∧ flpDeframe xs = some (f, true) ∧ s.receives l 1 = true)
        ∨ (∃ xs, i = .leg8Frame l xs ∧ leg8Deframe xs = some (f, true) ∧ s.receives l 3 = true) →
      (noRing → noSaddle → Answers i s fun s' => counted s' ∧ heads s' ∧ s'.sram = s.sram ∧ s'.dram = s.dram ∧ s'.threads = s.threads
        ∧ s.OnlyRegs s' [(k, o)])
      ∧ (∀ pos, noSaddle → bitOf cfg 38 = true → headBad = false → f.foreign = false →
        let blocks := f.payload.take (if payLen cfg = 0 then 2048 else payLen cfg)
        let data := blocks.flatMap fun x => leBytes 8 x.toNat
        ringReady data pos → Answers i s fun s' => counted s' ∧ heads s'
          ∧ recorded data (b2n crcBad + 2 * b2n (decide (blocks.length < f.payload.length))) pos e f.summary s')
      ∧ (noRing → saddleRoute cfg = 1 + sd.val → headBad = false →
        let ridge := saddleRidge (linkGroup l) sd
        let cur := s.saddleCur (linkGroup l) sd
        let fill := s.fieldOf k (sadOff sd) 31 10
        let w := (payLen cfg * 8 + 127) / 128
        let a := ledgeBase + ridge.val * 0x400000 + 0x200000 + cur.val * 0x10000 + fill * 128
        let data := (f.payload.take (payLen cfg)).flatMap fun x => leBytes 8 x.toNat
        s.saddleThere ridge = true → s.saddleFree (linkGroup l) sd cur = true → fill + w ≤ 512 → Answers i s fun s' => counted s' ∧ heads s'
          ∧ (∀ j, j < data.length → s'.sramByte (a + j) = nth 0 data j)
          ∧ (∀ j, j < w → s'.tagWord (a + 128 * j) = ⟨e.setWidth 16, true, crcBad || f.foreign || decide (data.length ≤ 128 * j)⟩)
          ∧ s'.fieldOf k (sadOff sd) 31 10 = fill + w ∧ s'.dram = s.dram))
    ∧ (∀ (fcs : List Byte) fecBad pos, let bad := fecBad || fcs != ethernetFcs bs
      fcs.length = 4 → s.receives l 2 = true → beNat (slice bs 12 2) ≠ 0x8808 → bitOf cfg 38 = true → ringReady (bs.take 9596) pos →
      Answers (.eth25Frame l (bs ++ fcs) fecBad) s fun s' => s'.fieldOf k o 16 16 = satAdd 16 (s.fieldOf k o 16 16) (b2n bad)
        ∧ s'.sram = s.sram ∧ recorded (bs.take 9596) (b2n bad + 2 * b2n (decide (9596 < bs.length)) + 4) pos 0 0 s')
    ∧ ((s.group n).ringPend = x :: rest → x.writes ≠ [] → s.ringHeld x.writes = true → exec (.ringWpAdvance n) s = .next s)
    ∧ ((s.group n).ringPend = x :: rest → x.writes = [] → Answers (.ringWpAdvance n) s fun s' =>
      s'.fieldOf (lgBlk n) 0x228 0 32 = x.wp % 2 ^ 32
      ∧ (s'.group n).ringPend = rest ∧ s'.sram = s.sram ∧ s'.dram = s.dram ∧ s.OnlyRegs s' [(lgBlk n, 0x228)]
      ∧ (s.flagOf (lgBlk n) 0x230 56 = true → s.fieldOf (lgBlk n) 0x230 32 9 = 256 →
        s'.smc.events.getLsbD (s.fieldOf (lgBlk n) 0x230 48 8) = true))
    ∧ (s.cfgReach m (lgBlk n) = true → s.saddleFull n sd b = true → s.saddleLost (saddleRidge n sd) b = false →
      Answers (.saddleRelease m n sd (decide (b = 0)) (decide (b = 1))) s fun s' => s'.saddleFull n sd b = false
        ∧ s'.saddleFull n sd (otherBank b) = s.saddleFull n sd (otherBank b)
        ∧ ((b = s.saddleCur n sd ∨ s.saddleFull n sd (s.saddleCur n sd) = true) → s'.saddleCur n sd = b
          ∧ s'.fieldOf (lgBlk n) (sadOff sd) 31 10 = 0) ∧ s' = { s with regs := s'.regs })
    ∧ (s.cfgReach m (lgBlk n) = true → s.ringOn n = false → v.toNat.testBit 5 = true → field v.toNat 0 5 ≤ 25 →
      field v.toNat 6 6 = 0 → field v.toNat 48 16 = 0 → s.ringAbove v.toNat = false → Answers (.ringEnable m n v) s fun s' =>
        s'.ringOn n = true ∧ s'.ringBase n = field v.toNat 12 36 * 4096 ∧ s'.ringUnits n = 2 ^ (7 + field v.toNat 0 5)
        ∧ s'.fieldOf (lgBlk n) 0x228 0 32 = 0 ∧ s'.fieldOf (lgBlk n) 0x230 0 32 = 0 ∧ (s'.group n).ringW = 0
        ∧ s'.sram = s.sram ∧ s'.dram = s.dram)

/-- R357, R374 to R380: a link failure sets its flags, records them, tells the SMC and, later, sets DEAD in its
channels and in no others; a locked transmit side sends the lowest unsent crossing, else the last again, else
nothing while quiet; the egress engine takes an entry, sends its datagrams and finishes it. Where the spec
leaves a choice, the clauses follow the model's (log entry 51). -/
def Obligations.LinksFailAndTransmit : Prop :=
  ∀ (s : State) (l : Fin 128) (n : Fin 16) (j : Fin 8) (khz : Nat) (c : Word × Byte) (x : Egress),
    let k := lgBlk (linkGroup l)
    let o := lstatOff l
    let cfg := s.linkCfg l
    let y := s.side l
    let chan := s.reg k (0x140 + 8 * linkNo l)
    let marked (q : Nat) : Prop := field chan 0 21 ≤ q ∧ q < field chan 0 21 + field chan 21 22
    let entry (t : State) (q : Nat) : List Byte := t.sramBytes (ctBase + 8 * q) 8
    let sends (u : List (Word × Byte)) (last : Option (Word × Byte)) (bits : BitVec 24) : Prop :=
      Answers (.block0Transmit l) s fun s' => (s'.side l).unsent = u ∧ (s'.side l).last = last
        ∧ (s'.side l).block0 = some bits ∧ s' = s.setSide l (s'.side l)
    (s.inRun = true → rxMode cfg ≠ 0 → s.linkFailed l = false → Answers (.linkFailure l) s fun s' => s'.linkFailed l = true
      ∧ s'.flagOf k o 2 = true ∧ (s'.side l).deadDue = true
      ∧ s'.smc.events.getLsbD (0xC0 + (linkGroup l).val) = true ∧ s'.sram = s.sram ∧ s'.dram = s.dram
      ∧ s'.cairn = (s.note 0x0003 [l.val]).cairn ∧ s.OnlyRegs s' [(k, o)])
    ∧ (s.linkFailed l = true → s.linkLocked l = true → Answers (.linkFailClear l) s fun s' => s'.linkFailed l = false
      ∧ s'.flagOf k o 2 = s.flagOf k o 2 ∧ s' = { s with regs := s'.regs } ∧ s.OnlyRegs s' [(k, o)])
    ∧ (y.deadDue = true → s.dieOn = true → (∀ q, marked q → s.flip (ctBase + 8 * q) = 0) → Answers (.linkDeadMarking l) s fun s' =>
      (∀ q, marked q → entry s' q = leBytes 8 (setField (leNat (entry s q)) 54 1 1)) ∧ (∀ q, ¬marked q → entry s' q = entry s q)
      ∧ (s'.side l).deadDue = false ∧ s'.regs = s.regs ∧ s'.threads = s.threads ∧ s'.dram = s.dram)
    ∧ (s.inRun = true → lockedTx cfg = true → s.noClock = false →
      (y.electricalIdle = false →
        (s.colQuiet = true → Answers (.block0Transmit l) s fun s' => (s'.side l).block0 = none
          ∧ (s'.side l).slots = List.replicate (blocksPerPeriod cfg - 1) .idle ∧ s' = s.setSide l (s'.side l))
        ∧ (s.colQuiet = false → ∀ r, y.unsent = c :: r → sends r (some c) (block0Bits c))
        ∧ (s.colQuiet = false → y.unsent = [] → y.last = some c → sends [] (some c) (block0Bits c)))
      ∧ Answers (.txrange l khz) s fun s' => s'.flagOf k o 3 = !txInRange cfg khz
        ∧ (s'.side l).electricalIdle = !txInRange cfg khz ∧ s.OnlyRegs s' [(k, o)])
    ∧ (let g := s.group n
      let i := g.egNext % s.egCount n
      let a := s.egEntryAddr n i
      let e := (s.memRead .other a 32).bytes
      let ta := s.egBase n + 64 * (leAt e 13 1 % 16)
      let tm := (s.memRead .other a 32).st.memRead .other ta 64
      let bad := (!tm.st.egReach n ta 64) || tm.st.egInvalid n e tm.bytes
      s.inRun = true → s.flagOf (lgBlk n) 0x240 4 = true → i ≠ s.fieldOf (lgBlk n) 0x248 0 16 → s.egReach n a 32 = true →
      s.deepHeld a 32 = false → s.deepHeld ta 64 = false →
        (bad = false → leAt e 0 8 < 2 ^ 48 → (∀ z ∈ g.eg, z.status = 0) → Answers (.egressEntry n) s fun s' => ∃ z,
          (s'.group n).eg = g.eg ++ [z] ∧ z.idx = i ∧ z.link.val = leAt e 12 1 % 8 ∧ z.addr.toNat = leAt e 0 8 ∧ z.len = leAt e 8 4
          ∧ z.tmpl = tm.bytes ∧ z.sent = 0 ∧ z.status = 0 ∧ (s'.group n).egNext = (i + 1) % s.egCount n)
        ∧ (bad = true → g.eg = [] → tm.st.deepHeld (a + 0x0F) 1 = false → Answers (.egressEntry n) s fun s' => (s'.group n).eg = []
          ∧ s'.fieldOf (lgBlk n) 0x248 16 16 = (i + 1) % s.egCount n % 65536 ∧ (s'.group n).egNext = (i + 1) % s.egCount n))
    ∧ (let g := s.group n
      let len := min (32 * s.fieldOf (lgBlk n) 0x248 32 9) (x.len - x.sent)
      let a := x.addr.toNat + x.sent
      s.inRun = true → s.flagOf (lgBlk n) 0x240 4 = true → (g.eg.find? fun z => z.link == j && z.status == 0) = some x →
      s.egReach n a len = true →
        (s.deepHeld a len = true → exec (.egressDatagram n j) s = .next s)
        ∧ (s.deepHeld a len = false → ((s.memRead .other a len).bad = false ∨ deepEnd ≤ a) → Answers (.egressDatagram n j) s fun s' =>
          (s'.group n).lastDatagram = x.frame g.ident[j] (s.memRead .other a len).bytes ∧ (s'.group n).ident[j] = g.ident[j] + 1
          ∧ (x.sent + len < x.len → { x with sent := x.sent + len } ∈ (s'.group n).eg)
          ∧ (g.eg = [x] → x.len ≤ x.sent + len →
            (s.memRead .other a len).st.deepHeld (s.egEntryAddr n x.idx + 0x0F) 1 = false → (s'.group n).eg = []
            ∧ s'.fieldOf (lgBlk n) 0x248 16 16 = (x.idx + 1) % s.egCount n % 65536)))

/-! ### Col path, alignment, time (R382 to R410) -/

/-- R383 to R399: a crossing all groups have is evaluated to 8 decision bits that the locked transmit sides hold,
and one still incomplete at its deadline counts in MISSED; a result enters its queue for its crossing or is dropped;
at its release point a result or a placeholder goes out, else idle; ALN_STATUS.FAST follows a measured run.
Where the spec leaves a choice, the clauses follow the model's (log entries 17 and 55). -/
def Obligations.CrossingsAreEvaluatedAndReleased : Prop :=
  ∀ (s : State) (l : Fin 128) (q : Fin 16) (c : Word) (v : BitVec 64) (cut : Bool) (x : Entering) (more : List Entering) (run : Nat),
    let e := s.col.next
    let sums := ((List.range 16).map (s.groupSum e) :: s.col.sums).take 4
    let d := s.decide8 fun i => s.resultBit sums (i / 4) (i % 4)
    let u := (s.side l).unsent
    let evaluated (s' : State) : Prop := s'.col.next = e + 1 ∧ s'.col.sums = sums ∧ (∀ h ∈ s'.col.heads, h.1 ≠ e)
      ∧ (s'.side l).unsent = (if lockedTx (s.linkCfg l) then (if u.length < 4 then u else u.drop 1) ++ [(e, d)] else u)
      ∧ s'.sram = s.sram ∧ s'.threads = s.threads
    let y := s.alnQueue q
    let cfg := s.alnCfg q
    let due := c.toNat + alnL cfg
    let entered (s' : State) : Prop := (s'.alnQueue q).entering = more ∧ s'.sram = s.sram ∧ s'.threads = s.threads
    let dropped (s' : State) : Prop := (s'.alnQueue q).results = y.results
      ∧ s'.fieldOf 0x09 (0x200 + 8 * q.val) 32 16 = satAdd 16 (s.fieldOf 0x09 (0x200 + 8 * q.val) 32 16) 1
    let fresh := y.seen.contains c = false
    let late := s.releasePassed q c || (cut && decide (crossingDiff due s.bxc ≤ 2))
    let r := BitVec.ofNat 64 (wrapNat 64 ((s.bxc : Int) - alnL cfg))
    let fast := decide (run + 32 < 256 * s.fieldOf 0x09 0x10 0 10)
    (s.inRun = true → s.colQuiet = false →
      (0 ≤ crossingDiff s.bxc e.toNat → s.crossingComplete e = true → Answers .colEvaluation s evaluated)
      ∧ ((s.fieldOf 0x08 0x10 0 8 : Int) ≤ crossingDiff s.bxc e.toNat → s.crossingComplete e = false →
        deviceLinks.any s.takesPart = true → Answers .colDeadline s fun s' => evaluated s' ∧ s'.fieldOf 0x08 0x08 16 16 = satAdd 16 (s.fieldOf 0x08 0x08 16 16) 1))
    ∧ (s.dieOn = true → y.entering = x :: more → x.tag = some c → x.v = v →
      (s.alnTakes q c = true → crossingDiff due s.bxc ≤ 8191 → fresh →
        (late = false → Answers (.resultDelivery q (some c) v cut) s fun s' => entered s'
          ∧ (s'.alnQueue q).results = y.results ++ [(c, v)] ∧ s'.regs = s.regs ∧ c ∈ (s'.alnQueue q).seen)
        ∧ (late = true → alnDense cfg = true → Answers (.resultDelivery q (some c) v cut) s fun s' => entered s' ∧ dropped s')
        ∧ (late = true → alnDense cfg = false → y.waiting.length < 4 → Answers (.resultDelivery q (some c) v cut) s fun s' =>
          entered s' ∧ (s'.alnQueue q).waiting = y.waiting ++ [(c, BitVec.ofNat 64 s.bxc)] ∧ (s'.alnQueue q).results = y.results
            ∧ s'.regs = s.regs))
      ∧ (s.alnTakes q c = false → Answers (.resultDelivery q (some c) v cut) s fun s' => entered s' ∧ dropped s'))
    ∧ (∀ first, alnOn cfg = true → s.noClock = false → s.inRun = true → y.live = some first → y.released = none →
      ((y.results.find? fun z => z.1 == r) = some (r, v) → Answers (.releasePoint q) s fun s' => (s'.alnQueue q).slot = .result v
        ∧ (s'.alnQueue q).results = y.results.filter (fun z => z.1 != r) ∧ s' = s.setAlnQueue q (s'.alnQueue q))
      ∧ ((y.results.find? fun z => z.1 == r) = none → alnDense cfg = true → 0 ≤ crossingDiff r.toNat first.toNat →
        Answers (.releasePoint q) s fun s' => (s'.alnQueue q).slot = .placeholder (placeholderBits r (alnPolicy cfg) q.val)
          ∧ s'.fieldOf 0x09 (0x200 + 8 * q.val) 0 32 = satAdd 32 (s.fieldOf 0x09 (0x200 + 8 * q.val) 0 32) 1)
      ∧ ((y.results.find? fun z => z.1 == r) = none → alnDense cfg = false → y.waiting = [] →
        Answers (.releasePoint q) s fun s' => (s'.alnQueue q).slot = .idle ∧ s' = s.setAlnQueue q (s'.alnQueue q)))
    ∧ (s.dieOn = true → s.noClock = false → fast ≠ s.flagOf 0x09 0x08 1 → Answers (.fastCheck run) s fun s' =>
      s'.flagOf 0x09 0x08 1 = fast ∧ s'.flagOf 0x09 0x08 2 = (fast || s.flagOf 0x09 0x08 2)
      ∧ s'.cairn = (s.note 0x0004 [0x399, b2n fast]).cairn ∧ s.OnlyRegs s' [(0x09, 0x08)])

/-- R400 to R403: BXC counts edges and wraps; the loss of the active input starts a failover, which ends on the
other input, or leaves no clock and all locked transmit sides at electrical idle; a present input takes over; a
marker on time, late, armed or after a loss; time code and reference clock. Where the spec leaves a choice, the
clauses follow the model's (log entry 53). -/
def Obligations.BunchClockCountsAndFailsOver : Prop :=
  ∀ (s : State) (m : Master) (b : Bool) (f : TimeCode) (l : Fin 128) (edge : Word) (more : List Word),
    let regsOnly (s' : State) (ks : List (Nat × Nat)) : Prop := s' = { s with regs := s'.regs } ∧ s.OnlyRegs s' ks
    let noClock (s' : State) : Prop := s'.noClock = true ∧ s'.flagOf 0x07 0x08 5 = false ∧ s'.timer.failing = false
      ∧ s'.timer.zeroNext = true ∧ (s.inRun = true → lockedTx (s.linkCfg l) = true → (s'.side l).electricalIdle = true)
      ∧ (s'.alnQueue 0).live = none ∧ s'.colQuiet = true ∧ s'.bxc = s.bxc ∧ s'.sram = s.sram ∧ s'.threads = s.threads
    let tod := f.sec.toNat + f.min.toNat * 2 ^ 8 + f.hour.toNat * 2 ^ 16 + f.day.toNat * 2 ^ 24
      + (match f.year with
        | some y => y.toNat
        | none => 0) * 2 ^ 36
    let marked (s' : State) (bxc orbc : Nat) : Prop := s'.bxc = bxc ∧ s'.fieldOf 0x07 0x18 0 32 = orbc
      ∧ s'.flagOf 0x07 0x08 5 = true ∧ s'.flagOf 0x07 0x08 6 = false ∧ s'.col.waitMarker = false
      ∧ s'.timer.orblen.toNat = s.fieldOf 0x07 0x18 32 24 ∧ s'.sram = s.sram ∧ s'.threads = s.threads
    let off := s.bxc % s.timer.orblen.toNat
    s.dieOn = true →
      (s.noClock = false →
        exec .bxcAdvance s = .next (s.setBxc ((s.bxc + 1) % 2 ^ 64))
        ∧ (s.timer.failing = false → s.flagOf 0x07 0x10 1 = true → s.inputPresent (!s.activeB) = true →
          Answers .bunchClockLoss s fun s' => s'.timer.failing = true ∧ s'.inputPresent s.activeB = false ∧ s'.noClock = false
            ∧ s'.bxc = s.bxc ∧ s'.activeB = s.activeB ∧ s'.queues = s.queues)
        ∧ (s.timer.failing = false → (s.flagOf 0x07 0x10 1 && s.inputPresent (!s.activeB)) = false → Answers .bunchClockLoss s noClock)
        ∧ Answers .orbitLost s (fun s' => s'.flagOf 0x07 0x08 6 = true ∧ regsOnly s' [(0x07, 0x08)])
        ∧ (s.timer.zeroNext = true ∨ s.flagOf 0x07 0x10 3 = true → Answers .orbitMarker s fun s' => marked s' 0 0
          ∧ s'.timer.zeroNext = false ∧ s'.flagOf 0x07 0x10 3 = false)
        ∧ (s.timer.zeroNext = false → s.flagOf 0x07 0x10 3 = false →
          let orbc := (s.fieldOf 0x07 0x18 0 32 + 1) % 2 ^ 32
          let errs (s' : State) : Prop := s'.fieldOf 0x07 0x08 24 16 = satAdd 16 (s.fieldOf 0x07 0x08 24 16) 1
          (off = 0 → Answers .orbitMarker s fun s' => marked s' s.bxc orbc
            ∧ s'.fieldOf 0x07 0x08 24 16 = s.fieldOf 0x07 0x08 24 16)
          ∧ (off ≠ 0 → s.flagOf 0x07 0x10 2 = false → s.timer.resync = false →
            Answers .orbitMarker s fun s' => marked s' s.bxc orbc ∧ errs s')
          ∧ (off ≠ 0 → s.flagOf 0x07 0x10 2 = true ∨ s.timer.resync = true →
            Answers .orbitMarker s fun s' => marked s' (nearestMultiple s.bxc s.timer.orblen.toNat % 2 ^ 64) orbc ∧ errs s'
              ∧ s'.timer.resync = false)))
      ∧ (s.timer.failing = true → Answers .bunchClockFailover s fun s' => s'.activeB = !s.activeB ∧ s'.timer.failing = false
        ∧ s'.timer.resync = true ∧ s'.fieldOf 0x07 0x08 16 8 = satAdd 8 (s.fieldOf 0x07 0x08 16 8) 1 ∧ s'.bxc = s.bxc
        ∧ s'.cairn = (s.note 0x0004 [0x400, b2n (!s.activeB)]).cairn)
      ∧ (s.inputPresent b = false →
        (s.noClock = false → Answers (.bunchClockPresent b) s fun s' => s'.inputPresent b = true ∧ s'.activeB = s.activeB
          ∧ s'.noClock = false)
        ∧ (s.noClock = true → Answers (.bunchClockPresent b) s fun s' => s'.inputPresent b = true ∧ s'.noClock = false
          ∧ s'.inputPresent s'.activeB = true ∧ (s'.inputPresent (s.flagOf 0x07 0x10 0) = true → s'.activeB = s.flagOf 0x07 0x10 0)))
      ∧ (s.inputPresent b = true → (s.noClock = true ∨ b ≠ s.activeB) →
        (s.timer.failing = false → Answers (.bunchClockAbsent b) s fun s' => s'.inputPresent b = false ∧ s'.noClock = s.noClock
          ∧ s'.activeB = s.activeB)
        ∧ (s.timer.failing = true → Answers (.bunchClockAbsent b) s noClock))
      ∧ (s.cfgReach m 0x07 = true → Answers (.arm m) s fun s' => s'.flagOf 0x07 0x10 3 = true
        ∧ s'.fieldOf 0x07 0x10 0 3 = s.fieldOf 0x07 0x10 0 3 ∧ s' = { s with regs := s'.regs })
      ∧ exec (.timeCodeFrame .onTimeEdge) s
        = .next { s with timer := { s.timer with onTime := s.timer.onTime ++ [BitVec.ofNat 64 s.bxc] } }
      ∧ (s.timer.onTime = edge :: more →
        let ended (s' : State) (ks : List (Nat × Nat)) : Prop :=
          s' = { s with regs := s'.regs, timer := { s.timer with onTime := more } } ∧ s.OnlyRegs s' ks
        (f.timingOk = true → timeDigitsOk f = true → Answers (.timeCodeFrame (.frameEnd f)) s fun s' => s'.reg 0x07 0x28 = tod
          ∧ s'.reg 0x07 0x30 = edge.toNat ∧ s'.flagOf 0x07 0x08 8 = true ∧ ended s' [(0x07, 0x28), (0x07, 0x30), (0x07, 0x08)])
        ∧ ((f.timingOk && timeDigitsOk f) = false → Answers (.timeCodeFrame (.frameEnd f)) s fun s' =>
          s'.fieldOf 0x07 0x08 40 16 = satAdd 16 (s.fieldOf 0x07 0x08 40 16) 1 ∧ ended s' [(0x07, 0x08)]))
      ∧ Answers .timeCodeTimeout s (fun s' => s'.flagOf 0x07 0x08 8 = false ∧ regsOnly s' [(0x07, 0x08)])
      ∧ (s.on = true → s.power.refext = true → Answers .refclkLoss s fun s' => s'.flagOf 0x07 0x08 7 = false ∧ s'.power.refext = false
        ∧ s'.cairn = (s.note 0x0004 [0x403, 0]).cairn ∧ s.OnlyRegs s' [(0x07, 0x08)])

/-- R405 to R410: each rising edge of the source adds to an accumulator that ticks when it reaches DIV; a tick counts TB up and COUNT down, reloads it from 0 and posts its event at 0 and at a match,
which moves CMP on by INTV; a write to RELOAD changes only that buffer; enabling the count restarts it, and
enabling the compare or writing CMP matches at once where TB and CMP agree; a rise and a fall make a pair, and a
read of it clears FULL. Where the spec leaves a choice, the clauses follow the model's (log entry 53). -/
def Obligations.TimerChannelsTickMatchAndCapture : Prop :=
  ∀ (s : State) (m : Master) (c : Fin 8) (v : BitVec 64) (r : BitVec 32) (edges : Nat),
    let cfg := s.reg 0x07 (chOff c 0)
    let tb := s.timeBase c
    let cnt := s.fieldOf 0x07 (chOff c 0x10) 32 32
    let cmp := s.fieldOf 0x07 (chOff c 0x18) 0 32
    let intv := s.fieldOf 0x07 (chOff c 0x18) 32 32
    let x := s.timerCh c
    let tb' := (tb + 1) % 2 ^ 32
    let match_ := bitOf cfg 6 && tb' == cmp
    let acc := x.acc + 0x10000
    let div := s.fieldOf 0x07 (chOff c 0x08) 0 32
    let matched (s' : State) : Prop := s'.flagOf 0x07 (chOff c 0) 33 = true
      ∧ s'.fieldOf 0x07 (chOff c 0x18) 0 32 = (cmp + intv) % 2 ^ 32
    let posted (s' : State) : Prop := field cfg 20 9 = 256 → s'.smc.events.getLsbD (field cfg 12 8) = true
    let cfgOk : Prop := field v.toNat 0 3 ≠ 3 ∧ field v.toNat 20 9 ≤ 256 ∧ field v.toNat 11 1 = 0 ∧ field v.toNat 29 3 = 0
      ∧ field v.toNat 32 32 = 0
    let counts : Prop := s.dieOn = true ∧ bitOf cfg 5 = true ∧ (field cfg 0 3 ≠ 0 ∨ s.noClock = false)
    exec (.timerTick ⟨c, 0⟩) s = .next s
    ∧ (counts → ∃ s1, exec (.timerTick ⟨c, 1⟩) s = .next s1 ∧ exec (.timerTick ⟨c, edges + 1⟩) s = exec (.timerTick ⟨c, edges⟩) s1)
    ∧ (counts → acc < div → exec (.timerTick ⟨c, 1⟩) s = .next (s.setTimerCh c { x with acc := acc }))
    ∧ (counts → div ≤ acc → Answers (.timerTick ⟨c, 1⟩) s fun s' =>
      s'.timeBase c = tb' ∧ (s'.timerCh c).acc = acc - div ∧ (s'.timerCh c).rise = x.rise
      ∧ s'.fieldOf 0x07 (chOff c 0x10) 32 32 = (if cnt = 0 then s.fieldOf 0x07 (chOff c 0x08) 32 32 else cnt - 1)
      ∧ (cnt = 1 → s'.flagOf 0x07 (chOff c 0) 32 = true ∧ (bitOf cfg 8 = true → posted s'))
      ∧ (cnt ≠ 1 → s'.flagOf 0x07 (chOff c 0) 32 = s.flagOf 0x07 (chOff c 0) 32)
      ∧ (match_ = true → matched s' ∧ (bitOf cfg 9 = true → posted s'))
      ∧ (match_ = false → s'.flagOf 0x07 (chOff c 0) 33 = s.flagOf 0x07 (chOff c 0) 33
        ∧ s'.fieldOf 0x07 (chOff c 0x18) 0 32 = cmp)
      ∧ s'.fieldOf 0x07 (chOff c 0x18) 32 32 = intv ∧ s'.sram = s.sram ∧ s'.dram = s.dram)
    ∧ (s.dieOn = true → s.cfgReach m 0x07 = true → cfgOk →
      (v.toNat.testBit 5 = true → bitOf cfg 5 = false → v.toNat.testBit 6 = false → Answers (.timerCountEnable m c v) s fun s' =>
        s'.flagOf 0x07 (chOff c 0) 5 = true ∧ s'.timeBase c = 0 ∧ (s'.timerCh c).acc = 0
        ∧ s'.fieldOf 0x07 (chOff c 0x10) 32 32 = s.fieldOf 0x07 (chOff c 0x08) 32 32
        ∧ s.OnlyRegs s' [(0x07, chOff c 0), (0x07, chOff c 0x10)])
      ∧ (v.toNat.testBit 6 = true → bitOf cfg 6 = false → v.toNat.testBit 5 = bitOf cfg 5 →
        (tb = cmp → Answers (.timerCompareEnable m c v) s matched)
        ∧ (tb ≠ cmp → Answers (.timerCompareEnable m c v) s fun s' => s'.flagOf 0x07 (chOff c 0) 6 = true
          ∧ s'.flagOf 0x07 (chOff c 0) 33 = s.flagOf 0x07 (chOff c 0) 33 ∧ s.OnlyRegs s' [(0x07, chOff c 0)])))
    ∧ (s.cfgReach m 0x07 = true → bitOf cfg 6 = true → field v.toNat 0 32 = tb → cmp ≠ tb → Answers (.timerCmpWrite m c v) s fun s' =>
      s'.flagOf 0x07 (chOff c 0) 33 = true ∧ s'.fieldOf 0x07 (chOff c 0x18) 0 32 = (tb + intv) % 2 ^ 32
      ∧ s'.fieldOf 0x07 (chOff c 0x18) 32 32 = field v.toNat 32 32)
    ∧ (s.cfgReach m 0x07 = true → (bitOf cfg 6 = false ∨ field v.toNat 0 32 ≠ tb) → Answers (.timerCmpWrite m c v) s fun s' =>
      s'.reg 0x07 (chOff c 0x18) = v.toNat ∧ s' = { s with regs := s'.regs } ∧ s.OnlyRegs s' [(0x07, chOff c 0x18)])
    ∧ (s.cfgReach m 0x07 = true → Answers (.registerWrite m 0x07 (BitVec.ofNat 16 (chOff c 0x08)) 8 v) s fun s' =>
      s'.fieldOf 0x07 (chOff c 0x08) 32 32 = field v.toNat 32 32 ∧ s.OnlyRegs s' [(0x07, chOff c 0x08), (0x07, 0x08)]
      ∧ s' = { s with regs := s'.regs })
    ∧ (s.dieOn = true → bitOf cfg 7 = true → exec (.captureRise c) s = .next (s.setTimerCh c { x with rise := some (BitVec.ofNat 32 tb) })
      ∧ (x.rise = some r → Answers (.captureFall c) s fun s' => s'.reg 0x07 (chOff c 0x20) = r.toNat + tb * 2 ^ 32
        ∧ (s'.timerCh c).rise = none ∧ s'.flagOf 0x07 (chOff c 0) 34 = true
        ∧ s'.flagOf 0x07 (chOff c 0) 35 = (s.flagOf 0x07 (chOff c 0) 34 || s.flagOf 0x07 (chOff c 0) 35)
        ∧ (bitOf cfg 10 = true → posted s') ∧ s'.sram = s.sram))
    ∧ (s.cfgReach m 0x07 = true → Answers (.captureRead m c) s fun s' => s'.readData = leBytes 8 (s.reg 0x07 (chOff c 0x20))
      ∧ s'.flagOf 0x07 (chOff c 0) 34 = false ∧ s'.reg 0x07 (chOff c 0x20) = s.reg 0x07 (chOff c 0x20) ∧ s'.sram = s.sram)

/-! ### The Roluljor chain (R411 to R427, R445, R449) -/

/-- R411 to R420: ports come up and go down; a packet with a bad length or CRC is discarded and counted; a request
for another module goes downstream, a response is ready to go upstream, and one for this module is queued, or answered 0x01
when its command is undefined; enumeration gives the head address 1 and any other module the next one. Where the
spec leaves a choice, the clauses follow the model's (log entry 49). -/
def Obligations.ChainPacketsArePassedOrQueued : Prop :=
  ∀ (s : State) (up fails : Bool) (bs : List Byte) (a : Byte) (rest : List (Bool × Byte)),
    let r := requestOf bs fails
    let stays (s' : State) : Prop := s'.sram = s.sram ∧ s'.dram = s.dram ∧ s'.threads = s.threads ∧ s'.smc = s.smc
    let dest := (nth 0 bs 0).toNat
    s.mgtOn = true →
      (s.portUp up = false → Answers (.chainPortUp up) s fun s' => s'.portUp up = true ∧ s'.portUp (!up) = s.portUp (!up)
        ∧ s'.mgt.downOut = (if !up && s.mgtAddr != 0xFF then s.mgt.downOut ++ [enumPacket s.mgtAddr] else s.mgt.downOut)
        ∧ s'.mgt.upOwn = s.mgt.upOwn ∧ stays s')
      ∧ Answers (.chainPortDown up) s (fun s' => s'.portUp up = false ∧ s'.portUp (!up) = s.portUp (!up)
        ∧ s'.mgt = (if up then { s.mgt with upOwn := [], upPassed := [] } else s.mgt) ∧ stays s')
      ∧ (s.portUp up = true →
        let off := if up then 0 else 16
        (packetOk bs = false → Answers (.chainPacket up ⟨bs, fails⟩) s fun s' => s'.mgt = s.mgt ∧ stays s'
          ∧ s'.fieldOf 0x0A 0x10 off 16 = satAdd 16 (s.fieldOf 0x0A 0x10 off 16) 1)
        ∧ (packetOk bs = true → up = false → s.portUp true = true → nth 0 bs 1 ≠ 0x81 →
          exec (.chainPacket up ⟨bs, fails⟩) s = .next { s with mgt := { s.mgt with upPassed := s.mgt.upPassed ++ [bs] } })
        ∧ (packetOk bs = true → up = true → r.cmd ≠ 0x01 → s.portUp false = true → dest ≠ 0 → (dest ≠ s.mgtAddr ∨ s.mgtAddr = 0xFF) →
          exec (.chainPacket up ⟨bs, fails⟩) s = .next { s with mgt := { s.mgt with downOut := s.mgt.downOut ++ [bs] } })
        ∧ (packetOk bs = true → up = true → r.cmd ≠ 0x01 → s.mgtAddr ≠ 0xFF → dest ≠ 0 → dest = s.mgtAddr → s.mgt.queue = [] →
          s.mgt.waiting = none → s.smc.eraseFirst = false → s.remembered r = none →
          (s.endsAtOnce r = none → exec (.chainPacket up ⟨bs, fails⟩) s = .next { s with mgt := { s.mgt with queue := [r] } })
          ∧ (s.smc.recovery = false → r.cmd.toNat ∉ commandCodes → Answers (.chainPacket up ⟨bs, fails⟩) s fun s' => s'.mgt.queue = []
            ∧ s'.mgt.upOwn = s.mgt.upOwn ++ [s.responseTo r 0x01 []] ∧ stays s'))
        ∧ (packetOk bs = true → up = true → r.cmd = 0x01 → r.shaped 1 = true →
          exec (.chainPacket up ⟨bs, fails⟩) s
            = .next { s with mgt := { s.mgt with enums := s.mgt.enums ++ [(dest == s.mgtAddr, nth 0 r.payload 0)] } })
        ∧ (packetOk bs = true → up = true → r.cmd = 0x01 → r.shaped 1 = false → dest ≠ 0 → exec (.chainPacket up ⟨bs, fails⟩) s
          = .next { s with mgt := { s.mgt with upOwn := s.mgt.upOwn ++ [s.responseTo r 0x02 []] } }))
      ∧ (s.power.head = true → s.portUp false = true → Answers .enumStart s fun s' => s'.mgtAddr = 1
        ∧ s'.mgt.downOut = s.mgt.downOut ++ [enumPacket 1] ∧ stays s')
      ∧ (s.mgt.enums = (false, a) :: rest → s.power.head = false → a.toNat < 250 → Answers .enum s fun s' =>
        s'.mgtAddr = a.toNat + 1 ∧ s'.mgt.enums = rest ∧ stays s'
        ∧ (s.portUp false = true → s'.mgt.downOut = s.mgt.downOut ++ [enumPacket (a.toNat + 1)])
        ∧ (s.portUp false = false → s.portUp true = true → s'.mgt.upOwn = s.mgt.upOwn
          ++ [packet (BitVec.ofNat 8 (a.toNat + 1)) 0x81 0 0 [BitVec.ofNat 8 (a.toNat + 1)]]))

/-- R419 to R427, R433: each request of the chain does its work and its answer is ready for the upstream port, 0x06 where
the flash it needs fails:
identification, reads and writes, telemetry, a transfer session opened (FOPEN, FWOPEN), filled and closed with
its digest, the log, the preferred slot, a power request that waits, and a reboot that commits the log and
starts anew. Where the spec leaves a choice, the clauses follow the model's (log entries 49, 50 and 54). -/
def Obligations.ChainRequestsAreExecutedAndAnswered : Prop :=
  ∀ (s : State) (r : Request) (a n : Nat) (bs : List Byte) (x : Session) (p : Telemetry) (code : Byte),
    let one (cmd : Nat) : Prop := s.mgtOn = true ∧ s.mgt.queue = [r] ∧ s.mgt.waiting = none ∧ r.cmd.toNat = cmd
      ∧ s.mayExecute cmd = true ∧ r.bcast = false ∧ r.status = 0 ∧ s.portUp true = true
    let answered (status : Nat) (payload : List Byte) (s' : State) : Prop :=
      s'.mgt.upOwn = s.mgt.upOwn ++ [s.responseTo r status payload] ∧ s'.mgt.queue = [] ∧ s'.mgt.waiting = none
    let gap := firstGap x.data 0
    let closed := leBytes 4 x.data.length ++ leBytes 4 gap ++ sha384 (flashRead x.data 0 x.len)
    (one 0x02 → r.payload = [] → Answers .ident s fun s' => answered 0 (leBytes 8 (s.regView 0x00 0x00)
      ++ leBytes 8 (s.regView 0x00 0x48) ++ leBytes 8 (s.mgtAddr + powerCode s.power.st * 2 ^ 8 + s.life.code * 2 ^ 16)) s'
      ∧ s' = { s with mgt := s'.mgt })
    ∧ (s.dieOn = true → a % 8 = 0 → a < 2 ^ 48 → (∀ k, k < n → (∃ off, s.baseRegion (a + 8 * k) = .mailbox off) ∧ s.flip (a + 8 * k) = 0) →
      (one 0x10 → 1 ≤ n → n ≤ 64 → r.payload = leBytes 8 a ++ leBytes 2 n ++ List.replicate 6 0 → Answers .read s fun s' =>
        answered 0 (s.sramBytes a (8 * n)) s' ∧ s'.sram = s.sram ∧ s'.regs = s.regs ∧ s'.dram = s.dram ∧ s'.threads = s.threads)
      ∧ (one 0x11 → 1 ≤ n → n ≤ 512 → bs.length = 8 * n → r.payload = leBytes 8 a ++ leBytes 2 n ++ List.replicate 6 0 ++ bs →
        Answers .write s fun s' => answered 0 [] s' ∧ (∀ j, j < 8 * n → s'.sramByte (a + j) = nth 0 bs j)
          ∧ (∀ j, j < a ∨ a + 8 * n ≤ j → s'.sramByte j = s.sramByte j) ∧ s'.regs = s.regs ∧ s'.dram = s.dram))
    ∧ (one 0x20 → r.payload ≠ [] → r.payload.length ≤ 32 → (∀ b ∈ r.payload, b.toNat < 0x0C) → Answers .telem s fun s' =>
      answered 0 (r.payload.flatMap fun b => [b, 0] ++ leBytes 4 (nth 0 s.power.telem b.toNat)) s' ∧ s' = { s with mgt := s'.mgt })
    ∧ (s.on = true → Answers (.telemetrySample p) s fun s' => s'.power.uptimeMs = s.power.uptimeMs + 10
      ∧ s'.power.telem = [p.vin.toNat, p.current.toNat, p.power.toNat, p.plate.toNat, wrapNat 32 s.hottest, p.dram.toNat,
        s.fieldOf 0x03 0x08 0 6, powerCode s.power.st, (s.power.uptimeMs + 10) / 1000,
        if s.dieOn && !s.noClock then p.bclk.toNat else 0, s.slots, (deviceLinks.filter fun l => s.linkFailed l).length]
      ∧ s' = { s with power := s'.power })
    ∧ (∀ t, one 0x30 → openTarget code.toNat n = some t → n < 2 ^ 32 → r.payload = [code, 0, 0, 0] ++ leBytes 4 n → s.mgt.session = none →
      (∀ b, lathSlot t = some b → s.busy = false ∧ (s.smc.image = none ∨ s.smc.imageSlotB ≠ b)) → r.flashFails = false → Answers .fopen s fun s' =>
        answered 0 [] s' ∧ s'.mgt.session = some ⟨t, n, []⟩ ∧ s'.smc.cells t = (if t = .staging then [] else eraseSectors (s.smc.cells t) n))
    ∧ (one 0x78 → 0x140 ≤ n → n ≤ 0x00800000 → n % 64 = 0 → r.payload = leBytes 4 n → s.mgt.session = none →
      (r.flashFails = true → Answers .fwopen s fun s' => answered 0x06 [] s' ∧ s'.mgt.session = none ∧ s'.smc = s.smc)
      ∧ (r.flashFails = false → Answers .fwopen s fun s' => answered 0 [] s' ∧ s'.mgt.session = some ⟨.firmware s.fwTarget, n, []⟩
        ∧ s'.smc = s.smc.setCells (.firmware s.fwTarget) (eraseSectors (s.smc.cells (.firmware s.fwTarget)) n)))
    ∧ (one 0x31 → s.mgt.session = some x → s.sessionBusy = none → 1 ≤ bs.length → bs.length ≤ 4096 → n < 2 ^ 32 → n + bs.length ≤ x.len →
      r.payload = leBytes 4 n ++ bs → x.agrees n bs = true →
      (x.target ≠ .staging → r.flashFails = true → Answers .fdata s fun s' => answered 0x06 [] s' ∧ s'.mgt.session = some x ∧ s'.smc = s.smc)
      ∧ (r.flashFails = false → Answers .fdata s fun s' => answered 0 [] s'
        ∧ s'.mgt.session = some (x.put n bs) ∧ s'.smc = s.smc.setCells x.target (programBytes (s.smc.cells x.target) n bs)))
    ∧ (one 0x32 → s.mgt.session = some x → s.sessionBusy = none → r.payload = [] → r.flashFails = false →
      (x.len ≤ gap → Answers .fclose s fun s' => answered 0 closed s' ∧ s'.mgt.session = none ∧ s'.smc = s.smc
        ∧ (x.target = .staging → s'.mgt.staged = some (flashRead x.data 0 x.len)))
      ∧ (gap < x.len → Answers .fclose s fun s' => answered 0x07 closed s' ∧ s'.mgt.session = some x ∧ s'.smc = s.smc))
    ∧ (one 0x34 → (code = 1 ∨ code = 2) → r.payload = [code] →
      (r.flashFails = true → Answers .lpref s fun s' => answered 0x06 [] s' ∧ s'.smc = s.smc)
      ∧ (r.flashFails = false → Answers .lpref s fun s' => answered 0 [] s' ∧ s'.smc = { s.smc with prefB := code == 2 }))
    ∧ (one 0x40 → 1 ≤ code.toNat → code.toNat ≤ 16 → n < 2 ^ 32 → r.payload = leBytes 4 n ++ [code, 0, 0, 0] → r.flashFails = false →
      Answers .logread s fun s' =>
      answered 0 (((s.cairn.committed.filter fun y => decide (n ≤ y.seq)).take code.toNat).flatMap recordBytes) s' ∧ s'.cairn = s.cairn)
    ∧ (∀ t, one 0x50 → powerTarget code.toNat = some t → r.payload = [code] → s.busy = false → (t = .run → s.smc.image ≠ none) →
      (t = .standby ∨ s.power.cool = true) →
      (s.power.st = t → Answers .power s fun s' => answered 0 [] s' ∧ s'.power.st = t ∧ s'.power.target = none)
      ∧ (s.power.st ≠ t → Answers .power s fun s' => s'.power.target = some t ∧ s'.power.st = s.power.st ∧ s'.mgt.waiting = some r
        ∧ s'.mgt.upOwn = s.mgt.upOwn ∧ s'.mgt.queue = []))
    ∧ (one 0x51 → r.payload = [] → s.mgt.session = none → Answers .reboot s fun s' =>
      s'.mgt.upOut = s.mgt.upOut ++ s.mgt.upPassed ++ s.mgt.upOwn ++ [s.responseTo r 0 []] ∧ s'.power.st = .standby ∧ s'.smc.running = false ∧ s'.power.uptimeMs = 0
      ∧ s'.cairn.boot = s.cairn.boot + 1 ∧ s'.cairn.queue = [] ∧ (∀ y ∈ s.cairn.queue, y ∈ s'.cairn.seg0 ++ s'.cairn.seg1)
      ∧ s'.regs = [] ∧ s'.sram.mem = [] ∧ s'.threads = State.reset.threads ∧ s'.fuses = s.fuses ∧ s'.smc.slotA = s.smc.slotA)

/-! ### Identity, authorisation, life cycle (R434 to R449) -/

/-- R428, R437 to R439, R445, R449: a challenge is fresh and current; the identity key, the certificate and lath
readback are given out as the state permits; BLANK stores a certificate; an attestation is the report, signed;
LCLOSE closes debug. Where the spec leaves a choice, the clauses follow the model's (log entry 50). -/
def Obligations.IdentityRequestsAreAnswered : Prop :=
  ∀ (s : State) (r : Request) (c : List Byte) (off n : Nat),
    let one (cmd : Nat) : Prop := s.mgtOn = true ∧ s.mgt.queue = [r] ∧ s.mgt.waiting = none ∧ r.cmd.toNat = cmd
      ∧ s.mayExecute cmd = true ∧ r.bcast = false ∧ r.status = 0 ∧ s.portUp true = true
    let answered (status : Nat) (payload : List Byte) (s' : State) : Prop :=
      s'.mgt.upOwn = s.mgt.upOwn ++ [s.responseTo r status payload] ∧ s'.mgt.queue = [] ∧ s'.mgt.waiting = none ∧ s'.fuses = s.fuses
    (one 0x70 → r.payload = [] → Answers .challenge s fun s' => ∃ nonce, s'.smc.challenge = some (nonce, s.power.uptimeMs)
      ∧ answered 0 (hashBytes nonce) s' ∧ s'.smc = { s.smc with challenge := s'.smc.challenge })
    ∧ (one 0x73 → r.payload = [] → Answers .idpub s fun s' => answered 0 (publicKey s.fuses.identity) s' ∧ s'.smc = s.smc)
    ∧ (one 0x74 → r.payload = [] → s.smc.cert = some c → r.flashFails = false → Answers .certread s fun s' => answered 0 c s' ∧ s'.smc = s.smc)
    ∧ (one 0x74 → r.payload = [] → s.smc.cert = none → Answers .certread s (answered 0x03 []))
    ∧ (one 0x75 → r.payload = c → 1 ≤ c.length → c.length ≤ 4096 → s.life = .blank → certAccepted (publicKey s.fuses.identity) c = true →
      (r.flashFails = true → Answers .certstore s fun s' => answered 0x06 [] s' ∧ s'.smc = s.smc)
      ∧ (r.flashFails = false → Answers .certstore s fun s' => answered 0 [] s' ∧ s'.smc = { s.smc with cert := some c }))
    ∧ (one 0x75 → r.payload = c → 1 ≤ c.length → c.length ≤ 4096 → s.life ≠ .blank →
      Answers .certstore s fun s' => answered 0x05 [] s' ∧ s'.smc = s.smc)
    ∧ (one 0x76 → r.payload = leBytes 4 off ++ leBytes 2 n ++ [0, 0] → 1 ≤ n → n ≤ 4096 → off < 2 ^ 32 → s.smc.image = some c →
      (mayReadLath s.life = true → off + n ≤ c.length → r.flashFails = false → Answers .lread s fun s' => answered 0 (slice c off n) s' ∧ s'.smc = s.smc)
      ∧ (mayReadLath s.life = false → Answers .lread s fun s' => answered 0x05 [] s' ∧ s'.smc = s.smc))
    ∧ (one 0x77 → r.payload = [] → s.life = .ownedDebug → Answers .lclose s fun s' => answered 0 [] s'
      ∧ s'.smc = { s.smc with debug := false } ∧ s'.life = .owned)
    ∧ (one 0x72 → r.payload.length = 48 → Answers .attest s fun s' => ∃ k, 1 ≤ k ∧ k < n384 ∧ s'.smc = s.smc ∧
      answered 0 (s.attestReport r.payload ++ ecdsaSign s.fuses.identity k (sha384 (s.attestReport r.payload))) s')

/-- R441 to R448: an authorised action that passes checks 1 to 6 consumes the challenge, reports in SEC_AUTHSTAT,
blows the fuses it names and is answered; one signed by a key of another signer blows nothing; RETURN and SCRAP
begin the erasure, which zeroes slots, certificate and memories. Where the spec leaves a choice, the clauses
follow the model's (log entry 50). -/
def Obligations.AuthorisedActionsBlowFuses : Prop :=
  ∀ (s : State) (r : Request) (blown : Nat),
    let one (action : Nat) : Prop := s.mgtOn = true ∧ s.mgt.queue = [r] ∧ s.mgt.waiting = none ∧ r.cmd = 0x71
      ∧ s.mayExecute 0x71 = true ∧ r.bcast = false ∧ s.portUp true = true ∧ r.action = some action
    let answered (status reason action : Nat) (s' : State) : Prop := s'.mgt.upOwn = s.mgt.upOwn ++ [s.responseTo r status []]
      ∧ s'.mgt.queue = [] ∧ s'.smc.challenge = none ∧ s'.reg 0x02 0x18 = action + reason * 256 + 65536 ∧ s'.sram = s.sram
    let passes (extra : Nat) (arg : Bool) (who : Option Signer) : Prop := r.authShape extra arg = true ∧ s.authReason r ⟨true, who, 0⟩ = 0
    let owner := ownerOnly s.life
    let k := slotArg r.arg
    let x := s.fuses.slot k
    let ks := maskSlots r.arg
    let erases (s' : State) : Prop := s'.smc.erasing = true ∧ s'.smc.image = none ∧ s'.smc.debug = false ∧ s'.sram = s.sram
    (one 0x01 → passes 0 false (onlyIn s.life .owned .owner) → Answers .openDebug s fun s' => answered 0 0 0x01 s'
      ∧ s'.fuses = s.fuses ∧ s'.smc.debug = true)
    ∧ (one 0x01 → r.authShape 0 false = true → s.authReason r ⟨true, onlyIn s.life .owned .owner, 0⟩ = 4 → Answers .openDebug s fun s' =>
      answered 0x05 4 0x01 s' ∧ s'.fuses = s.fuses ∧ s'.smc.debug = s.smc.debug)
    ∧ (one 0x03 → passes 0 true owner → s.fuses.lathSvnMin ≤ r.arg → r.arg ≤ 128 → s.smc.image ≠ none → r.arg ≤ s.smc.lathSvn →
      r.arg ≤ s.fuses.lathSvnMin + blown → Answers (.lathSvn blown) s fun s' => answered 0 0 0x03 s'
        ∧ s'.fuses = { s.fuses with lathSvnMin := r.arg })
    ∧ (one 0x04 → passes 0 true (lathSigner s.life) → s.fuses.fwSvnMin ≤ r.arg → r.arg ≤ 64 → r.arg ≤ s.smc.fwSvn →
      r.arg ≤ s.fuses.fwSvnMin + blown → Answers (.fwSvn blown) s fun s' => answered 0 0 0x04 s'
        ∧ s'.fuses = { s.fuses with fwSvnMin := r.arg })
    ∧ (one 0x05 → passes 0 true owner → r.arg < 4 → (keySlots.any fun j => j != k && (s.fuses.slot j).usable) = true → 1 ≤ blown →
      Answers (.revoke blown) s fun s' => answered 0 0 0x05 s' ∧ s'.fuses = s.fuses.setSlot k { x with revoked := true }
        ∧ (s'.fuses.slot k).usable = false)
    ∧ (one 0x06 → passes (r.payload.length - 256) false owner → 257 ≤ r.payload.length → r.payload.length ≤ 4352 →
      certAccepted (publicKey s.fuses.identity) r.extra = true → Answers .cert s fun s' => answered 0 0 0x06 s'
        ∧ s'.fuses = s.fuses ∧ s'.smc.cert = some r.extra)
    ∧ (one 0x08 → passes 48 true owner → r.arg < 4 → x.programmed = false → x.hash = 0 → x.positions (hashOf r.extra) ≤ blown →
      Answers (.addkey blown) s fun s' => answered 0 0 0x08 s' ∧ (s'.fuses.slot k).hash = hashOf r.extra
        ∧ (s'.fuses.slot k).programmed = true ∧ ∀ j, j ≠ k → s'.fuses.slot j = s.fuses.slot j)
    ∧ (1 ≤ blown →
      (one 0x10 → passes 0 false (onlyIn s.life .test .vendor) → Answers (.toBlank blown) s fun s' => answered 0 0 0x10 s'
        ∧ s'.fuses = { s.fuses with count := s.fuses.count + 1 } ∧ s'.life = .blank)
      ∧ (one 0x12 → passes 0 false (onlyIn s.life .ret .vendor) → s.fuses.rcount < 3 → s.smc.erasing = false → Answers (.reblank blown) s fun s' =>
        answered 0 0 0x12 s' ∧ s'.fuses = { s.fuses with count := s.fuses.count + 1 } ∧ s'.life = .blank)
      ∧ (one 0x02 → passes 0 false owner → s.busy = false → Answers (.returnAction blown) s fun s' => erases s'
        ∧ s'.fuses = { s.fuses with count := s.fuses.count + 1 } ∧ s'.life = .ret)
      ∧ (one 0x07 → passes 0 false (lathSigner s.life) → s.busy = false → Answers (.scrap blown) s fun s' => erases s'
        ∧ s'.fuses = { s.fuses with scrap := true } ∧ s'.life = .scrap))
    ∧ (one 0x11 → passes (48 * ks.length) true (onlyIn s.life .blank .vendor) → 0 < r.arg → r.arg < 16 → s.smc.cert ≠ none →
      1 ≤ (s.fuses.provision ks r.extra blown).2 → Answers (.provision blown) s fun s' => answered 0 0 0x11 s'
        ∧ s'.fuses = { (s.fuses.provision ks r.extra blown).1 with count := s.fuses.count + 1 })
    ∧ (s.smc.erasing = true → s.mgtOn = true → s.inRun = false → s.power.target = none → s.dieOn = true → s.mgt.queue = [] →
      Answers .erasureComplete s fun s' => s'.smc.erasing = false ∧ s'.smc.slotA = [] ∧ s'.smc.slotB = [] ∧ s'.smc.cert = none
        ∧ (∀ a, s'.sramByte a = 0) ∧ (∀ a, a < s.deepSize → s'.dram.byte a = 0) ∧ s'.fuses = s.fuses
        ∧ (∀ y ∈ s.cairn.seg0, isRepairRecord y.typ.toNat = true → y ∈ s'.cairn.seg0) ∧ ∀ y ∈ s'.cairn.seg0, isRepairRecord y.typ.toNat = true)

/-! ### Power (R431, R472, R473, R479 to R488) and the rate servo (R62 to R76) -/

/-- R431, R472, R473, R479, R483 to R488: the module comes up in STANDBY with the pins sampled; the boot ROM runs a
copy that passes or stays in recovery; transitions reach the next state with what that state keeps; a thermal
trip, MRST_N and a PFAIL stop everything, the queued records are committed, and recovery boots anew. Where the
spec leaves a choice, the clauses follow the model's (log entries 45, 48 and 54). -/
def Obligations.PowerStatesFollowTheTransitions : Prop :=
  ∀ (s : State) (p : Pins) (h slope ct : Bool) (tr : BitVec 32) (t : ThreadId) (g : RidgeId) (i : Fin 32) (n : Fin 8) (c : PfailCause) (d r l : Int),
    let anew (s' : State) : Prop := s'.power.st = .standby ∧ s'.power.target = none ∧ s'.power.pfail = none ∧ s'.power.uptimeMs = 0
      ∧ s'.smc.running = false ∧ s'.smc.image = none ∧ s'.threads = State.reset.threads ∧ s'.regs = [] ∧ s'.sram.mem = []
      ∧ s'.cairn.boot = s.cairn.boot + 1 ∧ s'.fuses = s.fuses ∧ s'.smc.slotA = s.smc.slotA ∧ s'.smc.cert = s.smc.cert
    let committed (s' : State) : Prop := s'.cairn.queue = [] ∧ ∀ y ∈ s.cairn.queue, y ∈ s'.cairn.seg0 ++ s'.cairn.seg1
    let stopped (s' : State) : Prop := (t.val < 256 → s'.thread t = Thread.reset) ∧ (s'.ridge g).streams = []
    let quiet := s.repairing = false ∧ s.busy = false
    let fails (i : Instr) (cause : PfailCause) : Prop := Answers i s fun s' => stopped s' ∧ s'.power.st = .off
      ∧ s'.power.pfail = some cause ∧ s'.power.drained = false ∧ s'.mgt.queue = [] ∧ s'.mgt.waiting = none ∧ s'.smc.op = none
      ∧ s'.sram.mem = [] ∧ s'.dram.deep = [] ∧ s'.fuses = s.fuses
    (s.power.st = .off → 4400 ≤ p.vin → p.vin ≤ 18000 → p.mrstN = true → Answers (.turnOn p) s fun s' => anew s'
      ∧ s'.power.holdStby = !p.holdStbyN ∧ s'.power.head = !p.chainHeadN ∧ s'.power.refext = (!p.refsel && p.refclkExt))
    ∧ (s.power.st = .standby → s.smc.running = false → s.smc.recovery = false → s.power.pfail = none →
      (s.fwChoice = none → exec .smcBoot s = .next { s with smc := { s.smc with recovery := true } })
      ∧ (s.fwChoice = some h → Answers .smcBoot s fun s' => s'.smc.running = true ∧ s'.smc.fwBytes = s.smc.fwCopy h
        ∧ s'.flagOf 0x02 0x08 1 = h ∧ s'.power.target = (if s.power.holdStby then none else some .idle)
        ∧ s'.thread ⟨256 + n.val, by omega⟩ = { Thread.reset with st := .running } ∧ (t.val < 256 → s'.thread t = s.thread t)
        ∧ s'.sram = s.sram ∧ s'.dram = s.dram))
    ∧ (s.power.st = .standby → s.smc.running = true → s.power.target = some .idle → Answers (.standbyToIdle tr) s fun s' =>
      s'.power.st = .idle ∧ s'.power.target = none ∧ s'.trained i = tr.getLsbD i.val ∧ s'.lostIf i = !tr.getLsbD i.val
        ∧ s'.noClock = true ∧ s'.sram = s.sram ∧ s'.dram.deep = s.dram.deep)
    ∧ (quiet → s.power.st = .run → s.power.target = some .idle → Answers .powerTransitionComplete s fun s' => stopped s'
      ∧ s'.power.st = .idle ∧ s'.power.target = none ∧ s'.power.ctRetained = true ∧ s'.power.mbxRetained = true
      ∧ s'.sram.mem = s.sram.mem ∧ s'.dram.deep = s.dram.deep ∧ s'.smc.image = s.smc.image ∧ s'.colQuiet = true)
    ∧ (quiet → s.power.st = .idle → s.power.target = some .standby → Answers .powerTransitionComplete s fun s' => stopped s'
      ∧ s'.power.st = .standby ∧ s'.power.target = none ∧ s'.sram.mem = [] ∧ s'.dram.deep = [] ∧ s'.smc.image = s.smc.image)
    ∧ (quiet → s.power.st = .idle → s.power.target = some .run → Answers .powerTransitionComplete s fun s' =>
      s'.power.st = .run ∧ s'.power.target = none ∧ s'.smc.image = s.smc.image ∧ s'.col.waitMarker = true
        ∧ (s'.ridge g).micro = (s.contentInEffect g.val).micro ∧ (s'.ridge g).nano = nanoCells (s.contentInEffect g.val).nano)
    ∧ (s.power.st = .idle → exec (.retentionTimeout ct) s = .next { s with
      power := { s.power with ctRetained := s.power.ctRetained || ct, mbxRetained := s.power.mbxRetained || !ct } })
    ∧ (s.on = true → (105 ≤ d ∨ 95 ≤ r ∨ 70 ≤ l) → s.mgt.waiting = none → Answers (.thermalTrip d r l) s fun s' => stopped s' ∧ committed s'
      ∧ s'.power.st = .standby ∧ s'.power.target = none ∧ s'.power.thermal = true ∧ s'.power.domainT = d ∧ s'.power.dramT = r
      ∧ s'.power.plateT = l ∧ s'.smc.op = none ∧ s'.sram.mem = [])
    ∧ (s.on = true → s.power.pfail = none → fails (.pfail slope) (if slope then .slope else .level) ∧ fails .mrst .level)
    ∧ (s.power.pfail = some c → s.power.drained = false → Answers .pfailDrainComplete s fun s' => committed s'
      ∧ s'.power.drained = true ∧ s'.sram = s.sram)
    ∧ (s.power.pfail.isSome = true → s.power.drained = true → Answers .pfailRecovery s anew)

/-- R62 to R75: an update steps the CODE of a domain that is on: HOLD keeps it, MANUAL sets it, a monitor fault or
an exhausted ladder goes to 120, AUTO adds 4 below 1,550 M steps/s and 1 below the target, keeps it up to 2 %
above and takes 1 off above that; a domain that is off has CODE 0; a monitor fault makes the site faulty and its
ridge's move due. Where the spec leaves a choice, the clauses follow the model's (log entries 15 and 54). -/
def Obligations.RateServoStepsTheCode : Prop :=
  ∀ (s : State) (rs : List RateReading) (n : Fin 35) (x : RateReading),
    let reg := s.reg 0x03 (domReg n)
    let old := if field reg 0 7 = 0 then 100 else field reg 0 7
    let mode := s.fieldOf 0x03 0x10 0 2
    let target := 10 * s.fieldOf 0x03 0x10 4 8
    let rate := min x.mon0 x.mon1
    let fault := bitOf reg 38 || monitorsDisagree x.mon0 x.mon1
    let steps (code : Nat) : Prop := Answers (.rateServoUpdate rs) s fun s' => s'.fieldOf 0x03 (domReg n) 0 7 = code
      ∧ s'.fieldOf 0x03 (domReg n) 16 12 = min rate 4095 ∧ s'.flagOf 0x03 (domReg n) 38 = fault
      ∧ s'.flagOf 0x03 (domReg n) 36 = decide (code = 120) ∧ s'.fieldOf 0x03 (domReg n) 28 8 = wrapNat 8 x.tj
      ∧ s'.sram = s.sram ∧ s'.dram = s.dram ∧ s'.threads = s.threads
    let calm : Prop := ∀ k : Fin 35, s.domainOn k = true → s.flagOf 0x03 (domReg k) 38 = false
      ∧ ∀ y, rs[k.val]? = some y → monitorsDisagree y.mon0 y.mon1 = false
    s.inRun = true → s.holdExit rs = false →
      (s.domainOn n = true → rs[n.val]? = some x → s.repair.move ≠ none → s.smc.op = none → fault = true →
        steps 120 ∧ ∀ (g : RidgeId) (h : n.val < 34), s.ridgeAt ⟨n.val, h⟩ = some g → s.siteOf g ≠ none →
          Answers (.rateServoUpdate rs) s fun s' => (s'.ridge g).siteFaulty = true ∧ ∃ q ∈ s'.repair.moveQueue, q.1 = g)
      ∧ (s.domainOn n = true → rs[n.val]? = some x → calm →
        (mode = 1 → steps old)
        ∧ (mode = 2 → field reg 8 7 ≠ 0 → steps (field reg 8 7))
        ∧ (mode = 0 →
          (rate < 1550 → steps (min 120 (old + 4)))
          ∧ (1550 ≤ rate → rate < target → steps (min 120 (old + 1)))
          ∧ (1550 ≤ rate → target ≤ rate → rate * 100 ≤ target * 102 → steps old)
          ∧ (1550 ≤ rate → target * 102 < rate * 100 → steps (max 8 (old - 1)))))
      ∧ (s.domainOn n = false → calm → Answers (.rateServoUpdate rs) s fun s' => s'.fieldOf 0x03 (domReg n) 0 7 = 0
        ∧ s'.flagOf 0x03 (domReg n) 37 = false)

/-! ### Laths (R43 to R58) -/

/-- R43 to R57, R427, R497: a boot load, a load or a push starts its checks; a failed check reports RESULT, SECTION
and OFFSET and leaves the image in effect, or the boot load goes on with the other slot; a pass begins the apply
phase or the drain; a full image then is in effect and runs; a re-lath swaps the stores of one ridge, and its
self-test ends it. Where the spec leaves a choice, the clauses follow the model's (log entries 41 to 43). -/
def Obligations.LathImagesAreCheckedAndApplied : Prop :=
  ∀ (s : State) (r : Request) (code : Byte) (o : LathOp) (g : RidgeId) (n : Fin 8) (bs : List Byte),
    let one (cmd : Nat) : Prop := s.mgtOn = true ∧ s.mgt.queue = [r] ∧ s.mgt.waiting = none ∧ r.cmd.toNat = cmd
      ∧ s.mayExecute cmd = true ∧ r.bcast = false ∧ r.status = 0 ∧ s.portUp true = true
    let answered (status : Nat) (payload : List Byte) (s' : State) : Prop :=
      s'.mgt.upOwn = s.mgt.upOwn ++ [s.responseTo r status payload] ∧ s'.mgt.queue = [] ∧ s'.mgt.waiting = none
    let starts (src : LathSource) (retry : Bool) (s' : State) : Prop :=
      s'.smc.op = some ⟨src, .checking, retry, src != slotSource s.smc.prefB, 0, []⟩ ∧ s'.fieldOf 0x00 0x40 16 4 = sourceCode src
      ∧ s'.sram = s.sram ∧ s'.threads = s.threads ∧ s'.smc.image = s.smc.image
    let reports (x : LathFail) (s' : State) : Prop := s'.fieldOf 0x00 0x40 0 8 = x.res % 256 ∧ s'.fieldOf 0x00 0x40 8 8 = x.sec % 256
      ∧ s'.fieldOf 0x00 0x40 32 32 = x.off % 2 ^ 32
    let still := s.repair.moveQueue = [] ∧ s.repair.swapQueue = [] ∧ s.mgt.waiting = none
    let img := s.lathImage o.src
    let content := contentOf (sectionsOf o.image) g.val
    let ends (x : LathFail) (s' : State) : Prop := reports x s' ∧ s'.smc.op = none ∧ s'.smc.image = s.smc.image ∧ s'.sram = s.sram
      ∧ s'.threads = s.threads
    (s.smc.bootLoad = true → s.smc.running = true → s.power.st = .idle → s.power.target = none → s.smc.op = none → s.smc.eraseFirst = false →
      Answers .bootLathLoad s fun s' => starts (slotSource s.smc.prefB) true s' ∧ s'.smc.bootLoad = false)
    ∧ (one 0x35 → (code = 1 ∨ code = 2) → r.payload = [code] →
      (s.lathTurnedAway = false → (∀ x, s.mgt.session = some x → lathSlot x.target ≠ some (code == 2)) → s.power.thermal = false →
        Answers .lload s fun s' => starts (slotSource (code == 2)) false s' ∧ s'.mgt.waiting = some r ∧ s'.mgt.upOwn = s.mgt.upOwn
          ∧ (s.power.st = .standby → s'.power.target = some .idle))
      ∧ (s.lathTurnedAway = true → Answers .lload s fun s' => answered 0x04 [0x0E] s' ∧ s'.smc = s.smc ∧ s'.regs = s.regs))
    ∧ (one 0x36 → r.payload = [] → s.lathTurnedAway = false → s.mgt.staged = some bs → Answers .lpush s fun s' =>
      starts .push false s' ∧ s'.mgt.waiting = some r ∧ s'.mgt.upOwn = s.mgt.upOwn)
    ∧ (s.smc.op = some o → o.phase = .checking → (s.dieOn = true ∨ (o.src = .push ∧ s.on = true)) → still →
      (o.src ≠ .push → o.bootRetry = false → Answers (.lathCheckComplete true) s (ends ⟨0, 0xFF, 0x0C⟩))
      ∧ Answers (.lathCheckComplete false) s fun s' =>
        match s.checkLath o.src with
        | some f => if o.bootRetry then
            let other := slotSource (o.src == LathSource.slotA)
            s'.smc.op = some ⟨other, .checking, false, true, 0, []⟩ ∧ s'.fieldOf 0x00 0x40 16 4 = sourceCode other
              ∧ s'.sram = s.sram ∧ s'.threads = s.threads ∧ s'.smc.image = s.smc.image ∧ reports f s'
          else ends f s'
        | none =>
          if o.src = .push then
            s'.smc.op = some { o with phase := .draining, ridge := relathTarget (sectionsOf img), image := img }
              ∧ (s'.ridge (relathTarget (sectionsOf img))).draining = true ∧ s'.sram = s.sram ∧ s'.threads = s.threads
          else s'.smc.op = some { o with phase := .applying, image := img } ∧ s'.thread (threadOf g n) = Thread.reset
            ∧ (s'.ridge g).streams = [] ∧ s'.smc.image = s.smc.image ∧ s'.sram.mem = s.sram.mem)
    ∧ (s.smc.op = some o → o.phase = .applying → still → Answers .lathLoadComplete s fun s' => s'.smc.op = none
      ∧ s'.smc.image = some o.image ∧ s'.smc.partials = [] ∧ s'.power.st = .run ∧ s'.reg 0x00 0x48 = leAt o.image 0x18 8
      ∧ reports ⟨0, 0, 0⟩ s' ∧ s'.flagOf 0x00 0x40 24 = true ∧ (s'.ridge g).micro = content.micro ∧ (s'.ridge g).nano = nanoCells content.nano
      ∧ s'.col.waitMarker = true)
    ∧ (s.smc.op = some o → o.phase = .draining → o.ridge = g → Answers .relathSwap s fun s' =>
      s'.smc.op = some { o with phase := .testing } ∧ (s'.ridge g).relath = true ∧ (s'.ridge g).draining = false
        ∧ (s'.thread (threadOf g n)).st = .reset ∧ (s'.ridge g).micro = (s'.contentInEffect g.val).micro
        ∧ s'.smc.partials = s.smc.withPartial g.val o.image)
    ∧ (s.smc.op = some o → o.phase = .testing → o.ridge = g → (s.ridge g).moving = false →
      (still → Answers (.relathSelftestDone true) s fun s' => s'.smc.op = none ∧ (s'.ridge g).relath = false ∧ reports ⟨0, 0, 0⟩ s'
        ∧ s'.fieldOf 0x00 0x50 32 16 = satAdd 16 (s.fieldOf 0x00 0x50 32 16) 1 ∧ s'.sram = s.sram)
      ∧ (∀ st more, s.repair.moveQueue = [] → s.repair.move = none → s.inRun = true → (s.siteOf g).isSome = true → o.src = .push →
        (s.ridge g).swap = none → (s.ridge g).offline = false → s.sram.borrow = none → s.freeSites true = st :: more →
        Answers (.relathSelftestDone false) s fun s' =>
          s'.repair.move = some (g, st) ∧ (s'.ridge g).siteFaulty = true ∧ (s'.ridge g).moving = true
          ∧ s'.smc.op = some { o with phase := .failed } ∧ ((s.ridge g).streams = [] → s'.sram.mem = s.sram.mem)))

/-! ### Sweep and repair (R206, R207, R249, R450 to R477) -/

/-- R452 to R456, R459, R468, R477: a test of a free resource starts and shows in SWP_STATUS; a pass makes scaffold
of it, a failure retires it; a borrowed bank returns or is repaired; a compare clears what waited for the sweep;
scrubs and window scrubs leave undisturbed data as it is; progress and the end of a cycle are recorded. Where
the spec leaves a choice, the clauses follow the model's (log entries 46, 47 and 57). -/
def Obligations.SweepTestsResources : Prop :=
  ∀ (s : State) (st : SiteId) (slot : Fin 18) (b : SramBank) (w : ScaffoldOf) (row : Nat) (g : RidgeId) (pf : ParityFail) (ct : Bool)
    (n : Fin 16) (base size : Nat) (pb : Fin 1024) (lane : Fin 16) (k : Nat),
    let shows (x : Item) (s' : State) : Prop := x ∈ s'.repair.items ∧ s'.flagOf 0x0B 0x08 1 = true ∧ s'.fieldOf 0x0B 0x08 4 4 = x.kind
      ∧ s'.sram.mem = s.sram.mem ∧ s'.threads = s.threads ∧ s'.dram.deep = s.dram.deep
    let done (x : Item) (ok : Bool) (s' : State) : Prop := x ∉ s'.repair.items ∧ s'.repair.itemIndex = s.repair.itemIndex + 1
      ∧ s'.repair.failures = s.repair.failures + b2n (!ok) ∧ (ok = false → s'.flagOf 0x0B 0x08 3 = true)
    let still := s.repair.moveQueue = [] ∧ s.repair.swapQueue = [] ∧ s.smc.op = none
    let x : Item := .slot st slot
    let y := s.site st
    let bit := BitVec.ofNat 18 (2 ^ slot.val)
    (s.sweeping = true →
      (s.ridgeAt st = none → s.siteRetired st.val = false → s.repair.items.contains (.site st) = false → s.repair.move = none →
        Answers (.fullSiteTest st) s fun s' => shows (.site st) s' ∧ s'.fieldOf 0x03 (0x100 + 8 * st.val) 0 7 = 100)
      ∧ ((s.spareSlots st).contains slot.val = true → s.repair.items.contains x = false → s.itemAvailable x = true →
        Answers (.scaffoldSlotTest st slot) s (shows x))
      ∧ (s.flagOf 0x0B 0x10 1 = true → s.ridgeAt st = some g → s.leastTested st = some (k, lane) → (s.ridge g).swap = none →
        (s.repair.items.any (slotItemOf st)) = false → s.itemAvailable (.slot st (slotOfNat k)) = true → s.busy = false →
        s.readySlots st ≠ [] → s.ridgeRuns g = true → Answers (.laneRotation st) s fun s' => shows (.slot st (slotOfNat k)) s'
          ∧ (s'.ridge g).swap = some lane)
      ∧ (scaffoldFor b = some w → s.sram.borrow = none → s.sram.lost.contains b = false → s.scaffoldReady w = true →
        s.itemAvailable (.sram b) = true → Answers (.sramBorrow b) s fun s' => shows (.sram b) s' ∧ s'.sram.borrow = some ⟨b, true⟩)
      ∧ (s.scaffoldUsed w = false → s.sram.borrow = none →
        Answers (.scaffoldBankTest w true) s (fun s' => s'.scaffoldReady w = true ∧ s'.sram.mem = s.sram.mem)
        ∧ Answers (.scaffoldBankTest w false) s fun s' => w ∈ s'.sram.scaffoldRetired ∧ s'.scaffoldReady w = false
          ∧ s'.repair.failures = s.repair.failures + 1)
      ∧ (s.ridgeAvailable g = true →
        Answers (.controlStoreCompare g none) s (fun s' => done (.store g) true s' ∧ (s'.ridge g).sweepQueued = false
          ∧ (s'.ridge g).failedWords = [] ∧ (s'.ridge g).micro = (s.ridge g).micro)
        ∧ Answers (.controlStoreCompare g (some pf)) s fun s' => done (.store g) false s' ∧ failedWord pf ∈ (s'.ridge g).rewrite
          ∧ (s'.ridge g).failedWords = [failedWord pf])
      ∧ Answers (.memoryScrub ct) s (fun s' => done (.scrub ct) true s' ∧ s'.sram.mem = s.sram.mem ∧ s'.sram.flips = s.sram.flips
        ∧ ∀ a, s.flip a ≠ 0 → (s.wordClass a).counted = true → (if ct then inTable a else inMailboxData a) = true → a ∈ s'.sram.writeback)
      ∧ (s.deepUp = true → s.window n.val = some (base, size) → s.flagOf 0x10 (0x100 + 8 * n.val) 50 = true →
        exec (.windowScrub n) s = .next s)
      ∧ (s.deepUp = true → s.window n.val = some (base, size) → s.flagOf 0x10 (0x100 + 8 * n.val) 50 = false →
        (∀ j raw check m, j < size / 8 → s.deepPlace (base + 8 * j) = .windowed m raw check → s.deepClass raw check = .clean) →
        Answers (.windowScrub n) s fun s' => done (.window n) true s' ∧ s'.dram = s.dram)
      ∧ (s.deepUp = true → s.dram.testing.contains pb.val = false →
        ((s.spareBanks false).any fun j => (s.mapEntry j).pb.toNat == pb.val) = true → Answers (.deepStoreBankTest pb) s fun s' =>
          shows (.bank pb) s' ∧ pb.val ∈ s'.dram.testing))
    ∧ (s.repair.items.contains (.site st) = true → y.st ≠ 3 → still →
      Answers (.siteTestDone st true) s (fun s' => done (.site st) true s' ∧ (s'.site st).st = 1 ∧ (s'.site st).passed = ~~~y.retired
        ∧ s'.fieldOf 0x03 (0x100 + 8 * st.val) 0 7 = 0)
      ∧ Answers (.siteTestDone st false) s fun s' => done (.site st) false s' ∧ (s'.site st).st = 3)
    ∧ (s.repair.items.contains x = true → (s.spareSlots st).contains slot.val = true → still →
      Answers (.slotTestDone st slot true) s (fun s' => done x true s' ∧ (s'.site st).passed = y.passed ||| bit
        ∧ (s'.site st).retired = y.retired)
      ∧ Answers (.slotTestDone st slot false) s fun s' => done x false s' ∧ (s'.site st).retired = y.retired ||| bit)
    ∧ (s.sram.borrow = some ⟨b, true⟩ → still →
      Answers (.borrowTestDone true row) s (fun s' => done (.sram b) true s' ∧ s'.sram = { s.sram with borrow := none })
      ∧ (s.rowsUsed b < 4 → Answers (.borrowTestDone false row) s fun s' => done (.sram b) false s'
        ∧ s'.sram = { s.sram with borrow := none, rows := s.sram.rows ++ [(b, row)] })
      ∧ (4 ≤ s.rowsUsed b → Answers (.borrowTestDone false row) s fun s' => done (.sram b) false s' ∧ b ∈ s'.sram.replaced
        ∧ s'.sram.mem = s.sram.mem))
    ∧ (s.dram.testing.contains pb.val = true →
      Answers (.bankTestDone pb true) s (fun s' => done (.bank pb) true s' ∧ pb.val ∈ s'.dram.passed ∧ pb.val ∉ s'.dram.testing)
      ∧ (∀ e, s.entryOf pb.val = some e → Answers (.bankTestDone pb false) s fun s' => done (.bank pb) false s'
        ∧ (s'.mapEntry e).st = 2 ∧ pb.val ∈ s'.dram.recordedBad))
    ∧ (s.inRun = true → Answers .sweepProgress s (fun s' => s'.repair.hours = s.repair.hours + 1
        ∧ s'.cairn = (s.note 0x0008 [s.fieldOf 0x0B 0x08 32 32, s.repair.itemIndex, s.repair.failures]).cairn ∧ s'.regs = s.regs)
      ∧ Answers .sweepCycleEnd s fun s' => s'.repair.postponed = [] ∧ s'.repair.itemIndex = 0 ∧ s'.flagOf 0x0B 0x08 2 = true
        ∧ s'.fieldOf 0x0B 0x08 16 16 = satAdd 16 (s.fieldOf 0x0B 0x08 16 16) s.repair.postponed.length
        ∧ s'.fieldOf 0x0B 0x08 32 32 = satAdd 32 (s.fieldOf 0x0B 0x08 32 32) 1)

/-- R17, R53, R59, R206, R207, R455, R458 to R463, R466 to R471: a lane swap is requested, waits for a lath operation, is
executed, with the slot it frees retired unless a test of it is under way, or is abandoned; a move stops
its ridge, and ends with the ridge on the new site and the old one retired or scaffold, its ledge kept or
zeroed, the SMC told; a site that fails its self-test is retired; a control-store word is written back, and a failed
readback moves the ridge; log
records are committed in order, survive compaction when they are repairs, and are appended from the mailbox.
Where the spec leaves a choice, the clauses follow the model's (log entries 14, 44, 46 and 56). -/
def Obligations.RidgesMoveAndRecordsCommit : Prop :=
  ∀ (s : State) (m : Master) (g : RidgeId) (lane : Fin 16) (st old : SiteId) (cause : Byte) (n : Fin 8) (ok lost : Bool) (slot : Nat)
    (more : List Nat) (sites : List SiteId) (v : BitVec 64) (r : Record) (rest : List Record) (word : Bool × Nat)
    (words : List (Bool × Nat)),
    let off := field v.toNat 0 18
    let blen := field v.toNat 48 8
    let x := s.ridge g
    let freed := slotOfNat (s.laneSlot old lane.val)
    s.siteOf g = some old → s.repair.moveQueue = [] ∨ s.repair.moveQueue = [(g, cause)] → s.repair.swapQueue = [] →
      (s.ridgeRuns g = true → s.smc.op = none → x.swap = none → s.readySlots old ≠ [] →
        exec (.laneSwap g lane) s = .next (s.setRidge g { x with swap := some lane }))
      ∧ (s.smc.op.isSome = true → exec (.laneSwap g lane) s = .next { s with repair := { s.repair with swapQueue := [(g, lane)] } })
      ∧ (s.repair.moveQueue = [] → x.swap = some lane → s.readySlots old = slot :: more → Answers (.laneSwapExecute g) s fun s' =>
        s'.laneSlot old lane.val = slot ∧ (s'.ridge g).swap = none
          ∧ s'.fieldOf 0x00 0x50 0 32 = satAdd 32 (s.fieldOf 0x00 0x50 0 32) 1
          ∧ (Item.slot old freed ∈ s.repair.items → s'.cairn = s.cairn ∧ s'.repair.sites = s.repair.sites
            ∧ s'.sram = s.sram ∧ s'.threads = s.threads)
          ∧ (Item.slot old freed ∉ s.repair.items → bitOf (s.site old).retired.toNat freed.val = false →
            { s.site old with retired := (s.site old).retired ||| BitVec.ofNat 18 (2 ^ freed.val) }.retiredSlots ≤ 2 →
            (s'.site old).retired = (s.site old).retired ||| BitVec.ofNat 18 (2 ^ freed.val)
            ∧ s'.cairn = (s.note 0x0101 [old.val, freed.val, s.sinceTested old freed]).cairn
            ∧ s'.sram = s.sram ∧ s'.threads = s.threads))
      ∧ (s.repair.moveQueue = [] → x.swap = some lane → Answers (.laneSwapAbandon g) s fun s' =>
        (s'.ridge g).swap = none ∧ s'.repair.lanes = s.repair.lanes
          ∧ s'.fieldOf 0x0B 0x08 16 16 = satAdd 16 (s.fieldOf 0x0B 0x08 16 16) 1 ∧ s'.sram = s.sram ∧ s'.threads = s.threads)
      ∧ (s.repair.moveQueue = [] → s.inRun = true → s.repair.move = none → s.smc.op = none → x.swap = none → s.sram.borrow = none →
        s.freeSites true = st :: sites → Answers (.ridgeMove g cause) s fun s' => s'.repair.move = some (g, st)
          ∧ (s'.ridge g).moving = true ∧ (s'.ridge g).streams = [] ∧ (s'.thread (threadOf g n)).st = .reset
          ∧ s'.fieldOf 0x03 (0x100 + 8 * st.val) 0 7 = 100 ∧ s'.siteOf g = some old ∧ (x.streams = [] → s'.sram.mem = s.sram.mem))
      ∧ (s.repair.moveQueue = [(g, cause)] → s.repair.move = some (g, st) → old ≠ st → s.smc.op = none → x.streams = [] →
        Answers (.ridgeMoveComplete g true lost) s (fun s' => s'.siteOf g = some st ∧ s'.repair.move = none ∧ s'.repair.moveQueue = []
          ∧ (s'.site st).st = 0 ∧ (s'.site old).st = (if x.siteFaulty then 3 else 2) ∧ (s'.ridge g).moving = false
          ∧ (s'.ridge g).micro = (s.contentInEffect g.val).micro ∧ (s'.ridge g).nano = nanoCells (s.contentInEffect g.val).nano
          ∧ s'.smc.events.getLsbD (0xE0 + g.val) = true
          ∧ (s.wf = true → (∀ a, ¬ (scaffoldBase ≤ a ∧ a < scaffoldBase + 0x800000) →
              s'.sramByte a = if lost && inLedgeOf g a then sramDefault a else s.sramByte a)
            ∧ ∀ (p q : Fin 2) (z : SiteId) (j : Nat), s.spareSite p = some z → s'.spareSite q = some z → j < 0x400000 →
              s'.sramByte (scaffoldBase + q.val * 0x400000 + j) = s.sramByte (scaffoldBase + p.val * 0x400000 + j))
          ∧ s'.fieldOf 0x00 0x50 0 32 = satAdd 32 (s.fieldOf 0x00 0x50 0 32) 1)
        ∧ Answers (.ridgeMoveComplete g false lost) s fun s' => (s'.site st).st = 3
          ∧ (s.wf = true → ∀ a, ¬ (scaffoldBase ≤ a ∧ a < scaffoldBase + 0x800000) → s'.sramByte a = s.sramByte a))
      ∧ (x.rewrite = word :: words →
        (s.inRun = false ∨ (x.siteFaulty || !ok) = false → Answers (.controlStoreRewrite g ok) s fun s' => (s'.ridge g).rewrite = words
          ∧ (s'.ridge g).siteFaulty = (x.siteFaulty || !ok)
          ∧ s'.flagOf (rgBlk g) 0x1300 52 = (!words.isEmpty && s.flagOf (rgBlk g) 0x1300 52)
          ∧ (word.1 = false → oddParity 32 ((s'.ridge g).microWord word.2) = true ∧ (s'.ridge g).nano = x.nano
            ∧ (s'.ridge g).microWord word.2 % 2 ^ 31 = x.microWord word.2 % 2 ^ 31)
          ∧ (word.1 = true → (s'.ridge g).badQuarters word.2 = 0 ∧ (s'.ridge g).nanoWord word.2 = x.nanoWord word.2
            ∧ (s'.ridge g).micro = x.micro)
          ∧ s'.sram = s.sram ∧ s'.threads = s.threads)
        ∧ (s.repair.moveQueue = [] → s.inRun = true → ok = false → s.repair.move = none → s.smc.op = none → x.swap = none →
          s.sram.borrow = none → s.freeSites true = st :: sites → Answers (.controlStoreRewrite g ok) s fun s' =>
            s'.repair.move = some (g, st) ∧ (s'.ridge g).moving = true ∧ (s'.ridge g).siteFaulty = true))
      ∧ (s.flashOn = true → s.cairn.queue = r :: rest → s.cairn.waiting = [] → Answers .recordCommit s fun s' =>
        s'.cairn.queue = rest ∧ r ∈ s'.cairn.seg0 ++ s'.cairn.seg1 ∧ (∀ y ∈ s.cairn.seg0 ++ s.cairn.seg1, y ∈ s'.cairn.seg0 ++ s'.cairn.seg1)
          ∧ (s.cairn.segment.length < 49151 → s'.cairn.segment = s.cairn.segment ++ [r]) ∧ s' = { s with cairn := s'.cairn })
      ∧ (s.cairn.compacting = true → s.on = true → Answers .compactionComplete s fun s' => s'.cairn.compacting = false
        ∧ s'.cairn.otherSegment = [] ∧ (∀ y ∈ s.cairn.otherSegment, isRepairRecord y.typ.toNat = true → y ∈ s'.cairn.segment)
        ∧ (∀ y ∈ s.cairn.segment, y ∈ s'.cairn.segment) ∧ s' = { s with cairn := s'.cairn })
      ∧ (s.cfgReach m 0x0C = true → off % 8 = 0 → off ≤ 0x3FF20 → blen ≤ 220 → s.cairn.queue.length < 8 → s.logStop = false → (∀ a ∈ wordsOf (mbxBase + off) blen, s.flip a = 0) →
        Answers (.cairnAppend m v) s fun s' => s'.cairn = { s.cairn with
          queue := s.cairn.queue ++ [s.newRecord (BitVec.ofNat 16 (0x8000 + field v.toNat 32 15)) (s.sramBytes (mbxBase + off) blen) []]
          nextSeq := s.cairn.nextSeq + 1 }
          ∧ s'.flagOf 0x0C 0x08 0 = (s.flagOf 0x0C 0x08 0
            || decide (field v.toNat 18 14 ≠ 0 ∨ field v.toNat 47 1 ≠ 0 ∨ field v.toNat 56 8 ≠ 0))
          ∧ s'.sram = s.sram ∧ s'.threads = s.threads)

/-! ### Streams and chains (R89 to R132, R206) -/

/-- R90 to R92, R108, R119, R120, R135, R206: SLAUNCH samples and queues its descriptor under the next sequence number or parks
on a full queue, and resumes once an entry is free; a dispatched descriptor takes the lowest free slot and ends
at once when a launch check fails or it has no element; one row of an unchained stream with a basic code takes
it to the next multiple of 16, counts its steps (R120) in LN_STEPS, and with ORDER = 1 it ends when it has passed its last
element or at its fault; a step without ready group counts as idle; a parity failure starts a rewrite; rows and credits of the ridgeline
arrive in order. Where the spec leaves a choice, the clauses follow the model's (log entries 25 to 28 and 33). -/
def Obligations.StreamsLaunchDispatchAndRun : Prop :=
  ∀ (s : State) (t : ThreadId) (rt : BitVec 5) (ab : BitVec 4) (g : RidgeId) (n : Fin 8) (slot : Fin 16) (c : Fin 16) (e : QEntry)
      (m : Stream) (pf : ParityFail),
    let th := s.thread t
    let a := th.base ab
    let got := s.readFor t a.toNat 64
    let taken := s.launchEntry t th a got.1
    let others (s' : State) : Prop := ∀ h, h ≠ g → s'.ridge h = s.ridge h
    let fresh := Stream.start slot n e none 0 (s.firstElement g e)
    let code := launchCheck (s.ridge g) e (s.chainPlace g n e.chid) []
    let placed (s' : State) (x : Stream) : Prop := (s'.ridge g).streams = (s.ridge g).streams ++ [x] ∧ x.slot = slot
      ∧ (s'.ridge g).rrThread = n.val ∧ others s' ∧ (s'.thread (threadOf g n)).r = (s.thread (threadOf g n)).r
      ∧ ∀ y ∈ (s'.thread (threadOf g n)).dq, y.seq = e.seq → y.dispatched = true
    let turn := s.groupTurn g [m] m.rowElems
    let quiet := ∀ dir last, s.nextSender g dir last = none
    let p := s.port g c
    (s.Issues t (.slaunch t rt ab) → s.dataFault t .read a.toNat 64 = none →
      (s.launchWaits t a.toNat = true → exec (.slaunch t rt ab) s = .next s)
      ∧ (th.dq.length < 32 → s.launchWaits t a.toNat = false → Runs (.slaunch t rt ab) s t (got.2.setThread t ((got.2.thread t).enqueue taken))
        [writeD 0 rt (th.seqNo.setWidth 64)] 0 none)
      ∧ (32 ≤ th.dq.length → s.launchWaits t a.toNat = false → exec (.slaunch t rt ab) s
        = .next (got.2.setThread t { got.2.thread t with st := .parked, park := some (.queue rt taken) })))
    ∧ (∀ w : BitVec 32, w.extractLsb' 26 6 = 0x13#6 → w.extractLsb' 0 17 ≠ 0 → decode t w = none)
    ∧ (th.st = .parked → th.park = some (.queue rt e) →
      (th.dq.length < 32 → Runs (.slaunchResume t) s t (s.setThread t (th.enqueue e)) [writeD 0 rt (th.seqNo.setWidth 64)] 0 none)
      ∧ (32 ≤ th.dq.length → exec (.slaunchResume t) s = .next s))
    ∧ (s.sequencerRuns g = true → (s.ridge g).draining = false → s.nextDispatch g = some (n, e) → s.freeSlot g = some slot →
      e.member = false →
      (code ≠ 0 → Answers (.streamDispatch g) s fun s' => ∃ x, placed s' x ∧ x.finished = some ⟨BitVec.ofNat 8 code, e.start, 0⟩)
      ∧ (code = 0 → (s.launchReads g fresh).1.waits = false → Answers (.streamDispatch g) s fun s' => ∃ x, placed s' x
        ∧ x.passed = e.start ∧ x.next = s.firstElement g e
        ∧ (e.start = e.len → x.finished = some ⟨0, e.len, 0⟩)
        ∧ (e.start ≠ e.len → x.finished = x.fault.map fun f => ⟨f.2.code, e.start, f.2.addr⟩)))
    ∧ (s.sequencerRuns g = true → (s.ridge g).swap = none →
      (s.nextGroup g = none → (s.ridge g).readFails 0 0 = none → quiet → Answers (.stepGroupRow g none) s fun s' =>
        s'.fieldOf (rgBlk g) 0x1200 32 32 = satAdd 32 (s.fieldOf (rgBlk g) 0x1200 32 32) 1
        ∧ s'.fieldOf (rgBlk g) 0x1200 0 32 = s.fieldOf (rgBlk g) 0x1200 0 32
        ∧ s.OnlyRegs s' [(rgBlk g, 0x1200)] ∧ s' = { s with regs := s'.regs })
      ∧ (s.nextGroup g = some m → m.chid = none → m.e.op < 0x800 → s.microBusy g [m] = false → m.first ≤ m.next →
        (∀ x ∈ turn.ms, x.waits = false) → quiet →
        Answers (.stepGroupRow g none) s fun s' => others s' ∧ (s'.ridge g).rrSlot = m.slot.val
          ∧ s'.fieldOf (rgBlk g) 0x1200 0 32 = satAdd 32 (s.fieldOf (rgBlk g) 0x1200 0 32) turn.cost.steps
          ∧ s'.fieldOf (rgBlk g) 0x1200 32 32 = satAdd 32 (s.fieldOf (rgBlk g) 0x1200 32 32) turn.cost.steps
          ∧ ∃ x, (s'.ridge g).stream m.slot = some x ∧ x.e = m.e ∧ x.next = min m.e.len ((m.next / 16 + 1) * 16)
            ∧ (m.e.order = true → x.finished = (match x.fault with
              | some f => if f.1 ≤ x.passed then some ⟨f.2.code, f.1, f.2.addr⟩ else none
              | none => if m.e.len ≤ x.passed then some ⟨0, m.e.len, 0⟩ else none)))
      ∧ Answers (.stepGroupRow g (some pf)) s fun s' => failedWord pf ∈ (s'.ridge g).rewrite
          ∧ (s'.ridge g).sweepQueued = true ∧ s'.flagOf (rgBlk g) 0x1300 52 = true)
    ∧ ((s.chain c).active = true → (s.chain c).closed = false →
      (s.gathered c = true → (∀ x ∈ s.instanceMembers c, x.2.launchBad = false) → Answers (.chainAdmission c) s fun s' =>
        (s'.chain c).admitted = true ∧ (s'.chain c).closed = true)
      ∧ (s.gathered c = true → (∃ x ∈ s.instanceMembers c, x.2.launchBad = true) → Answers (.chainAdmission c) s fun s' =>
        (s'.chain c).closed = true ∧ (s'.chain c).admitted = (s.chain c).admitted
        ∧ ∀ x ∈ s.instanceMembers c, ∃ y, (s'.ridge x.1).stream x.2.slot = some y ∧ y.finished.isSome = true ∧ y.held = [])
      ∧ (s.membersOn g c ≠ [] → Answers (.chainTimeout g c) s fun s' => (s'.chain c).closed = true
        ∧ ∀ x ∈ s.instanceMembers c, ∃ y, (s'.ridge x.1).stream x.2.slot = some y ∧ y.held = []
          ∧ y.finished = some ⟨0x08, y.e.start, 0⟩))
    ∧ (∀ row rest, p.inFlight = row :: rest → exec (.ridgelineRowArrival g c) s
      = .next (s.setPort g c { p with inFlight := rest, arrived := p.arrived ++ [row] }))
    ∧ (0 < p.creditsBack → exec (.ridgelineCreditReturn g c) s
      = .next (s.setPort g c { p with creditsBack := p.creditsBack - 1, credits := p.credits + 1 }))

/-- R93, R96, R98: STREAM_COMPLETE of an ended stream writes the 32 bytes of its status record to its place in the
bulk and no other byte, ORs its flags into TS of the launching thread, sets its event there and frees its slot
and its queue entry. Where the spec leaves a choice, the clauses follow the model's (log entry 28). -/
def Obligations.CompletedStreamsReport : Prop :=
  ∀ (s : State) (g : RidgeId) (slot : Fin 16) (m : Stream) (x : StreamEnd),
    let t := threadOf g m.th
    let off := s.statOffset g m
    let a := ledgeBase + g.val * 0x400000 + off
    let once := m.once (m.custom && bitOf ((s.ridge g).header m.e.op 0) 16) x.code
    let flags := m.flags ||| once.flags
    let count := countField m x
    (s.ridge g).stream slot = some m → m.finished = some x → m.chid = none → s.ridgeRuns g = true → s.delivering g slot = false →
    once.scalar = none → once.vbytes = [] → off + 32 ≤ s.bulkSize g →
      Answers (.streamComplete g slot) s fun s' =>
        s'.sramBytes a 32 = statusRecord m x count flags
        ∧ (∀ b, b < a ∨ a + 32 ≤ b → s'.sramByte b = s.sramByte b)
        ∧ (s'.ridge g).stream slot = none ∧ (∀ k, k ≠ slot → (s'.ridge g).stream k = (s.ridge g).stream k)
        ∧ (s'.thread t).r = { (s.thread t).r with ts := tsOrFlags (s.thread t).r.ts (flags &&& 0x1F) }
        ∧ (∀ e, e < 256 → (s'.thread t).events.getLsbD e = (decide (e = m.e.event) || (s.thread t).events.getLsbD e))
        ∧ (∀ y ∈ (s'.thread t).dq, y.seq ≠ m.e.seq) ∧ (s'.thread t).st = (s.thread t).st
        ∧ (∀ u, u ≠ t → s'.thread u = s.thread u) ∧ s'.regs = s.regs ∧ s'.dram = s.dram

/-! ### Configuration registers (R9 to R14) -/

/-- R9 to R14: a register access that is not of 8 bytes or an aligned half reads zero, sets CFGERR and changes nothing else; an
access to a half reads or writes that half; an undefined register reads zero and ignores a write of zero, another write sets CFGERR; so does a write to a register that only
lath records write; a plain write of RSV, SM, CT and SWP gives each RW field its value unless that is a reserved
encoding, keeps RO and RC fields, and changes no other register; CFGERR is cleared by writing one; a read returns the
register as it stands and clears its RC fields. -/
def Obligations.RegisterAccessesFollowTheAccessCodes : Prop :=
  ∀ (s : State) (m : Master) (blk : BitVec 8) (off : BitVec 16) (size : Nat) (v : BitVec 64) (r : Reg),
    let b := blk.toNat
    let o := off.toNat
    let old := s.reg b o
    let res := r.write false old v.toNat (2 ^ 64 - 1)
    let plain : Prop := b = 0x03 ∨ b = 0x04 ∨ b = 0x05 ∨ b = 0x0B
    s.cfgReach m b = true → s.blockOf b = b →
      (regAccessOk o size = false →
        exec (.registerWrite m blk off size v) s = .next (s.cfgerr b)
        ∧ exec (.readClear m blk off size) s = .next { s.cfgerr b with readData := leBytes size 0 })
      ∧ (o % 8 = 0 → regDesc b o = none →
        exec (.registerWrite m blk off 8 0) s = .next s
        ∧ (v ≠ 0 → exec (.registerWrite m blk off 8 v) s = .next (s.cfgerr b))
        ∧ exec (.readClear m blk off 8) s = .next { s with readData := leBytes 8 0 })
      ∧ (∀ k half, k = o / 8 * 8 → half = (2 ^ 32 - 1) * 2 ^ (8 * (o % 8)) → o % 4 = 0 → regDesc b k = some r →
        (b ≠ 0x07 → Answers (.readClear m blk off 4) s fun s' => s'.readData = leBytes 4 (field (s.regView b k) (8 * (o % 8)) 32)
          ∧ s'.reg b k = r.afterRead (s.reg b k) half ∧ s.OnlyRegs s' [(b, k)]
          ∧ s' = { s with regs := s'.regs, readData := s'.readData })
        ∧ (r.lathOnly = false → plain → k ≠ 8 → Answers (.registerWrite m blk off 4 v) s fun s' =>
          s'.reg b k = (r.write false (s.reg b k) (v.toNat % 2 ^ 32 * 2 ^ (8 * (o % 8))) half).new
          ∧ s.OnlyRegs s' [(b, k), (b, 0x08)] ∧ s' = { s with regs := s'.regs }))
      ∧ (o % 8 = 0 → regDesc b o = some r → r.lathOnly = true → exec (.registerWrite m blk off 8 v) s = .next (s.cfgerr b))
      ∧ (o % 8 = 0 → regDesc b o = some r → r.lathOnly = false → plain → o ≠ 8 →
        Answers (.registerWrite m blk off 8 v) s fun s' =>
          s'.reg b o = res.new ∧ s'.flagOf b 0x08 0 = (s.flagOf b 0x08 0 || res.err)
          ∧ s.OnlyRegs s' [(b, o), (b, 0x08)] ∧ s' = { s with regs := s'.regs }
          ∧ (v.toNat &&& r.reserved ≠ 0 → res.err = true)
          ∧ ∀ f ∈ r.fields,
            field (s'.reg b o) f.lo f.width
              = (if f.acc = .rw ∧ f.ok (field v.toNat f.lo f.width) = true then field v.toNat f.lo f.width else field old f.lo f.width)
            ∧ (f.acc = .rw → f.ok (field v.toNat f.lo f.width) = false → res.err = true))
      ∧ (plain → o = 8 → Answers (.registerWrite m blk off 8 1) s fun s' => s'.reg b 8 = setField (s.reg b 8) 0 1 0
        ∧ s.OnlyRegs s' [(b, 8)] ∧ s' = { s with regs := s'.regs })
      ∧ (o % 8 = 0 → regDesc b o = some r → b ≠ 0x07 → Answers (.readClear m blk off 8) s fun s' =>
        s'.readData = leBytes 8 (s.regView b o) ∧ s'.reg b o = r.afterRead old (2 ^ 64 - 1)
        ∧ s.OnlyRegs s' [(b, o)] ∧ s' = { s with regs := s'.regs, readData := s'.readData }
        ∧ (plain → ∀ f ∈ r.fields, field (s'.reg b o) f.lo f.width = (if f.acc = .rc then 0 else field old f.lo f.width)))

/-! ### What every step keeps, and reset -/

/-- Every memory and the register file stay in canonical form through every step, whatever the command (the model's own
form: R244, R257, R476 and R10 say what they hold). -/
def Obligations.EveryStepKeepsCanonicalForms : Prop :=
  ∀ s s' : State, s.wf = true → step s = .next s' → s'.wf = true

/-- The state before power is applied: nothing waits, the module is off, every thread is in the reset state of R303 with TS
at 0x5, no ridge holds a stream, every register reads its reset value and memories are in canonical
form (that the reset state is the module without power is the model's choice, log entry 2). -/
def Obligations.ResetLeavesTheStatedValues : Prop :=
  State.reset.wf = true ∧ State.reset.pending = [] ∧ State.reset.power.st = .off
  ∧ (∀ t : ThreadId, let th := State.reset.thread t
      th.st = .reset ∧ th.r.ts = 0x5 ∧ (∀ dst : RegDst, dst ≠ .ts → th.r.view dst = 0) ∧ th.r.xpc = 0 ∧ th.r.xts = 0
      ∧ th.r.xcause = 0 ∧ th.r.xinfo = 0 ∧ th.r.xaddr = 0 ∧ th.r.tv = 0 ∧ th.r.gtb = 0 ∧ th.stores = [] ∧ th.pend = []
      ∧ th.events = 0 ∧ th.seqNo = 0 ∧ th.dq = [])
  ∧ (∀ g : RidgeId, (State.reset.ridge g).streams = [])
  ∧ (∀ blk off : Nat, State.reset.reg blk off = State.reset.regReset (regKey blk off) % 2 ^ 64)
end

