-- ==== Sys2Proof/Laws/Bits.lean ====
section
/-!
SUPPORT. Bit fields: what `setField` does, bit by bit and field by field.
-/

namespace Sys2Proof.Machine

/-- `setField` replaces the bits of its field by those of `x` and keeps every other bit. -/
theorem testBit_setField (v lo w x n : Nat) :
    (setField v lo w x).testBit n = if lo ≤ n ∧ n < lo + w then x.testBit (n - lo) else v.testBit n := by
  have hv : v = 2 ^ lo * (2 ^ w * (v / 2 ^ lo / 2 ^ w) + field v lo w) + v % 2 ^ lo := by
    have h1 := Nat.div_add_mod v (2 ^ lo)
    have h2 := Nat.div_add_mod (v / 2 ^ lo) (2 ^ w)
    rw [field, h2, h1]
  have hf : field v lo w < 2 ^ w := Nat.mod_lt _ (Nat.two_pow_pos w)
  have hx : x % 2 ^ w < 2 ^ w := Nat.mod_lt _ (Nat.two_pow_pos w)
  have hl : v % 2 ^ lo < 2 ^ lo := Nat.mod_lt _ (Nat.two_pow_pos lo)
  have hs : setField v lo w x = 2 ^ lo * (2 ^ w * (v / 2 ^ lo / 2 ^ w) + x % 2 ^ w) + v % 2 ^ lo := by
    rw [setField]
    generalize field v lo w = f at *
    generalize v / 2 ^ lo / 2 ^ w = h at *
    generalize v % 2 ^ lo = l at *
    subst hv
    rw [Nat.mul_add, Nat.mul_add, Nat.mul_comm f, Nat.mul_comm (x % 2 ^ w)]
    omega
  have hb : v.testBit n = if n < lo then (v % 2 ^ lo).testBit n
      else (2 ^ w * (v / 2 ^ lo / 2 ^ w) + field v lo w).testBit (n - lo) := by
    rw [← Nat.testBit_two_pow_mul_add _ hl, ← hv]
  rw [hs, Nat.testBit_two_pow_mul_add _ hl, hb]
  by_cases h1 : n < lo
  · simp [h1, Nat.not_le.2 h1]
  · simp only [h1, if_false]
    rw [Nat.testBit_two_pow_mul_add _ hx, Nat.testBit_two_pow_mul_add _ hf]
    by_cases h2 : n - lo < w
    · have : lo ≤ n ∧ n < lo + w := by omega
      simp [h2, this, Nat.testBit_mod_two_pow]
    · have : ¬(lo ≤ n ∧ n < lo + w) := by omega
      simp [h2, this]

/-- Bit by bit, what a field is. -/
theorem testBit_field (v lo w n : Nat) : (field v lo w).testBit n = (decide (n < w) && v.testBit (lo + n)) := by
  rw [field, Nat.testBit_mod_two_pow, Nat.testBit_div_two_pow, Nat.add_comm n lo]

theorem field_setField (v lo w x : Nat) : field (setField v lo w x) lo w = x % 2 ^ w := by
  apply Nat.eq_of_testBit_eq
  intro n
  rw [testBit_field, testBit_setField, Nat.testBit_mod_two_pow]
  by_cases h : n < w
  · simp [h]
  · simp [h]

theorem field_setField_disjoint (v lo w x lo' w' : Nat) (h : lo' + w' ≤ lo ∨ lo + w ≤ lo') :
    field (setField v lo w x) lo' w' = field v lo' w' := by
  apply Nat.eq_of_testBit_eq
  intro n
  rw [testBit_field, testBit_field, testBit_setField]
  by_cases hn : n < w'
  · have : ¬(lo ≤ lo' + n ∧ lo' + n < lo + w) := by omega
    simp [this]
  · simp [hn]

theorem bitOf_eq_testBit (v i : Nat) : bitOf v i = v.testBit i := by
  rw [bitOf, Nat.testBit_eq_decide_div_mod_eq]
  rfl

/-- A field of a 64-bit register that was built as a number. -/
theorem field_ofNat64 (v lo w : Nat) (h : lo + w ≤ 64) : field (BitVec.ofNat 64 v).toNat lo w = field v lo w := by
  apply Nat.eq_of_testBit_eq
  intro n
  rw [testBit_field, testBit_field, BitVec.toNat_ofNat, Nat.testBit_mod_two_pow]
  by_cases hn : n < w
  · have : lo + n < 64 := by omega
    simp [this]
  · simp [hn]

theorem bitOf_eq_field (v i : Nat) : bitOf v i = (field v i 1 == 1) := by
  simp [bitOf, field]

/-- A 6-bit field of TS as flags. -/
theorem extractLsb_eq_ofNat_field (ts : Word) (lo : Nat) :
    BitVec.extractLsb' lo 6 ts = BitVec.ofNat 6 (field ts.toNat lo 6) := by
  apply BitVec.eq_of_toNat_eq
  rw [BitVec.extractLsb'_toNat, BitVec.toNat_ofNat, field, Nat.mod_mod, Nat.shiftRight_eq_div_pow]

end Sys2Proof.Machine
end

