-- ==== Sys2Proof/Laws/Threads.lean ====
section
/-!
SUPPORT. Threads: reading a thread after one was replaced, what an instruction boundary does to delayed writes (R291,
R293), and what issuing an instruction comes to (R285, R286, R309).
-/

namespace Sys2Proof.Machine

@[simp] theorem thread_setThread (s : State) (t : ThreadId) (x : Thread) : (s.setThread t x).thread t = x := by
  simp [State.thread, State.setThread]

theorem thread_setThread_ne (s : State) (t u : ThreadId) (x : Thread) (h : u ≠ t) :
    (s.setThread t x).thread u = s.thread u := by
  have h' : t.val ≠ u.val := fun e => h (Fin.ext e.symm)
  simp [State.thread, State.setThread, h']

@[simp] theorem setThread_setThread (s : State) (t : ThreadId) (x y : Thread) :
    (s.setThread t x).setThread t y = s.setThread t y := by
  simp [State.setThread]

@[simp] theorem setThread_thread (s : State) (t : ThreadId) : s.setThread t (s.thread t) = s := by
  simp [State.thread, State.setThread]

/-! ### Delayed writes -/

theorem advancePend_append (r : CoreRegs) (xs ys : List PendWrite) :
    advancePend r (xs ++ ys)
      = ((advancePend (advancePend r xs).1 ys).1, (advancePend r xs).2 ++ (advancePend (advancePend r xs).1 ys).2) := by
  suffices h : ∀ (ys : List PendWrite) (acc : CoreRegs × List PendWrite),
      ys.foldl (fun acc w => if w.left = 0 then (acc.1.apply w, acc.2) else (acc.1, acc.2 ++ [{ w with left := w.left - 1 }])) acc
        = ((advancePend acc.1 ys).1, acc.2 ++ (advancePend acc.1 ys).2) by
    rw [advancePend, List.foldl_append, h]; rfl
  intro ys
  induction ys with
  | nil => intro acc; simp [advancePend]
  | cons w rest ih =>
    intro acc
    simp only [List.foldl_cons, advancePend]
    rw [ih]
    by_cases hw : w.left = 0
    · simp only [hw, ↓reduceIte]
      rw [ih (acc.1.apply w, [])]
      simp
    · simp only [hw, ↓reduceIte]
      rw [ih (acc.1, [] ++ [_])]
      simp

@[simp] theorem advancePend_nil (r : CoreRegs) : advancePend r [] = (r, []) := rfl

theorem advancePend_cons (r : CoreRegs) (w : PendWrite) (ws : List PendWrite) :
    advancePend r (w :: ws)
      = if w.left = 0 then advancePend (r.apply w) ws
        else ((advancePend r ws).1, { w with left := w.left - 1 } :: (advancePend r ws).2) := by
  have h := advancePend_append r [w] ws
  rw [List.singleton_append] at h
  rw [h]
  by_cases hw : w.left = 0 <;> simp [advancePend, hw]

/-- The writes that wait after a boundary. -/
theorem advancePend_snd (r : CoreRegs) (ws : List PendWrite) :
    (advancePend r ws).2 = (ws.filter fun w => w.left != 0).map fun w => { w with left := w.left - 1 } := by
  induction ws generalizing r with
  | nil => rfl
  | cons w rest ih =>
    rw [advancePend_cons]
    by_cases hw : w.left = 0 <;> simp [hw, ih]

/-- A register view after one write: the value for its own register, the old one for any other. -/
theorem view_apply_ne (r : CoreRegs) (w : PendWrite) (dst : RegDst) (h : w.dst ≠ dst) :
    (r.apply w).view dst = r.view dst := by
  obtain ⟨l, d, v⟩ := w
  cases d <;> cases dst <;> simp_all [CoreRegs.apply, CoreRegs.view, BitVec.toNat_inj]

/-- A value that its register can hold whole. -/
def PendWrite.fits (w : PendWrite) : Prop :=
  match w.dst with
  | .d _ => w.val = (w.val.setWidth 64).setWidth 128
  | .aBase _ => w.val = (w.val.setWidth 48).setWidth 128
  | .xMov _ => True
  | .ts => w.val = (w.val.setWidth 64).setWidth 128

theorem view_apply_self (r : CoreRegs) (w : PendWrite) (h : w.fits) : (r.apply w).view w.dst = w.val := by
  obtain ⟨l, d, v⟩ := w
  cases d with
  | d n =>
    rw [h]
    simp [CoreRegs.apply, CoreRegs.view]
  | aBase n =>
    rw [h]
    simp [CoreRegs.apply, CoreRegs.view]
  | xMov n => simp [CoreRegs.apply, CoreRegs.view]
  | ts => exact h.symm

theorem view_advancePend_kept (r : CoreRegs) (ws : List PendWrite) (dst : RegDst)
    (h : ∀ w ∈ ws, w.left = 0 → w.dst ≠ dst) : (advancePend r ws).1.view dst = r.view dst := by
  induction ws generalizing r with
  | nil => rfl
  | cons w rest ih =>
    rw [advancePend_cons]
    have hr : ∀ w ∈ rest, w.left = 0 → w.dst ≠ dst := fun x hx => h x (List.mem_cons_of_mem _ hx)
    by_cases hw : w.left = 0
    · rw [if_pos hw, ih _ hr, view_apply_ne _ _ _ (h w List.mem_cons_self hw)]
    · rw [if_neg hw]; exact ih _ hr

theorem view_advancePend_shown (r : CoreRegs) (ws : List PendWrite) (hp : ws.Pairwise fun x y => x.dst ≠ y.dst)
    (hf : ∀ w ∈ ws, w.fits) (w : PendWrite) (hw : w ∈ ws) (h0 : w.left = 0) :
    (advancePend r ws).1.view w.dst = w.val := by
  induction ws generalizing r with
  | nil => simp at hw
  | cons x rest ih =>
    rw [List.pairwise_cons] at hp
    rw [advancePend_cons]
    rcases List.mem_cons.1 hw with rfl | hr
    · rw [if_pos h0, view_advancePend_kept _ _ _ fun y hy _ => (hp.1 y hy).symm,
        view_apply_self _ _ (hf _ List.mem_cons_self)]
    · have ih' := fun r => ih r hp.2 (fun y hy => hf y (List.mem_cons_of_mem _ hy)) hr
      by_cases hx : x.left = 0
      · rw [if_pos hx]; exact ih' _
      · rw [if_neg hx]; exact ih' _

/-- The parts of the registers that no delayed write reaches. -/
theorem apply_frame (r : CoreRegs) (w : PendWrite) :
    (r.apply w).a = r.a ∧ (r.apply w).x = r.x ∧ (r.apply w).xpc = r.xpc ∧ (r.apply w).xts = r.xts
      ∧ (r.apply w).xcause = r.xcause ∧ (r.apply w).xinfo = r.xinfo ∧ (r.apply w).xaddr = r.xaddr
      ∧ (r.apply w).tv = r.tv ∧ (r.apply w).gtb = r.gtb := by
  obtain ⟨l, d, v⟩ := w
  cases d <;> simp [CoreRegs.apply]

theorem advancePend_frame (r : CoreRegs) (ws : List PendWrite) :
    (advancePend r ws).1.a = r.a ∧ (advancePend r ws).1.x = r.x ∧ (advancePend r ws).1.xpc = r.xpc
      ∧ (advancePend r ws).1.xts = r.xts ∧ (advancePend r ws).1.xcause = r.xcause
      ∧ (advancePend r ws).1.xinfo = r.xinfo ∧ (advancePend r ws).1.xaddr = r.xaddr
      ∧ (advancePend r ws).1.tv = r.tv ∧ (advancePend r ws).1.gtb = r.gtb := by
  induction ws generalizing r with
  | nil => simp
  | cons w rest ih =>
    rw [advancePend_cons]
    by_cases hw : w.left = 0
    · rw [if_pos hw]
      obtain ⟨h1, h2, h3, h4, h5, h6, h7, h8, h9⟩ := ih (r.apply w)
      obtain ⟨g1, g2, g3, g4, g5, g6, g7, g8, g9⟩ := apply_frame r w
      exact ⟨h1.trans g1, h2.trans g2, h3.trans g3, h4.trans g4, h5.trans g5, h6.trans g6, h7.trans g7, h8.trans g8,
        h9.trans g9⟩
    · rw [if_neg hw]; exact ih r

/-! ### Raising flags -/

theorem raise_pend (th : Thread) (f : Flags) :
    (th.raise f).pend = th.pend.map fun w =>
      if w.dst = .ts then { w with val := (tsOrFlags (w.val.setWidth 64) f).setWidth 128 } else w := rfl

theorem raise_view (th : Thread) (f : Flags) (dst : RegDst) (h : dst ≠ .ts) : (th.raise f).r.view dst = th.r.view dst := by
  cases dst <;> simp_all [Thread.raise, CoreRegs.view]

/-! ### Completing -/

/-- What `retire` does to a thread, once and for all: the content of `Completed`. -/
theorem completed_retire (s : State) (t : ThreadId) (ws : List PendWrite) (f : Flags) (slot : Option Slot)
    (hp : ws.Pairwise fun x y => x.dst ≠ y.dst) (hf : ∀ w ∈ ws, w.fits) :
    s.Completed (s.setThread t ((s.thread t).retire ws f slot)) t ws f slot := by
  generalize hth : s.thread t = th
  have hr : ((s.setThread t (th.retire ws f slot)).thread t) = th.retire ws f slot := thread_setThread ..
  obtain ⟨g1, g2, g3, g4, g5, g6, g7, g8, g9⟩ := advancePend_frame (th.raise f).r ((th.raise f).pend ++ ws)
  have hdue : ∀ dst, th.due dst = false → ∀ w ∈ (th.raise f).pend, w.left = 0 → w.dst ≠ dst := by
    intro dst hd w hw h0 he
    rw [raise_pend, List.mem_map] at hw
    obtain ⟨v, hv, rfl⟩ := hw
    have : (v.left == 0 && v.dst == dst) = true := by
      by_cases hx : v.dst = .ts <;> simp_all
    simp only [Thread.due, List.any_eq_false] at hd
    exact hd v hv this
  refine ⟨by rw [hr], ?_, ?_, ?_, ?_, ?_, ?_, ?_, ?_, ?_, ?_, ?_⟩
  · intro w hw h0
    rw [hr]
    show (advancePend (th.raise f).r ((th.raise f).pend ++ ws)).1.view w.dst = w.val
    rw [advancePend_append]
    exact view_advancePend_shown _ _ hp hf w hw h0
  · intro w hw h0
    rw [hr]
    show _ ∈ (advancePend (th.raise f).r ((th.raise f).pend ++ ws)).2
    rw [advancePend_snd]
    exact List.mem_map.2 ⟨w, by simp [hw, h0], rfl⟩
  · intro w hw h0 hts
    rw [hr]
    show _ ∈ (advancePend (th.raise f).r ((th.raise f).pend ++ ws)).2
    rw [advancePend_snd]
    refine List.mem_map.2 ⟨w, ?_, rfl⟩
    rw [List.mem_filter]
    refine ⟨List.mem_append_left _ ?_, by simpa using h0⟩
    rw [raise_pend, List.mem_map]
    exact ⟨w, by rw [← hth]; exact hw, by simp [hts]⟩
  · rw [hr, hth]
    show (advancePend (th.raise f).r ((th.raise f).pend ++ ws)).2.length = _
    rw [advancePend_snd, List.length_map, List.filter_append, List.filter_append, raise_pend, List.filter_map]
    simp only [List.length_append, List.length_map, Nat.add_right_cancel_iff]
    congr 1
    apply List.filter_congr
    intro w _
    by_cases hx : w.dst = .ts <;> simp [hx]
  · intro dst hts hd hws
    rw [hr, hth]
    show (advancePend (th.raise f).r ((th.raise f).pend ++ ws)).1.view dst = th.r.view dst
    rw [hth] at hd
    rw [view_advancePend_kept, raise_view _ _ _ hts]
    intro w hw h0
    rcases List.mem_append.1 hw with h | h
    · exact hdue dst hd w h h0
    · exact hws w h h0
  · intro hd hws
    rw [hr, hth]
    rw [hth] at hd
    have := view_advancePend_kept (th.raise f).r ((th.raise f).pend ++ ws) .ts (by
      intro w hw h0
      rcases List.mem_append.1 hw with h | h
      · exact hdue .ts hd w h h0
      · exact hws w h h0)
    have h64 : ((advancePend (th.raise f).r ((th.raise f).pend ++ ws)).1.ts.setWidth 128).setWidth 64
        = ((th.raise f).r.ts.setWidth 128).setWidth 64 := by
      simpa [CoreRegs.view] using congrArg (BitVec.setWidth 64) this
    have h' : (advancePend (th.raise f).r ((th.raise f).pend ++ ws)).1.ts = (th.raise f).r.ts := by simpa using h64
    exact h'
  · rw [hr, hth]; exact ⟨g1, g2⟩
  · rw [hr, hth]; exact ⟨g3, g4, g5, g6, g7, g8, g9⟩
  · rw [hr, hth]; exact ⟨rfl, rfl⟩
  · rw [hr, hth]; exact ⟨rfl, rfl, rfl, rfl⟩
  · rw [hr, hth]; exact ⟨rfl, rfl, rfl, rfl, rfl, rfl, rfl⟩

/-- R309: an instruction that issues, passes its checks and does not trap completes. -/
theorem issue_complete (s s1 : State) (t : ThreadId) (i : Instr) (act : State → Thread → Act) (ws : List PendWrite)
    (f : Flags) (slot : Option Slot) (hi : s.Issues t i) (ha : act s (s.thread t) = .complete s1 ws f slot)
    (hn : s.NoTrap t f) : s.issue t i act = s1.setThread t ((s1.thread t).retire ws f slot) := by
  obtain ⟨h1, h2, h3⟩ := hi
  have hn' : traps (s.thread t).r.ts f = false := hn
  simp [State.issue, State.runInstr, h1, h2, h3, ha, hn']

/-- R309: an instruction that issues and fails one of its own checks takes that exception. -/
theorem issue_fault (s : State) (t : ThreadId) (i : Instr) (act : State → Thread → Act) (e : Exc) (hi : s.Issues t i)
    (ha : act s (s.thread t) = .fault e) : s.issue t i act = s.syncException t e := by
  obtain ⟨h1, h2, h3⟩ := hi
  simp [State.issue, State.runInstr, h1, h2, h3, ha]

/-- R197, R285: an instruction that issues and does not complete leaves what its own effect leaves. -/
theorem issue_stay (s s1 : State) (t : ThreadId) (i : Instr) (act : State → Thread → Act) (hi : s.Issues t i)
    (ha : act s (s.thread t) = .stay s1) : s.issue t i act = s1 := by
  obtain ⟨h1, h2, h3⟩ := hi
  simp [State.issue, State.runInstr, h1, h2, h3, ha]

/-- No flag, no trap. -/
@[simp] theorem noTrap_zero (s : State) (t : ThreadId) : s.NoTrap t 0 := by
  simp [State.NoTrap, traps]

theorem fits_writeD (dist : Nat) (rd : BitVec 5) (v : Word) : (writeD dist rd v).fits := by
  simp [writeD, PendWrite.fits]

/-- An instruction with one D result and no other effect runs as R291 says. -/
theorem runs_writeD (i : Instr) (s : State) (t : ThreadId) (act : State → Thread → Act) (dist : Nat) (rd : BitVec 5)
    (v : Word) (f : Flags) (he : exec i s = .next (s.issue t i act)) (hi : s.Issues t i)
    (ha : act s (s.thread t) = .complete s [writeD dist rd v] f none) (hn : s.NoTrap t f) :
    Runs i s t s [writeD dist rd v] f none :=
  ⟨_, by rw [he, issue_complete s s t i act _ f none hi ha hn],
    completed_retire s t _ f none (List.pairwise_singleton _ _) (by simpa using fits_writeD dist rd v)⟩

/-- An instruction that issues, passes its checks and does not trap runs as R291 says over its other effects. -/
theorem runs_of (i : Instr) (s : State) (t : ThreadId) (act : State → Thread → Act) (s1 : State) (ws : List PendWrite)
    (f : Flags) (slot : Option Slot) (he : exec i s = .next (s.issue t i act)) (hi : s.Issues t i)
    (ha : act s (s.thread t) = .complete s1 ws f slot) (hn : s.NoTrap t f) (hp : ws.Pairwise fun x y => x.dst ≠ y.dst)
    (hf : ∀ w ∈ ws, w.fits) : Runs i s t s1 ws f slot :=
  ⟨_, by rw [he, issue_complete s s1 t i act ws f slot hi ha hn], completed_retire s1 t ws f slot hp hf⟩

end Sys2Proof.Machine
end

