-- ==== Sys2Proof/Laws/Exceptions.lean ====
section
/-!
SUPPORT. Exceptions (R342 to R351): what entry does to a thread, said once, and where a synchronous exception goes.
-/

namespace Sys2Proof.Machine

@[simp] theorem unregister_thread (s : State) (t u : ThreadId) : (s.unregister t).thread u = s.thread u := rfl

/-- The parts of the registers that pending writes do not reach. -/
theorem flushPend_frame (n : Nat) (r : CoreRegs) (ws : List PendWrite) :
    (flushPend n r ws).a = r.a ∧ (flushPend n r ws).x = r.x ∧ (flushPend n r ws).xpc = r.xpc
      ∧ (flushPend n r ws).xts = r.xts ∧ (flushPend n r ws).xcause = r.xcause ∧ (flushPend n r ws).xinfo = r.xinfo
      ∧ (flushPend n r ws).xaddr = r.xaddr ∧ (flushPend n r ws).tv = r.tv ∧ (flushPend n r ws).gtb = r.gtb := by
  induction n generalizing r ws with
  | zero => simp [flushPend]
  | succ n ih =>
    obtain ⟨h1, h2, h3, h4, h5, h6, h7, h8, h9⟩ := ih (advancePend r ws).1 (advancePend r ws).2
    obtain ⟨g1, g2, g3, g4, g5, g6, g7, g8, g9⟩ := advancePend_frame r ws
    exact ⟨h1.trans g1, h2.trans g2, h3.trans g3, h4.trans g4, h5.trans g5, h6.trans g6, h7.trans g7, h8.trans g8,
      h9.trans g9⟩

theorem flush_frame (r : CoreRegs) (ws : List PendWrite) :
    (r.flush ws).a = r.a ∧ (r.flush ws).x = r.x ∧ (r.flush ws).xpc = r.xpc ∧ (r.flush ws).xts = r.xts
      ∧ (r.flush ws).xcause = r.xcause ∧ (r.flush ws).xinfo = r.xinfo ∧ (r.flush ws).xaddr = r.xaddr
      ∧ (r.flush ws).tv = r.tv ∧ (r.flush ws).gtb = r.gtb := flushPend_frame 5 r ws

theorem flushPend_nil (n : Nat) (r : CoreRegs) : flushPend n r [] = r := by
  induction n with
  | zero => rfl
  | succ n ih => simpa [flushPend] using ih

@[simp] theorem flush_nil (r : CoreRegs) : r.flush [] = r := flushPend_nil 5 r

/-- Bit 3 of a status word replaced. -/
theorem getLsbD_setBit3 (ts : Word) (b : Bool) (n : Nat) (hn : n < 64) :
    (BitVec.ofNat 64 (setField ts.toNat 3 1 (b2n b))).getLsbD n = if n = 3 then b else ts.getLsbD n := by
  rw [BitVec.getLsbD_ofNat, testBit_setField]
  by_cases h : n = 3
  · subst h; cases b <;> simp [b2n]
  · have : ¬(3 ≤ n ∧ n < 3 + 1) := by omega
    simp [hn, this, h, BitVec.getLsbD]

theorem handlerRing_lt (ring : Nat) : handlerRing ring < 2 := by
  unfold handlerRing; split <;> omega

/-- The registers after entry, as one record. -/
theorem enter_regs (th : Thread) (e : Exc) (xpc : Addr) (ds : Bool) :
    (th.enter e xpc ds).r = { th.r.flush th.pend with
      xpc := xpc.setWidth 64
      xts := BitVec.ofNat 64 (setField (th.r.flush th.pend).ts.toNat 3 1 (b2n ds))
      xcause := BitVec.ofNat 64 e.cause
      xinfo := BitVec.ofNat 64 e.info
      xaddr := BitVec.ofNat 64 e.addr
      ts := BitVec.ofNat 64
        (setField (setField (setField (th.r.flush th.pend).ts.toNat 0 2 (handlerRing (tsRing th.r.ts))) 2 1 1) 26 6 0) } :=
  rfl

theorem enter_saved (th : Thread) (e : Exc) (xpc : Addr) (ds : Bool) :
    (th.enter e xpc ds).r.xcause = BitVec.ofNat 64 e.cause ∧ (th.enter e xpc ds).r.xinfo = BitVec.ofNat 64 e.info
      ∧ (th.enter e xpc ds).r.xaddr = BitVec.ofNat 64 e.addr ∧ (th.enter e xpc ds).r.xpc = xpc.setWidth 64 := by
  rw [enter_regs]
  exact ⟨rfl, rfl, rfl, rfl⟩

theorem enter_xts (th : Thread) (e : Exc) (xpc : Addr) (ds : Bool) :
    (th.enter e xpc ds).r.xts = BitVec.ofNat 64 (setField (th.r.flush th.pend).ts.toNat 3 1 (b2n ds)) := by
  rw [enter_regs]

theorem enter_ts (th : Thread) (e : Exc) (xpc : Addr) (ds : Bool) :
    (th.enter e xpc ds).r.ts = BitVec.ofNat 64
      (setField (setField (setField (th.r.flush th.pend).ts.toNat 0 2 (handlerRing (tsRing th.r.ts))) 2 1 1) 26 6 0) := by
  rw [enter_regs]

theorem enter_mode (th : Thread) (e : Exc) (xpc : Addr) (ds : Bool) :
    tsRing (th.enter e xpc ds).r.ts = handlerRing (tsRing th.r.ts) ∧ tsGM (th.enter e xpc ds).r.ts = true
      ∧ tsTen (th.enter e xpc ds).r.ts = 0 := by
  have hring := handlerRing_lt (tsRing th.r.ts)
  rw [enter_ts]
  generalize (th.r.flush th.pend).ts.toNat = v
  generalize handlerRing (tsRing th.r.ts) = ring at *
  refine ⟨?_, ?_, ?_⟩
  · rw [tsRing, field_ofNat64 _ _ _ (by decide), field_setField_disjoint _ _ _ _ _ _ (by decide),
      field_setField_disjoint _ _ _ _ _ _ (by decide), field_setField]
    omega
  · rw [tsGM, bitOf_eq_field, field_ofNat64 _ _ _ (by decide),
      field_setField_disjoint _ _ _ _ _ _ (by decide), field_setField]
    rfl
  · rw [tsTen, extractLsb_eq_ofNat_field, field_ofNat64 _ _ _ (by decide), field_setField]
    rfl

theorem enter_arithmetic (th : Thread) (e : Exc) (xpc : Addr) (ds : Bool) :
    tsFlg (th.enter e xpc ds).r.ts = tsFlg (th.r.flush th.pend).ts
      ∧ tsRM (th.enter e xpc ds).r.ts = tsRM (th.r.flush th.pend).ts := by
  rw [enter_ts]
  generalize (th.r.flush th.pend).ts = v
  generalize handlerRing (tsRing th.r.ts) = ring
  refine ⟨?_, ?_⟩
  · rw [tsFlg, tsFlg, extractLsb_eq_ofNat_field, extractLsb_eq_ofNat_field, field_ofNat64 _ _ _ (by decide),
      field_setField_disjoint _ _ _ _ _ _ (by decide), field_setField_disjoint _ _ _ _ _ _ (by decide),
      field_setField_disjoint _ _ _ _ _ _ (by decide)]
  · rw [tsRM, tsRM, field_ofNat64 _ _ _ (by decide), field_setField_disjoint _ _ _ _ _ _ (by decide),
      field_setField_disjoint _ _ _ _ _ _ (by decide), field_setField_disjoint _ _ _ _ _ _ (by decide)]

theorem enter_pc (th : Thread) (e : Exc) (xpc : Addr) (ds : Bool) :
    (th.enter e xpc ds).pc = BitVec.ofNat 48 ((th.r.flush th.pend).tv.toNat / 1024 * 1024 + vectorOffset e.cause) := by
  rfl

theorem flush_tv (th : Thread) : (th.r.flush th.pend).tv = th.r.tv := (flush_frame th.r th.pend).2.2.2.2.2.2.2.1

theorem enter_vector (th : Thread) (e : Exc) (xpc : Addr) (ds : Bool) :
    (th.enter e xpc ds).pc = BitVec.ofNat 48 (th.r.tv.toNat / 1024 * 1024 + vectorOffset e.cause) :=
  (enter_pc th e xpc ds).trans
    (congrArg (fun x : Word => BitVec.ofNat 48 (x.toNat / 1024 * 1024 + vectorOffset e.cause)) (flush_tv th))

theorem enter_views (th : Thread) (e : Exc) (xpc : Addr) (ds : Bool) :
    (th.enter e xpc ds).r.d = (th.r.flush th.pend).d ∧ (th.enter e xpc ds).r.aBase = (th.r.flush th.pend).aBase
      ∧ (th.enter e xpc ds).r.xMov = (th.r.flush th.pend).xMov := by
  rw [enter_regs]
  exact ⟨rfl, rfl, rfl⟩

theorem view_congr (x y : CoreRegs) (h1 : x.d = y.d) (h2 : x.aBase = y.aBase) (h3 : x.xMov = y.xMov) (dst : RegDst)
    (h : dst ≠ .ts) : x.view dst = y.view dst := by
  cases dst with
  | ts => exact absurd rfl h
  | d n => simp only [CoreRegs.view, h1]
  | aBase n => simp only [CoreRegs.view, h2]
  | xMov n => simp only [CoreRegs.view, h3]

theorem enter_view (th : Thread) (e : Exc) (xpc : Addr) (ds : Bool) (dst : RegDst) (h : dst ≠ .ts) :
    (th.enter e xpc ds).r.view dst = (th.r.flush th.pend).view dst :=
  view_congr _ _ (enter_views th e xpc ds).1 (enter_views th e xpc ds).2.1 (enter_views th e xpc ds).2.2 dst h

theorem enter_kept (th : Thread) (e : Exc) (xpc : Addr) (ds : Bool) :
    (th.enter e xpc ds).r.a = th.r.a ∧ (th.enter e xpc ds).r.x = th.r.x ∧ (th.enter e xpc ds).r.tv = th.r.tv
      ∧ (th.enter e xpc ds).r.gtb = th.r.gtb := by
  obtain ⟨g1, g2, -, -, -, -, -, g8, g9⟩ := flush_frame th.r th.pend
  rw [enter_regs]
  exact ⟨g1, g2, g8, g9⟩

theorem enter_running (th : Thread) (e : Exc) (xpc : Addr) (ds : Bool) :
    (th.enter e xpc ds).pend = [] ∧ (th.enter e xpc ds).st = .running ∧ (th.enter e xpc ds).slot = none
      ∧ (th.enter e xpc ds).park = none ∧ (th.enter e xpc ds).held = none ∧ (th.enter e xpc ds).routine = none := by
  exact ⟨rfl, rfl, rfl, rfl, rfl, rfl⟩

theorem enter_rest (th : Thread) (e : Exc) (xpc : Addr) (ds : Bool) :
    (th.enter e xpc ds).stores = th.stores ∧ (th.enter e xpc ds).events = th.events
      ∧ (th.enter e xpc ds).wdCount = th.wdCount ∧ (th.enter e xpc ds).seqNo = th.seqNo
      ∧ (th.enter e xpc ds).dq = th.dq := by
  exact ⟨rfl, rfl, rfl, rfl, rfl⟩

/-- R342, R343, R345: exception entry does what `TookException` says. -/
theorem enter_tookException (s : State) (t : ThreadId) (e : Exc) (xpc : Addr) (ds : Bool) :
    s.TookException ((s.unregister t).setThread t ((s.thread t).enter e xpc ds)) t e xpc ds := by
  have hr : ((s.unregister t).setThread t ((s.thread t).enter e xpc ds)).thread t = (s.thread t).enter e xpc ds :=
    thread_setThread ..
  have hrun := enter_running (s.thread t) e xpc ds
  have hk := enter_kept (s.thread t) e xpc ds
  constructor <;> rw [hr]
  · exact enter_saved ..
  · intro n hn
    rw [enter_xts, getLsbD_setBit3 _ _ _ hn]
  · exact enter_mode ..
  · exact enter_arithmetic ..
  · exact enter_vector ..
  · exact ⟨hrun.1, fun dst h => enter_view _ _ _ _ dst h, hk⟩
  · exact hrun.2
  · exact enter_rest ..

/-- R342, R343: with GM = 0 and outside a delay slot a synchronous exception is taken at the instruction itself. -/
theorem syncException_took (s : State) (t : ThreadId) (e : Exc) (hg : tsGM (s.thread t).r.ts = false)
    (hs : (s.thread t).slot = none) : s.TookException (s.syncException t e) t e (s.thread t).pc false := by
  have h := enter_tookException s t e (s.thread t).pc false
  simpa [State.syncException, hg, hs] using h

/-- R343: in a delay slot it is taken at the branch, with DS = 1. -/
theorem syncException_took_slot (s : State) (t : ThreadId) (e : Exc) (sl : Slot) (hg : tsGM (s.thread t).r.ts = false)
    (hs : (s.thread t).slot = some sl) : s.TookException (s.syncException t e) t e sl.branch true := by
  have h := enter_tookException s t e sl.branch true
  simpa [State.syncException, hg, hs] using h

/-- R350: with GM = 1 the thread halts instead. -/
theorem syncException_halts (s : State) (t : ThreadId) (e : Exc) (hg : tsGM (s.thread t).r.ts = true) :
    s.syncException t e = s.haltThread t (haltInfo e) e.addr := by
  simp [State.syncException, hg]

end Sys2Proof.Machine
end

