-- ==== Sys2Proof/Laws/State.lean ====
section
/-!
SUPPORT. What each update of the state leaves as it was, field by field and accessor by accessor, and what the accessor of
the part written reads after it. No later proof unfolds a record update.
-/

namespace Sys2Proof.Machine

variable (s : State)

/-! ### `setThread` -/

@[simp] theorem State.setThread_pending (t : ThreadId) (x : Thread) : (s.setThread t x).pending = s.pending := (rfl)
@[simp] theorem State.setThread_fresh (t : ThreadId) (x : Thread) : (s.setThread t x).fresh = s.fresh := (rfl)
@[simp] theorem State.setThread_readData (t : ThreadId) (x : Thread) : (s.setThread t x).readData = s.readData := (rfl)
@[simp] theorem State.setThread_regs (t : ThreadId) (x : Thread) : (s.setThread t x).regs = s.regs := (rfl)
@[simp] theorem State.setThread_sram (t : ThreadId) (x : Thread) : (s.setThread t x).sram = s.sram := (rfl)
@[simp] theorem State.setThread_dram (t : ThreadId) (x : Thread) : (s.setThread t x).dram = s.dram := (rfl)
@[simp] theorem State.setThread_ridges (t : ThreadId) (x : Thread) : (s.setThread t x).ridges = s.ridges := (rfl)
@[simp] theorem State.setThread_chains (t : ThreadId) (x : Thread) : (s.setThread t x).chains = s.chains := (rfl)
@[simp] theorem State.setThread_matrix (t : ThreadId) (x : Thread) : (s.setThread t x).matrix = s.matrix := (rfl)
@[simp] theorem State.setThread_groups (t : ThreadId) (x : Thread) : (s.setThread t x).groups = s.groups := (rfl)
@[simp] theorem State.setThread_sides (t : ThreadId) (x : Thread) : (s.setThread t x).sides = s.sides := (rfl)
@[simp] theorem State.setThread_col (t : ThreadId) (x : Thread) : (s.setThread t x).col = s.col := (rfl)
@[simp] theorem State.setThread_queues (t : ThreadId) (x : Thread) : (s.setThread t x).queues = s.queues := (rfl)
@[simp] theorem State.setThread_timer (t : ThreadId) (x : Thread) : (s.setThread t x).timer = s.timer := (rfl)
@[simp] theorem State.setThread_servo (t : ThreadId) (x : Thread) : (s.setThread t x).servo = s.servo := (rfl)
@[simp] theorem State.setThread_mgt (t : ThreadId) (x : Thread) : (s.setThread t x).mgt = s.mgt := (rfl)
@[simp] theorem State.setThread_smc (t : ThreadId) (x : Thread) : (s.setThread t x).smc = s.smc := (rfl)
@[simp] theorem State.setThread_fuses (t : ThreadId) (x : Thread) : (s.setThread t x).fuses = s.fuses := (rfl)
@[simp] theorem State.setThread_cairn (t : ThreadId) (x : Thread) : (s.setThread t x).cairn = s.cairn := (rfl)
@[simp] theorem State.setThread_repair (t : ThreadId) (x : Thread) : (s.setThread t x).repair = s.repair := (rfl)
@[simp] theorem State.setThread_power (t : ThreadId) (x : Thread) : (s.setThread t x).power = s.power := (rfl)
@[simp] theorem State.setThread_ridge (t : ThreadId) (x : Thread) (h : RidgeId) : (s.setThread t x).ridge h = s.ridge h := (rfl)
@[simp] theorem State.setThread_chain (t : ThreadId) (x : Thread) (k : Fin 16) : (s.setThread t x).chain k = s.chain k := (rfl)
@[simp] theorem State.setThread_group (t : ThreadId) (x : Thread) (j : Fin 16) : (s.setThread t x).group j = s.group j := (rfl)
@[simp] theorem State.setThread_side (t : ThreadId) (x : Thread) (k : Fin 128) : (s.setThread t x).side k = s.side k := (rfl)
@[simp] theorem State.setThread_alnQueue (t : ThreadId) (x : Thread) (k : Fin 16) : (s.setThread t x).alnQueue k = s.alnQueue k := (rfl)
@[simp] theorem State.setThread_sem (t : ThreadId) (x : Thread) (k : Fin 256) : (s.setThread t x).sem k = s.sem k := (rfl)
@[simp] theorem State.setThread_reg (t : ThreadId) (x : Thread) (b o : Nat) : (s.setThread t x).reg b o = s.reg b o := (rfl)
@[simp] theorem State.setThread_sramByte (t : ThreadId) (x : Thread) (a : Nat) : (s.setThread t x).sramByte a = s.sramByte a := (rfl)
@[simp] theorem State.setThread_siteOf (t : ThreadId) (x : Thread) (h : RidgeId) : (s.setThread t x).siteOf h = s.siteOf h := (rfl)
@[simp] theorem State.setThread_inRun (t : ThreadId) (x : Thread) : (s.setThread t x).inRun = s.inRun := (rfl)
@[simp] theorem State.setThread_dieOn (t : ThreadId) (x : Thread) : (s.setThread t x).dieOn = s.dieOn := (rfl)

/-! ### `setRidge` -/

@[simp] theorem State.setRidge_pending (g : RidgeId) (x : Ridge) : (s.setRidge g x).pending = s.pending := (rfl)
@[simp] theorem State.setRidge_fresh (g : RidgeId) (x : Ridge) : (s.setRidge g x).fresh = s.fresh := (rfl)
@[simp] theorem State.setRidge_readData (g : RidgeId) (x : Ridge) : (s.setRidge g x).readData = s.readData := (rfl)
@[simp] theorem State.setRidge_regs (g : RidgeId) (x : Ridge) : (s.setRidge g x).regs = s.regs := (rfl)
@[simp] theorem State.setRidge_sram (g : RidgeId) (x : Ridge) : (s.setRidge g x).sram = s.sram := (rfl)
@[simp] theorem State.setRidge_dram (g : RidgeId) (x : Ridge) : (s.setRidge g x).dram = s.dram := (rfl)
@[simp] theorem State.setRidge_threads (g : RidgeId) (x : Ridge) : (s.setRidge g x).threads = s.threads := (rfl)
@[simp] theorem State.setRidge_chains (g : RidgeId) (x : Ridge) : (s.setRidge g x).chains = s.chains := (rfl)
@[simp] theorem State.setRidge_matrix (g : RidgeId) (x : Ridge) : (s.setRidge g x).matrix = s.matrix := (rfl)
@[simp] theorem State.setRidge_groups (g : RidgeId) (x : Ridge) : (s.setRidge g x).groups = s.groups := (rfl)
@[simp] theorem State.setRidge_sides (g : RidgeId) (x : Ridge) : (s.setRidge g x).sides = s.sides := (rfl)
@[simp] theorem State.setRidge_col (g : RidgeId) (x : Ridge) : (s.setRidge g x).col = s.col := (rfl)
@[simp] theorem State.setRidge_queues (g : RidgeId) (x : Ridge) : (s.setRidge g x).queues = s.queues := (rfl)
@[simp] theorem State.setRidge_timer (g : RidgeId) (x : Ridge) : (s.setRidge g x).timer = s.timer := (rfl)
@[simp] theorem State.setRidge_servo (g : RidgeId) (x : Ridge) : (s.setRidge g x).servo = s.servo := (rfl)
@[simp] theorem State.setRidge_mgt (g : RidgeId) (x : Ridge) : (s.setRidge g x).mgt = s.mgt := (rfl)
@[simp] theorem State.setRidge_smc (g : RidgeId) (x : Ridge) : (s.setRidge g x).smc = s.smc := (rfl)
@[simp] theorem State.setRidge_fuses (g : RidgeId) (x : Ridge) : (s.setRidge g x).fuses = s.fuses := (rfl)
@[simp] theorem State.setRidge_cairn (g : RidgeId) (x : Ridge) : (s.setRidge g x).cairn = s.cairn := (rfl)
@[simp] theorem State.setRidge_repair (g : RidgeId) (x : Ridge) : (s.setRidge g x).repair = s.repair := (rfl)
@[simp] theorem State.setRidge_power (g : RidgeId) (x : Ridge) : (s.setRidge g x).power = s.power := (rfl)
@[simp] theorem State.setRidge_thread (g : RidgeId) (x : Ridge) (v : ThreadId) : (s.setRidge g x).thread v = s.thread v := (rfl)
@[simp] theorem State.setRidge_chain (g : RidgeId) (x : Ridge) (k : Fin 16) : (s.setRidge g x).chain k = s.chain k := (rfl)
@[simp] theorem State.setRidge_group (g : RidgeId) (x : Ridge) (j : Fin 16) : (s.setRidge g x).group j = s.group j := (rfl)
@[simp] theorem State.setRidge_side (g : RidgeId) (x : Ridge) (k : Fin 128) : (s.setRidge g x).side k = s.side k := (rfl)
@[simp] theorem State.setRidge_alnQueue (g : RidgeId) (x : Ridge) (k : Fin 16) : (s.setRidge g x).alnQueue k = s.alnQueue k := (rfl)
@[simp] theorem State.setRidge_sem (g : RidgeId) (x : Ridge) (k : Fin 256) : (s.setRidge g x).sem k = s.sem k := (rfl)
@[simp] theorem State.setRidge_reg (g : RidgeId) (x : Ridge) (b o : Nat) : (s.setRidge g x).reg b o = s.reg b o := (rfl)
@[simp] theorem State.setRidge_sramByte (g : RidgeId) (x : Ridge) (a : Nat) : (s.setRidge g x).sramByte a = s.sramByte a := (rfl)
@[simp] theorem State.setRidge_siteOf (g : RidgeId) (x : Ridge) (h : RidgeId) : (s.setRidge g x).siteOf h = s.siteOf h := (rfl)
@[simp] theorem State.setRidge_inRun (g : RidgeId) (x : Ridge) : (s.setRidge g x).inRun = s.inRun := (rfl)
@[simp] theorem State.setRidge_dieOn (g : RidgeId) (x : Ridge) : (s.setRidge g x).dieOn = s.dieOn := (rfl)

/-! ### `setChain` -/

@[simp] theorem State.setChain_pending (c : Fin 16) (x : ChainInst) : (s.setChain c x).pending = s.pending := (rfl)
@[simp] theorem State.setChain_fresh (c : Fin 16) (x : ChainInst) : (s.setChain c x).fresh = s.fresh := (rfl)
@[simp] theorem State.setChain_readData (c : Fin 16) (x : ChainInst) : (s.setChain c x).readData = s.readData := (rfl)
@[simp] theorem State.setChain_regs (c : Fin 16) (x : ChainInst) : (s.setChain c x).regs = s.regs := (rfl)
@[simp] theorem State.setChain_sram (c : Fin 16) (x : ChainInst) : (s.setChain c x).sram = s.sram := (rfl)
@[simp] theorem State.setChain_dram (c : Fin 16) (x : ChainInst) : (s.setChain c x).dram = s.dram := (rfl)
@[simp] theorem State.setChain_threads (c : Fin 16) (x : ChainInst) : (s.setChain c x).threads = s.threads := (rfl)
@[simp] theorem State.setChain_ridges (c : Fin 16) (x : ChainInst) : (s.setChain c x).ridges = s.ridges := (rfl)
@[simp] theorem State.setChain_matrix (c : Fin 16) (x : ChainInst) : (s.setChain c x).matrix = s.matrix := (rfl)
@[simp] theorem State.setChain_groups (c : Fin 16) (x : ChainInst) : (s.setChain c x).groups = s.groups := (rfl)
@[simp] theorem State.setChain_sides (c : Fin 16) (x : ChainInst) : (s.setChain c x).sides = s.sides := (rfl)
@[simp] theorem State.setChain_col (c : Fin 16) (x : ChainInst) : (s.setChain c x).col = s.col := (rfl)
@[simp] theorem State.setChain_queues (c : Fin 16) (x : ChainInst) : (s.setChain c x).queues = s.queues := (rfl)
@[simp] theorem State.setChain_timer (c : Fin 16) (x : ChainInst) : (s.setChain c x).timer = s.timer := (rfl)
@[simp] theorem State.setChain_servo (c : Fin 16) (x : ChainInst) : (s.setChain c x).servo = s.servo := (rfl)
@[simp] theorem State.setChain_mgt (c : Fin 16) (x : ChainInst) : (s.setChain c x).mgt = s.mgt := (rfl)
@[simp] theorem State.setChain_smc (c : Fin 16) (x : ChainInst) : (s.setChain c x).smc = s.smc := (rfl)
@[simp] theorem State.setChain_fuses (c : Fin 16) (x : ChainInst) : (s.setChain c x).fuses = s.fuses := (rfl)
@[simp] theorem State.setChain_cairn (c : Fin 16) (x : ChainInst) : (s.setChain c x).cairn = s.cairn := (rfl)
@[simp] theorem State.setChain_repair (c : Fin 16) (x : ChainInst) : (s.setChain c x).repair = s.repair := (rfl)
@[simp] theorem State.setChain_power (c : Fin 16) (x : ChainInst) : (s.setChain c x).power = s.power := (rfl)
@[simp] theorem State.setChain_thread (c : Fin 16) (x : ChainInst) (v : ThreadId) : (s.setChain c x).thread v = s.thread v := (rfl)
@[simp] theorem State.setChain_ridge (c : Fin 16) (x : ChainInst) (h : RidgeId) : (s.setChain c x).ridge h = s.ridge h := (rfl)
@[simp] theorem State.setChain_group (c : Fin 16) (x : ChainInst) (j : Fin 16) : (s.setChain c x).group j = s.group j := (rfl)
@[simp] theorem State.setChain_side (c : Fin 16) (x : ChainInst) (k : Fin 128) : (s.setChain c x).side k = s.side k := (rfl)
@[simp] theorem State.setChain_alnQueue (c : Fin 16) (x : ChainInst) (k : Fin 16) : (s.setChain c x).alnQueue k = s.alnQueue k := (rfl)
@[simp] theorem State.setChain_sem (c : Fin 16) (x : ChainInst) (k : Fin 256) : (s.setChain c x).sem k = s.sem k := (rfl)
@[simp] theorem State.setChain_reg (c : Fin 16) (x : ChainInst) (b o : Nat) : (s.setChain c x).reg b o = s.reg b o := (rfl)
@[simp] theorem State.setChain_sramByte (c : Fin 16) (x : ChainInst) (a : Nat) : (s.setChain c x).sramByte a = s.sramByte a := (rfl)
@[simp] theorem State.setChain_siteOf (c : Fin 16) (x : ChainInst) (h : RidgeId) : (s.setChain c x).siteOf h = s.siteOf h := (rfl)
@[simp] theorem State.setChain_inRun (c : Fin 16) (x : ChainInst) : (s.setChain c x).inRun = s.inRun := (rfl)
@[simp] theorem State.setChain_dieOn (c : Fin 16) (x : ChainInst) : (s.setChain c x).dieOn = s.dieOn := (rfl)

/-! ### `setPort` -/

@[simp] theorem State.setPort_pending (g : RidgeId) (c : Fin 16) (x : ChainPort) : (s.setPort g c x).pending = s.pending := (rfl)
@[simp] theorem State.setPort_fresh (g : RidgeId) (c : Fin 16) (x : ChainPort) : (s.setPort g c x).fresh = s.fresh := (rfl)
@[simp] theorem State.setPort_readData (g : RidgeId) (c : Fin 16) (x : ChainPort) : (s.setPort g c x).readData = s.readData := (rfl)
@[simp] theorem State.setPort_regs (g : RidgeId) (c : Fin 16) (x : ChainPort) : (s.setPort g c x).regs = s.regs := (rfl)
@[simp] theorem State.setPort_sram (g : RidgeId) (c : Fin 16) (x : ChainPort) : (s.setPort g c x).sram = s.sram := (rfl)
@[simp] theorem State.setPort_dram (g : RidgeId) (c : Fin 16) (x : ChainPort) : (s.setPort g c x).dram = s.dram := (rfl)
@[simp] theorem State.setPort_threads (g : RidgeId) (c : Fin 16) (x : ChainPort) : (s.setPort g c x).threads = s.threads := (rfl)
@[simp] theorem State.setPort_chains (g : RidgeId) (c : Fin 16) (x : ChainPort) : (s.setPort g c x).chains = s.chains := (rfl)
@[simp] theorem State.setPort_matrix (g : RidgeId) (c : Fin 16) (x : ChainPort) : (s.setPort g c x).matrix = s.matrix := (rfl)
@[simp] theorem State.setPort_groups (g : RidgeId) (c : Fin 16) (x : ChainPort) : (s.setPort g c x).groups = s.groups := (rfl)
@[simp] theorem State.setPort_sides (g : RidgeId) (c : Fin 16) (x : ChainPort) : (s.setPort g c x).sides = s.sides := (rfl)
@[simp] theorem State.setPort_col (g : RidgeId) (c : Fin 16) (x : ChainPort) : (s.setPort g c x).col = s.col := (rfl)
@[simp] theorem State.setPort_queues (g : RidgeId) (c : Fin 16) (x : ChainPort) : (s.setPort g c x).queues = s.queues := (rfl)
@[simp] theorem State.setPort_timer (g : RidgeId) (c : Fin 16) (x : ChainPort) : (s.setPort g c x).timer = s.timer := (rfl)
@[simp] theorem State.setPort_servo (g : RidgeId) (c : Fin 16) (x : ChainPort) : (s.setPort g c x).servo = s.servo := (rfl)
@[simp] theorem State.setPort_mgt (g : RidgeId) (c : Fin 16) (x : ChainPort) : (s.setPort g c x).mgt = s.mgt := (rfl)
@[simp] theorem State.setPort_smc (g : RidgeId) (c : Fin 16) (x : ChainPort) : (s.setPort g c x).smc = s.smc := (rfl)
@[simp] theorem State.setPort_fuses (g : RidgeId) (c : Fin 16) (x : ChainPort) : (s.setPort g c x).fuses = s.fuses := (rfl)
@[simp] theorem State.setPort_cairn (g : RidgeId) (c : Fin 16) (x : ChainPort) : (s.setPort g c x).cairn = s.cairn := (rfl)
@[simp] theorem State.setPort_repair (g : RidgeId) (c : Fin 16) (x : ChainPort) : (s.setPort g c x).repair = s.repair := (rfl)
@[simp] theorem State.setPort_power (g : RidgeId) (c : Fin 16) (x : ChainPort) : (s.setPort g c x).power = s.power := (rfl)
@[simp] theorem State.setPort_thread (g : RidgeId) (c : Fin 16) (x : ChainPort) (v : ThreadId) : (s.setPort g c x).thread v = s.thread v := (rfl)
@[simp] theorem State.setPort_chain (g : RidgeId) (c : Fin 16) (x : ChainPort) (k : Fin 16) : (s.setPort g c x).chain k = s.chain k := (rfl)
@[simp] theorem State.setPort_group (g : RidgeId) (c : Fin 16) (x : ChainPort) (j : Fin 16) : (s.setPort g c x).group j = s.group j := (rfl)
@[simp] theorem State.setPort_side (g : RidgeId) (c : Fin 16) (x : ChainPort) (k : Fin 128) : (s.setPort g c x).side k = s.side k := (rfl)
@[simp] theorem State.setPort_alnQueue (g : RidgeId) (c : Fin 16) (x : ChainPort) (k : Fin 16) : (s.setPort g c x).alnQueue k = s.alnQueue k := (rfl)
@[simp] theorem State.setPort_sem (g : RidgeId) (c : Fin 16) (x : ChainPort) (k : Fin 256) : (s.setPort g c x).sem k = s.sem k := (rfl)
@[simp] theorem State.setPort_reg (g : RidgeId) (c : Fin 16) (x : ChainPort) (b o : Nat) : (s.setPort g c x).reg b o = s.reg b o := (rfl)
@[simp] theorem State.setPort_sramByte (g : RidgeId) (c : Fin 16) (x : ChainPort) (a : Nat) : (s.setPort g c x).sramByte a = s.sramByte a := (rfl)
@[simp] theorem State.setPort_siteOf (g : RidgeId) (c : Fin 16) (x : ChainPort) (h : RidgeId) : (s.setPort g c x).siteOf h = s.siteOf h := (rfl)
@[simp] theorem State.setPort_inRun (g : RidgeId) (c : Fin 16) (x : ChainPort) : (s.setPort g c x).inRun = s.inRun := (rfl)
@[simp] theorem State.setPort_dieOn (g : RidgeId) (c : Fin 16) (x : ChainPort) : (s.setPort g c x).dieOn = s.dieOn := (rfl)

/-! ### `putStream` -/

@[simp] theorem State.putStream_pending (g : RidgeId) (m : Stream) : (s.putStream g m).pending = s.pending := (rfl)
@[simp] theorem State.putStream_fresh (g : RidgeId) (m : Stream) : (s.putStream g m).fresh = s.fresh := (rfl)
@[simp] theorem State.putStream_readData (g : RidgeId) (m : Stream) : (s.putStream g m).readData = s.readData := (rfl)
@[simp] theorem State.putStream_regs (g : RidgeId) (m : Stream) : (s.putStream g m).regs = s.regs := (rfl)
@[simp] theorem State.putStream_sram (g : RidgeId) (m : Stream) : (s.putStream g m).sram = s.sram := (rfl)
@[simp] theorem State.putStream_dram (g : RidgeId) (m : Stream) : (s.putStream g m).dram = s.dram := (rfl)
@[simp] theorem State.putStream_threads (g : RidgeId) (m : Stream) : (s.putStream g m).threads = s.threads := (rfl)
@[simp] theorem State.putStream_chains (g : RidgeId) (m : Stream) : (s.putStream g m).chains = s.chains := (rfl)
@[simp] theorem State.putStream_matrix (g : RidgeId) (m : Stream) : (s.putStream g m).matrix = s.matrix := (rfl)
@[simp] theorem State.putStream_groups (g : RidgeId) (m : Stream) : (s.putStream g m).groups = s.groups := (rfl)
@[simp] theorem State.putStream_sides (g : RidgeId) (m : Stream) : (s.putStream g m).sides = s.sides := (rfl)
@[simp] theorem State.putStream_col (g : RidgeId) (m : Stream) : (s.putStream g m).col = s.col := (rfl)
@[simp] theorem State.putStream_queues (g : RidgeId) (m : Stream) : (s.putStream g m).queues = s.queues := (rfl)
@[simp] theorem State.putStream_timer (g : RidgeId) (m : Stream) : (s.putStream g m).timer = s.timer := (rfl)
@[simp] theorem State.putStream_servo (g : RidgeId) (m : Stream) : (s.putStream g m).servo = s.servo := (rfl)
@[simp] theorem State.putStream_mgt (g : RidgeId) (m : Stream) : (s.putStream g m).mgt = s.mgt := (rfl)
@[simp] theorem State.putStream_smc (g : RidgeId) (m : Stream) : (s.putStream g m).smc = s.smc := (rfl)
@[simp] theorem State.putStream_fuses (g : RidgeId) (m : Stream) : (s.putStream g m).fuses = s.fuses := (rfl)
@[simp] theorem State.putStream_cairn (g : RidgeId) (m : Stream) : (s.putStream g m).cairn = s.cairn := (rfl)
@[simp] theorem State.putStream_repair (g : RidgeId) (m : Stream) : (s.putStream g m).repair = s.repair := (rfl)
@[simp] theorem State.putStream_power (g : RidgeId) (m : Stream) : (s.putStream g m).power = s.power := (rfl)
@[simp] theorem State.putStream_thread (g : RidgeId) (m : Stream) (v : ThreadId) : (s.putStream g m).thread v = s.thread v := (rfl)
@[simp] theorem State.putStream_chain (g : RidgeId) (m : Stream) (k : Fin 16) : (s.putStream g m).chain k = s.chain k := (rfl)
@[simp] theorem State.putStream_group (g : RidgeId) (m : Stream) (j : Fin 16) : (s.putStream g m).group j = s.group j := (rfl)
@[simp] theorem State.putStream_side (g : RidgeId) (m : Stream) (k : Fin 128) : (s.putStream g m).side k = s.side k := (rfl)
@[simp] theorem State.putStream_alnQueue (g : RidgeId) (m : Stream) (k : Fin 16) : (s.putStream g m).alnQueue k = s.alnQueue k := (rfl)
@[simp] theorem State.putStream_sem (g : RidgeId) (m : Stream) (k : Fin 256) : (s.putStream g m).sem k = s.sem k := (rfl)
@[simp] theorem State.putStream_reg (g : RidgeId) (m : Stream) (b o : Nat) : (s.putStream g m).reg b o = s.reg b o := (rfl)
@[simp] theorem State.putStream_sramByte (g : RidgeId) (m : Stream) (a : Nat) : (s.putStream g m).sramByte a = s.sramByte a := (rfl)
@[simp] theorem State.putStream_siteOf (g : RidgeId) (m : Stream) (h : RidgeId) : (s.putStream g m).siteOf h = s.siteOf h := (rfl)
@[simp] theorem State.putStream_inRun (g : RidgeId) (m : Stream) : (s.putStream g m).inRun = s.inRun := (rfl)
@[simp] theorem State.putStream_dieOn (g : RidgeId) (m : Stream) : (s.putStream g m).dieOn = s.dieOn := (rfl)

/-! ### `setGroup` -/

@[simp] theorem State.setGroup_pending (n : Fin 16) (x : LinkGroup) : (s.setGroup n x).pending = s.pending := (rfl)
@[simp] theorem State.setGroup_fresh (n : Fin 16) (x : LinkGroup) : (s.setGroup n x).fresh = s.fresh := (rfl)
@[simp] theorem State.setGroup_readData (n : Fin 16) (x : LinkGroup) : (s.setGroup n x).readData = s.readData := (rfl)
@[simp] theorem State.setGroup_regs (n : Fin 16) (x : LinkGroup) : (s.setGroup n x).regs = s.regs := (rfl)
@[simp] theorem State.setGroup_sram (n : Fin 16) (x : LinkGroup) : (s.setGroup n x).sram = s.sram := (rfl)
@[simp] theorem State.setGroup_dram (n : Fin 16) (x : LinkGroup) : (s.setGroup n x).dram = s.dram := (rfl)
@[simp] theorem State.setGroup_threads (n : Fin 16) (x : LinkGroup) : (s.setGroup n x).threads = s.threads := (rfl)
@[simp] theorem State.setGroup_ridges (n : Fin 16) (x : LinkGroup) : (s.setGroup n x).ridges = s.ridges := (rfl)
@[simp] theorem State.setGroup_chains (n : Fin 16) (x : LinkGroup) : (s.setGroup n x).chains = s.chains := (rfl)
@[simp] theorem State.setGroup_matrix (n : Fin 16) (x : LinkGroup) : (s.setGroup n x).matrix = s.matrix := (rfl)
@[simp] theorem State.setGroup_sides (n : Fin 16) (x : LinkGroup) : (s.setGroup n x).sides = s.sides := (rfl)
@[simp] theorem State.setGroup_col (n : Fin 16) (x : LinkGroup) : (s.setGroup n x).col = s.col := (rfl)
@[simp] theorem State.setGroup_queues (n : Fin 16) (x : LinkGroup) : (s.setGroup n x).queues = s.queues := (rfl)
@[simp] theorem State.setGroup_timer (n : Fin 16) (x : LinkGroup) : (s.setGroup n x).timer = s.timer := (rfl)
@[simp] theorem State.setGroup_servo (n : Fin 16) (x : LinkGroup) : (s.setGroup n x).servo = s.servo := (rfl)
@[simp] theorem State.setGroup_mgt (n : Fin 16) (x : LinkGroup) : (s.setGroup n x).mgt = s.mgt := (rfl)
@[simp] theorem State.setGroup_smc (n : Fin 16) (x : LinkGroup) : (s.setGroup n x).smc = s.smc := (rfl)
@[simp] theorem State.setGroup_fuses (n : Fin 16) (x : LinkGroup) : (s.setGroup n x).fuses = s.fuses := (rfl)
@[simp] theorem State.setGroup_cairn (n : Fin 16) (x : LinkGroup) : (s.setGroup n x).cairn = s.cairn := (rfl)
@[simp] theorem State.setGroup_repair (n : Fin 16) (x : LinkGroup) : (s.setGroup n x).repair = s.repair := (rfl)
@[simp] theorem State.setGroup_power (n : Fin 16) (x : LinkGroup) : (s.setGroup n x).power = s.power := (rfl)
@[simp] theorem State.setGroup_thread (n : Fin 16) (x : LinkGroup) (v : ThreadId) : (s.setGroup n x).thread v = s.thread v := (rfl)
@[simp] theorem State.setGroup_ridge (n : Fin 16) (x : LinkGroup) (h : RidgeId) : (s.setGroup n x).ridge h = s.ridge h := (rfl)
@[simp] theorem State.setGroup_chain (n : Fin 16) (x : LinkGroup) (k : Fin 16) : (s.setGroup n x).chain k = s.chain k := (rfl)
@[simp] theorem State.setGroup_side (n : Fin 16) (x : LinkGroup) (k : Fin 128) : (s.setGroup n x).side k = s.side k := (rfl)
@[simp] theorem State.setGroup_alnQueue (n : Fin 16) (x : LinkGroup) (k : Fin 16) : (s.setGroup n x).alnQueue k = s.alnQueue k := (rfl)
@[simp] theorem State.setGroup_sem (n : Fin 16) (x : LinkGroup) (k : Fin 256) : (s.setGroup n x).sem k = s.sem k := (rfl)
@[simp] theorem State.setGroup_reg (n : Fin 16) (x : LinkGroup) (b o : Nat) : (s.setGroup n x).reg b o = s.reg b o := (rfl)
@[simp] theorem State.setGroup_sramByte (n : Fin 16) (x : LinkGroup) (a : Nat) : (s.setGroup n x).sramByte a = s.sramByte a := (rfl)
@[simp] theorem State.setGroup_siteOf (n : Fin 16) (x : LinkGroup) (h : RidgeId) : (s.setGroup n x).siteOf h = s.siteOf h := (rfl)
@[simp] theorem State.setGroup_inRun (n : Fin 16) (x : LinkGroup) : (s.setGroup n x).inRun = s.inRun := (rfl)
@[simp] theorem State.setGroup_dieOn (n : Fin 16) (x : LinkGroup) : (s.setGroup n x).dieOn = s.dieOn := (rfl)

/-! ### `setSide` -/

@[simp] theorem State.setSide_pending (l : Fin 128) (x : LinkSide) : (s.setSide l x).pending = s.pending := (rfl)
@[simp] theorem State.setSide_fresh (l : Fin 128) (x : LinkSide) : (s.setSide l x).fresh = s.fresh := (rfl)
@[simp] theorem State.setSide_readData (l : Fin 128) (x : LinkSide) : (s.setSide l x).readData = s.readData := (rfl)
@[simp] theorem State.setSide_regs (l : Fin 128) (x : LinkSide) : (s.setSide l x).regs = s.regs := (rfl)
@[simp] theorem State.setSide_sram (l : Fin 128) (x : LinkSide) : (s.setSide l x).sram = s.sram := (rfl)
@[simp] theorem State.setSide_dram (l : Fin 128) (x : LinkSide) : (s.setSide l x).dram = s.dram := (rfl)
@[simp] theorem State.setSide_threads (l : Fin 128) (x : LinkSide) : (s.setSide l x).threads = s.threads := (rfl)
@[simp] theorem State.setSide_ridges (l : Fin 128) (x : LinkSide) : (s.setSide l x).ridges = s.ridges := (rfl)
@[simp] theorem State.setSide_chains (l : Fin 128) (x : LinkSide) : (s.setSide l x).chains = s.chains := (rfl)
@[simp] theorem State.setSide_matrix (l : Fin 128) (x : LinkSide) : (s.setSide l x).matrix = s.matrix := (rfl)
@[simp] theorem State.setSide_groups (l : Fin 128) (x : LinkSide) : (s.setSide l x).groups = s.groups := (rfl)
@[simp] theorem State.setSide_col (l : Fin 128) (x : LinkSide) : (s.setSide l x).col = s.col := (rfl)
@[simp] theorem State.setSide_queues (l : Fin 128) (x : LinkSide) : (s.setSide l x).queues = s.queues := (rfl)
@[simp] theorem State.setSide_timer (l : Fin 128) (x : LinkSide) : (s.setSide l x).timer = s.timer := (rfl)
@[simp] theorem State.setSide_servo (l : Fin 128) (x : LinkSide) : (s.setSide l x).servo = s.servo := (rfl)
@[simp] theorem State.setSide_mgt (l : Fin 128) (x : LinkSide) : (s.setSide l x).mgt = s.mgt := (rfl)
@[simp] theorem State.setSide_smc (l : Fin 128) (x : LinkSide) : (s.setSide l x).smc = s.smc := (rfl)
@[simp] theorem State.setSide_fuses (l : Fin 128) (x : LinkSide) : (s.setSide l x).fuses = s.fuses := (rfl)
@[simp] theorem State.setSide_cairn (l : Fin 128) (x : LinkSide) : (s.setSide l x).cairn = s.cairn := (rfl)
@[simp] theorem State.setSide_repair (l : Fin 128) (x : LinkSide) : (s.setSide l x).repair = s.repair := (rfl)
@[simp] theorem State.setSide_power (l : Fin 128) (x : LinkSide) : (s.setSide l x).power = s.power := (rfl)
@[simp] theorem State.setSide_thread (l : Fin 128) (x : LinkSide) (v : ThreadId) : (s.setSide l x).thread v = s.thread v := (rfl)
@[simp] theorem State.setSide_ridge (l : Fin 128) (x : LinkSide) (h : RidgeId) : (s.setSide l x).ridge h = s.ridge h := (rfl)
@[simp] theorem State.setSide_chain (l : Fin 128) (x : LinkSide) (k : Fin 16) : (s.setSide l x).chain k = s.chain k := (rfl)
@[simp] theorem State.setSide_group (l : Fin 128) (x : LinkSide) (j : Fin 16) : (s.setSide l x).group j = s.group j := (rfl)
@[simp] theorem State.setSide_alnQueue (l : Fin 128) (x : LinkSide) (k : Fin 16) : (s.setSide l x).alnQueue k = s.alnQueue k := (rfl)
@[simp] theorem State.setSide_sem (l : Fin 128) (x : LinkSide) (k : Fin 256) : (s.setSide l x).sem k = s.sem k := (rfl)
@[simp] theorem State.setSide_reg (l : Fin 128) (x : LinkSide) (b o : Nat) : (s.setSide l x).reg b o = s.reg b o := (rfl)
@[simp] theorem State.setSide_sramByte (l : Fin 128) (x : LinkSide) (a : Nat) : (s.setSide l x).sramByte a = s.sramByte a := (rfl)
@[simp] theorem State.setSide_siteOf (l : Fin 128) (x : LinkSide) (h : RidgeId) : (s.setSide l x).siteOf h = s.siteOf h := (rfl)
@[simp] theorem State.setSide_inRun (l : Fin 128) (x : LinkSide) : (s.setSide l x).inRun = s.inRun := (rfl)
@[simp] theorem State.setSide_dieOn (l : Fin 128) (x : LinkSide) : (s.setSide l x).dieOn = s.dieOn := (rfl)

/-! ### `setAlnQueue` -/

@[simp] theorem State.setAlnQueue_pending (q : Fin 16) (x : AlnQueue) : (s.setAlnQueue q x).pending = s.pending := (rfl)
@[simp] theorem State.setAlnQueue_fresh (q : Fin 16) (x : AlnQueue) : (s.setAlnQueue q x).fresh = s.fresh := (rfl)
@[simp] theorem State.setAlnQueue_readData (q : Fin 16) (x : AlnQueue) : (s.setAlnQueue q x).readData = s.readData := (rfl)
@[simp] theorem State.setAlnQueue_regs (q : Fin 16) (x : AlnQueue) : (s.setAlnQueue q x).regs = s.regs := (rfl)
@[simp] theorem State.setAlnQueue_sram (q : Fin 16) (x : AlnQueue) : (s.setAlnQueue q x).sram = s.sram := (rfl)
@[simp] theorem State.setAlnQueue_dram (q : Fin 16) (x : AlnQueue) : (s.setAlnQueue q x).dram = s.dram := (rfl)
@[simp] theorem State.setAlnQueue_threads (q : Fin 16) (x : AlnQueue) : (s.setAlnQueue q x).threads = s.threads := (rfl)
@[simp] theorem State.setAlnQueue_ridges (q : Fin 16) (x : AlnQueue) : (s.setAlnQueue q x).ridges = s.ridges := (rfl)
@[simp] theorem State.setAlnQueue_chains (q : Fin 16) (x : AlnQueue) : (s.setAlnQueue q x).chains = s.chains := (rfl)
@[simp] theorem State.setAlnQueue_matrix (q : Fin 16) (x : AlnQueue) : (s.setAlnQueue q x).matrix = s.matrix := (rfl)
@[simp] theorem State.setAlnQueue_groups (q : Fin 16) (x : AlnQueue) : (s.setAlnQueue q x).groups = s.groups := (rfl)
@[simp] theorem State.setAlnQueue_sides (q : Fin 16) (x : AlnQueue) : (s.setAlnQueue q x).sides = s.sides := (rfl)
@[simp] theorem State.setAlnQueue_col (q : Fin 16) (x : AlnQueue) : (s.setAlnQueue q x).col = s.col := (rfl)
@[simp] theorem State.setAlnQueue_timer (q : Fin 16) (x : AlnQueue) : (s.setAlnQueue q x).timer = s.timer := (rfl)
@[simp] theorem State.setAlnQueue_servo (q : Fin 16) (x : AlnQueue) : (s.setAlnQueue q x).servo = s.servo := (rfl)
@[simp] theorem State.setAlnQueue_mgt (q : Fin 16) (x : AlnQueue) : (s.setAlnQueue q x).mgt = s.mgt := (rfl)
@[simp] theorem State.setAlnQueue_smc (q : Fin 16) (x : AlnQueue) : (s.setAlnQueue q x).smc = s.smc := (rfl)
@[simp] theorem State.setAlnQueue_fuses (q : Fin 16) (x : AlnQueue) : (s.setAlnQueue q x).fuses = s.fuses := (rfl)
@[simp] theorem State.setAlnQueue_cairn (q : Fin 16) (x : AlnQueue) : (s.setAlnQueue q x).cairn = s.cairn := (rfl)
@[simp] theorem State.setAlnQueue_repair (q : Fin 16) (x : AlnQueue) : (s.setAlnQueue q x).repair = s.repair := (rfl)
@[simp] theorem State.setAlnQueue_power (q : Fin 16) (x : AlnQueue) : (s.setAlnQueue q x).power = s.power := (rfl)
@[simp] theorem State.setAlnQueue_thread (q : Fin 16) (x : AlnQueue) (v : ThreadId) : (s.setAlnQueue q x).thread v = s.thread v := (rfl)
@[simp] theorem State.setAlnQueue_ridge (q : Fin 16) (x : AlnQueue) (h : RidgeId) : (s.setAlnQueue q x).ridge h = s.ridge h := (rfl)
@[simp] theorem State.setAlnQueue_chain (q : Fin 16) (x : AlnQueue) (k : Fin 16) : (s.setAlnQueue q x).chain k = s.chain k := (rfl)
@[simp] theorem State.setAlnQueue_group (q : Fin 16) (x : AlnQueue) (j : Fin 16) : (s.setAlnQueue q x).group j = s.group j := (rfl)
@[simp] theorem State.setAlnQueue_side (q : Fin 16) (x : AlnQueue) (k : Fin 128) : (s.setAlnQueue q x).side k = s.side k := (rfl)
@[simp] theorem State.setAlnQueue_sem (q : Fin 16) (x : AlnQueue) (k : Fin 256) : (s.setAlnQueue q x).sem k = s.sem k := (rfl)
@[simp] theorem State.setAlnQueue_reg (q : Fin 16) (x : AlnQueue) (b o : Nat) : (s.setAlnQueue q x).reg b o = s.reg b o := (rfl)
@[simp] theorem State.setAlnQueue_sramByte (q : Fin 16) (x : AlnQueue) (a : Nat) : (s.setAlnQueue q x).sramByte a = s.sramByte a := (rfl)
@[simp] theorem State.setAlnQueue_siteOf (q : Fin 16) (x : AlnQueue) (h : RidgeId) : (s.setAlnQueue q x).siteOf h = s.siteOf h := (rfl)
@[simp] theorem State.setAlnQueue_inRun (q : Fin 16) (x : AlnQueue) : (s.setAlnQueue q x).inRun = s.inRun := (rfl)
@[simp] theorem State.setAlnQueue_dieOn (q : Fin 16) (x : AlnQueue) : (s.setAlnQueue q x).dieOn = s.dieOn := (rfl)

/-! ### `setSem` -/

@[simp] theorem State.setSem_pending (n : Fin 256) (x : Sem) : (s.setSem n x).pending = s.pending := (rfl)
@[simp] theorem State.setSem_fresh (n : Fin 256) (x : Sem) : (s.setSem n x).fresh = s.fresh := (rfl)
@[simp] theorem State.setSem_readData (n : Fin 256) (x : Sem) : (s.setSem n x).readData = s.readData := (rfl)
@[simp] theorem State.setSem_regs (n : Fin 256) (x : Sem) : (s.setSem n x).regs = s.regs := (rfl)
@[simp] theorem State.setSem_dram (n : Fin 256) (x : Sem) : (s.setSem n x).dram = s.dram := (rfl)
@[simp] theorem State.setSem_threads (n : Fin 256) (x : Sem) : (s.setSem n x).threads = s.threads := (rfl)
@[simp] theorem State.setSem_ridges (n : Fin 256) (x : Sem) : (s.setSem n x).ridges = s.ridges := (rfl)
@[simp] theorem State.setSem_chains (n : Fin 256) (x : Sem) : (s.setSem n x).chains = s.chains := (rfl)
@[simp] theorem State.setSem_matrix (n : Fin 256) (x : Sem) : (s.setSem n x).matrix = s.matrix := (rfl)
@[simp] theorem State.setSem_groups (n : Fin 256) (x : Sem) : (s.setSem n x).groups = s.groups := (rfl)
@[simp] theorem State.setSem_sides (n : Fin 256) (x : Sem) : (s.setSem n x).sides = s.sides := (rfl)
@[simp] theorem State.setSem_col (n : Fin 256) (x : Sem) : (s.setSem n x).col = s.col := (rfl)
@[simp] theorem State.setSem_queues (n : Fin 256) (x : Sem) : (s.setSem n x).queues = s.queues := (rfl)
@[simp] theorem State.setSem_timer (n : Fin 256) (x : Sem) : (s.setSem n x).timer = s.timer := (rfl)
@[simp] theorem State.setSem_servo (n : Fin 256) (x : Sem) : (s.setSem n x).servo = s.servo := (rfl)
@[simp] theorem State.setSem_mgt (n : Fin 256) (x : Sem) : (s.setSem n x).mgt = s.mgt := (rfl)
@[simp] theorem State.setSem_smc (n : Fin 256) (x : Sem) : (s.setSem n x).smc = s.smc := (rfl)
@[simp] theorem State.setSem_fuses (n : Fin 256) (x : Sem) : (s.setSem n x).fuses = s.fuses := (rfl)
@[simp] theorem State.setSem_cairn (n : Fin 256) (x : Sem) : (s.setSem n x).cairn = s.cairn := (rfl)
@[simp] theorem State.setSem_repair (n : Fin 256) (x : Sem) : (s.setSem n x).repair = s.repair := (rfl)
@[simp] theorem State.setSem_power (n : Fin 256) (x : Sem) : (s.setSem n x).power = s.power := (rfl)
@[simp] theorem State.setSem_thread (n : Fin 256) (x : Sem) (v : ThreadId) : (s.setSem n x).thread v = s.thread v := (rfl)
@[simp] theorem State.setSem_ridge (n : Fin 256) (x : Sem) (h : RidgeId) : (s.setSem n x).ridge h = s.ridge h := (rfl)
@[simp] theorem State.setSem_chain (n : Fin 256) (x : Sem) (k : Fin 16) : (s.setSem n x).chain k = s.chain k := (rfl)
@[simp] theorem State.setSem_group (n : Fin 256) (x : Sem) (j : Fin 16) : (s.setSem n x).group j = s.group j := (rfl)
@[simp] theorem State.setSem_side (n : Fin 256) (x : Sem) (k : Fin 128) : (s.setSem n x).side k = s.side k := (rfl)
@[simp] theorem State.setSem_alnQueue (n : Fin 256) (x : Sem) (k : Fin 16) : (s.setSem n x).alnQueue k = s.alnQueue k := (rfl)
@[simp] theorem State.setSem_reg (n : Fin 256) (x : Sem) (b o : Nat) : (s.setSem n x).reg b o = s.reg b o := (rfl)
@[simp] theorem State.setSem_siteOf (n : Fin 256) (x : Sem) (h : RidgeId) : (s.setSem n x).siteOf h = s.siteOf h := (rfl)
@[simp] theorem State.setSem_inRun (n : Fin 256) (x : Sem) : (s.setSem n x).inRun = s.inRun := (rfl)
@[simp] theorem State.setSem_dieOn (n : Fin 256) (x : Sem) : (s.setSem n x).dieOn = s.dieOn := (rfl)

/-! ### `storeWord` -/

@[simp] theorem State.storeWord_pending (w : Nat) (bs : List Byte) : (s.storeWord w bs).pending = s.pending := (rfl)
@[simp] theorem State.storeWord_fresh (w : Nat) (bs : List Byte) : (s.storeWord w bs).fresh = s.fresh := (rfl)
@[simp] theorem State.storeWord_readData (w : Nat) (bs : List Byte) : (s.storeWord w bs).readData = s.readData := (rfl)
@[simp] theorem State.storeWord_regs (w : Nat) (bs : List Byte) : (s.storeWord w bs).regs = s.regs := (rfl)
@[simp] theorem State.storeWord_dram (w : Nat) (bs : List Byte) : (s.storeWord w bs).dram = s.dram := (rfl)
@[simp] theorem State.storeWord_threads (w : Nat) (bs : List Byte) : (s.storeWord w bs).threads = s.threads := (rfl)
@[simp] theorem State.storeWord_ridges (w : Nat) (bs : List Byte) : (s.storeWord w bs).ridges = s.ridges := (rfl)
@[simp] theorem State.storeWord_chains (w : Nat) (bs : List Byte) : (s.storeWord w bs).chains = s.chains := (rfl)
@[simp] theorem State.storeWord_matrix (w : Nat) (bs : List Byte) : (s.storeWord w bs).matrix = s.matrix := (rfl)
@[simp] theorem State.storeWord_groups (w : Nat) (bs : List Byte) : (s.storeWord w bs).groups = s.groups := (rfl)
@[simp] theorem State.storeWord_sides (w : Nat) (bs : List Byte) : (s.storeWord w bs).sides = s.sides := (rfl)
@[simp] theorem State.storeWord_col (w : Nat) (bs : List Byte) : (s.storeWord w bs).col = s.col := (rfl)
@[simp] theorem State.storeWord_queues (w : Nat) (bs : List Byte) : (s.storeWord w bs).queues = s.queues := (rfl)
@[simp] theorem State.storeWord_timer (w : Nat) (bs : List Byte) : (s.storeWord w bs).timer = s.timer := (rfl)
@[simp] theorem State.storeWord_servo (w : Nat) (bs : List Byte) : (s.storeWord w bs).servo = s.servo := (rfl)
@[simp] theorem State.storeWord_mgt (w : Nat) (bs : List Byte) : (s.storeWord w bs).mgt = s.mgt := (rfl)
@[simp] theorem State.storeWord_smc (w : Nat) (bs : List Byte) : (s.storeWord w bs).smc = s.smc := (rfl)
@[simp] theorem State.storeWord_fuses (w : Nat) (bs : List Byte) : (s.storeWord w bs).fuses = s.fuses := (rfl)
@[simp] theorem State.storeWord_cairn (w : Nat) (bs : List Byte) : (s.storeWord w bs).cairn = s.cairn := (rfl)
@[simp] theorem State.storeWord_repair (w : Nat) (bs : List Byte) : (s.storeWord w bs).repair = s.repair := (rfl)
@[simp] theorem State.storeWord_power (w : Nat) (bs : List Byte) : (s.storeWord w bs).power = s.power := (rfl)
@[simp] theorem State.storeWord_thread (w : Nat) (bs : List Byte) (v : ThreadId) : (s.storeWord w bs).thread v = s.thread v := (rfl)
@[simp] theorem State.storeWord_ridge (w : Nat) (bs : List Byte) (h : RidgeId) : (s.storeWord w bs).ridge h = s.ridge h := (rfl)
@[simp] theorem State.storeWord_chain (w : Nat) (bs : List Byte) (k : Fin 16) : (s.storeWord w bs).chain k = s.chain k := (rfl)
@[simp] theorem State.storeWord_group (w : Nat) (bs : List Byte) (j : Fin 16) : (s.storeWord w bs).group j = s.group j := (rfl)
@[simp] theorem State.storeWord_side (w : Nat) (bs : List Byte) (k : Fin 128) : (s.storeWord w bs).side k = s.side k := (rfl)
@[simp] theorem State.storeWord_alnQueue (w : Nat) (bs : List Byte) (k : Fin 16) : (s.storeWord w bs).alnQueue k = s.alnQueue k := (rfl)
@[simp] theorem State.storeWord_reg (w : Nat) (bs : List Byte) (b o : Nat) : (s.storeWord w bs).reg b o = s.reg b o := (rfl)
@[simp] theorem State.storeWord_siteOf (w : Nat) (bs : List Byte) (h : RidgeId) : (s.storeWord w bs).siteOf h = s.siteOf h := (rfl)
@[simp] theorem State.storeWord_inRun (w : Nat) (bs : List Byte) : (s.storeWord w bs).inRun = s.inRun := (rfl)
@[simp] theorem State.storeWord_dieOn (w : Nat) (bs : List Byte) : (s.storeWord w bs).dieOn = s.dieOn := (rfl)

/-! ### `upset` -/

@[simp] theorem State.upset_pending (w : Nat) (u : BitVec 72) : (s.upset w u).pending = s.pending := (rfl)
@[simp] theorem State.upset_fresh (w : Nat) (u : BitVec 72) : (s.upset w u).fresh = s.fresh := (rfl)
@[simp] theorem State.upset_readData (w : Nat) (u : BitVec 72) : (s.upset w u).readData = s.readData := (rfl)
@[simp] theorem State.upset_regs (w : Nat) (u : BitVec 72) : (s.upset w u).regs = s.regs := (rfl)
@[simp] theorem State.upset_dram (w : Nat) (u : BitVec 72) : (s.upset w u).dram = s.dram := (rfl)
@[simp] theorem State.upset_threads (w : Nat) (u : BitVec 72) : (s.upset w u).threads = s.threads := (rfl)
@[simp] theorem State.upset_ridges (w : Nat) (u : BitVec 72) : (s.upset w u).ridges = s.ridges := (rfl)
@[simp] theorem State.upset_chains (w : Nat) (u : BitVec 72) : (s.upset w u).chains = s.chains := (rfl)
@[simp] theorem State.upset_matrix (w : Nat) (u : BitVec 72) : (s.upset w u).matrix = s.matrix := (rfl)
@[simp] theorem State.upset_groups (w : Nat) (u : BitVec 72) : (s.upset w u).groups = s.groups := (rfl)
@[simp] theorem State.upset_sides (w : Nat) (u : BitVec 72) : (s.upset w u).sides = s.sides := (rfl)
@[simp] theorem State.upset_col (w : Nat) (u : BitVec 72) : (s.upset w u).col = s.col := (rfl)
@[simp] theorem State.upset_queues (w : Nat) (u : BitVec 72) : (s.upset w u).queues = s.queues := (rfl)
@[simp] theorem State.upset_timer (w : Nat) (u : BitVec 72) : (s.upset w u).timer = s.timer := (rfl)
@[simp] theorem State.upset_servo (w : Nat) (u : BitVec 72) : (s.upset w u).servo = s.servo := (rfl)
@[simp] theorem State.upset_mgt (w : Nat) (u : BitVec 72) : (s.upset w u).mgt = s.mgt := (rfl)
@[simp] theorem State.upset_smc (w : Nat) (u : BitVec 72) : (s.upset w u).smc = s.smc := (rfl)
@[simp] theorem State.upset_fuses (w : Nat) (u : BitVec 72) : (s.upset w u).fuses = s.fuses := (rfl)
@[simp] theorem State.upset_cairn (w : Nat) (u : BitVec 72) : (s.upset w u).cairn = s.cairn := (rfl)
@[simp] theorem State.upset_repair (w : Nat) (u : BitVec 72) : (s.upset w u).repair = s.repair := (rfl)
@[simp] theorem State.upset_power (w : Nat) (u : BitVec 72) : (s.upset w u).power = s.power := (rfl)
@[simp] theorem State.upset_thread (w : Nat) (u : BitVec 72) (v : ThreadId) : (s.upset w u).thread v = s.thread v := (rfl)
@[simp] theorem State.upset_ridge (w : Nat) (u : BitVec 72) (h : RidgeId) : (s.upset w u).ridge h = s.ridge h := (rfl)
@[simp] theorem State.upset_chain (w : Nat) (u : BitVec 72) (k : Fin 16) : (s.upset w u).chain k = s.chain k := (rfl)
@[simp] theorem State.upset_group (w : Nat) (u : BitVec 72) (j : Fin 16) : (s.upset w u).group j = s.group j := (rfl)
@[simp] theorem State.upset_side (w : Nat) (u : BitVec 72) (k : Fin 128) : (s.upset w u).side k = s.side k := (rfl)
@[simp] theorem State.upset_alnQueue (w : Nat) (u : BitVec 72) (k : Fin 16) : (s.upset w u).alnQueue k = s.alnQueue k := (rfl)
@[simp] theorem State.upset_reg (w : Nat) (u : BitVec 72) (b o : Nat) : (s.upset w u).reg b o = s.reg b o := (rfl)
@[simp] theorem State.upset_siteOf (w : Nat) (u : BitVec 72) (h : RidgeId) : (s.upset w u).siteOf h = s.siteOf h := (rfl)
@[simp] theorem State.upset_inRun (w : Nat) (u : BitVec 72) : (s.upset w u).inRun = s.inRun := (rfl)
@[simp] theorem State.upset_dieOn (w : Nat) (u : BitVec 72) : (s.upset w u).dieOn = s.dieOn := (rfl)

/-! ### `setTagWord` -/

@[simp] theorem State.setTagWord_pending (w : Nat) (x : TagWord) : (s.setTagWord w x).pending = s.pending := (rfl)
@[simp] theorem State.setTagWord_fresh (w : Nat) (x : TagWord) : (s.setTagWord w x).fresh = s.fresh := (rfl)
@[simp] theorem State.setTagWord_readData (w : Nat) (x : TagWord) : (s.setTagWord w x).readData = s.readData := (rfl)
@[simp] theorem State.setTagWord_regs (w : Nat) (x : TagWord) : (s.setTagWord w x).regs = s.regs := (rfl)
@[simp] theorem State.setTagWord_dram (w : Nat) (x : TagWord) : (s.setTagWord w x).dram = s.dram := (rfl)
@[simp] theorem State.setTagWord_threads (w : Nat) (x : TagWord) : (s.setTagWord w x).threads = s.threads := (rfl)
@[simp] theorem State.setTagWord_ridges (w : Nat) (x : TagWord) : (s.setTagWord w x).ridges = s.ridges := (rfl)
@[simp] theorem State.setTagWord_chains (w : Nat) (x : TagWord) : (s.setTagWord w x).chains = s.chains := (rfl)
@[simp] theorem State.setTagWord_matrix (w : Nat) (x : TagWord) : (s.setTagWord w x).matrix = s.matrix := (rfl)
@[simp] theorem State.setTagWord_groups (w : Nat) (x : TagWord) : (s.setTagWord w x).groups = s.groups := (rfl)
@[simp] theorem State.setTagWord_sides (w : Nat) (x : TagWord) : (s.setTagWord w x).sides = s.sides := (rfl)
@[simp] theorem State.setTagWord_col (w : Nat) (x : TagWord) : (s.setTagWord w x).col = s.col := (rfl)
@[simp] theorem State.setTagWord_queues (w : Nat) (x : TagWord) : (s.setTagWord w x).queues = s.queues := (rfl)
@[simp] theorem State.setTagWord_timer (w : Nat) (x : TagWord) : (s.setTagWord w x).timer = s.timer := (rfl)
@[simp] theorem State.setTagWord_servo (w : Nat) (x : TagWord) : (s.setTagWord w x).servo = s.servo := (rfl)
@[simp] theorem State.setTagWord_mgt (w : Nat) (x : TagWord) : (s.setTagWord w x).mgt = s.mgt := (rfl)
@[simp] theorem State.setTagWord_smc (w : Nat) (x : TagWord) : (s.setTagWord w x).smc = s.smc := (rfl)
@[simp] theorem State.setTagWord_fuses (w : Nat) (x : TagWord) : (s.setTagWord w x).fuses = s.fuses := (rfl)
@[simp] theorem State.setTagWord_cairn (w : Nat) (x : TagWord) : (s.setTagWord w x).cairn = s.cairn := (rfl)
@[simp] theorem State.setTagWord_repair (w : Nat) (x : TagWord) : (s.setTagWord w x).repair = s.repair := (rfl)
@[simp] theorem State.setTagWord_power (w : Nat) (x : TagWord) : (s.setTagWord w x).power = s.power := (rfl)
@[simp] theorem State.setTagWord_thread (w : Nat) (x : TagWord) (v : ThreadId) : (s.setTagWord w x).thread v = s.thread v := (rfl)
@[simp] theorem State.setTagWord_ridge (w : Nat) (x : TagWord) (h : RidgeId) : (s.setTagWord w x).ridge h = s.ridge h := (rfl)
@[simp] theorem State.setTagWord_chain (w : Nat) (x : TagWord) (k : Fin 16) : (s.setTagWord w x).chain k = s.chain k := (rfl)
@[simp] theorem State.setTagWord_group (w : Nat) (x : TagWord) (j : Fin 16) : (s.setTagWord w x).group j = s.group j := (rfl)
@[simp] theorem State.setTagWord_side (w : Nat) (x : TagWord) (k : Fin 128) : (s.setTagWord w x).side k = s.side k := (rfl)
@[simp] theorem State.setTagWord_alnQueue (w : Nat) (x : TagWord) (k : Fin 16) : (s.setTagWord w x).alnQueue k = s.alnQueue k := (rfl)
@[simp] theorem State.setTagWord_reg (w : Nat) (x : TagWord) (b o : Nat) : (s.setTagWord w x).reg b o = s.reg b o := (rfl)
@[simp] theorem State.setTagWord_siteOf (w : Nat) (x : TagWord) (h : RidgeId) : (s.setTagWord w x).siteOf h = s.siteOf h := (rfl)
@[simp] theorem State.setTagWord_inRun (w : Nat) (x : TagWord) : (s.setTagWord w x).inRun = s.inRun := (rfl)
@[simp] theorem State.setTagWord_dieOn (w : Nat) (x : TagWord) : (s.setTagWord w x).dieOn = s.dieOn := (rfl)

/-! ### `setReg` -/

@[simp] theorem State.setReg_pending (blk off x : Nat) : (s.setReg blk off x).pending = s.pending := (rfl)
@[simp] theorem State.setReg_fresh (blk off x : Nat) : (s.setReg blk off x).fresh = s.fresh := (rfl)
@[simp] theorem State.setReg_readData (blk off x : Nat) : (s.setReg blk off x).readData = s.readData := (rfl)
@[simp] theorem State.setReg_sram (blk off x : Nat) : (s.setReg blk off x).sram = s.sram := (rfl)
@[simp] theorem State.setReg_dram (blk off x : Nat) : (s.setReg blk off x).dram = s.dram := (rfl)
@[simp] theorem State.setReg_threads (blk off x : Nat) : (s.setReg blk off x).threads = s.threads := (rfl)
@[simp] theorem State.setReg_ridges (blk off x : Nat) : (s.setReg blk off x).ridges = s.ridges := (rfl)
@[simp] theorem State.setReg_chains (blk off x : Nat) : (s.setReg blk off x).chains = s.chains := (rfl)
@[simp] theorem State.setReg_matrix (blk off x : Nat) : (s.setReg blk off x).matrix = s.matrix := (rfl)
@[simp] theorem State.setReg_groups (blk off x : Nat) : (s.setReg blk off x).groups = s.groups := (rfl)
@[simp] theorem State.setReg_sides (blk off x : Nat) : (s.setReg blk off x).sides = s.sides := (rfl)
@[simp] theorem State.setReg_col (blk off x : Nat) : (s.setReg blk off x).col = s.col := (rfl)
@[simp] theorem State.setReg_queues (blk off x : Nat) : (s.setReg blk off x).queues = s.queues := (rfl)
@[simp] theorem State.setReg_timer (blk off x : Nat) : (s.setReg blk off x).timer = s.timer := (rfl)
@[simp] theorem State.setReg_servo (blk off x : Nat) : (s.setReg blk off x).servo = s.servo := (rfl)
@[simp] theorem State.setReg_mgt (blk off x : Nat) : (s.setReg blk off x).mgt = s.mgt := (rfl)
@[simp] theorem State.setReg_smc (blk off x : Nat) : (s.setReg blk off x).smc = s.smc := (rfl)
@[simp] theorem State.setReg_fuses (blk off x : Nat) : (s.setReg blk off x).fuses = s.fuses := (rfl)
@[simp] theorem State.setReg_cairn (blk off x : Nat) : (s.setReg blk off x).cairn = s.cairn := (rfl)
@[simp] theorem State.setReg_repair (blk off x : Nat) : (s.setReg blk off x).repair = s.repair := (rfl)
@[simp] theorem State.setReg_power (blk off x : Nat) : (s.setReg blk off x).power = s.power := (rfl)
@[simp] theorem State.setReg_thread (blk off x : Nat) (v : ThreadId) : (s.setReg blk off x).thread v = s.thread v := (rfl)
@[simp] theorem State.setReg_ridge (blk off x : Nat) (h : RidgeId) : (s.setReg blk off x).ridge h = s.ridge h := (rfl)
@[simp] theorem State.setReg_chain (blk off x : Nat) (k : Fin 16) : (s.setReg blk off x).chain k = s.chain k := (rfl)
@[simp] theorem State.setReg_group (blk off x : Nat) (j : Fin 16) : (s.setReg blk off x).group j = s.group j := (rfl)
@[simp] theorem State.setReg_side (blk off x : Nat) (k : Fin 128) : (s.setReg blk off x).side k = s.side k := (rfl)
@[simp] theorem State.setReg_alnQueue (blk off x : Nat) (k : Fin 16) : (s.setReg blk off x).alnQueue k = s.alnQueue k := (rfl)
@[simp] theorem State.setReg_sem (blk off x : Nat) (k : Fin 256) : (s.setReg blk off x).sem k = s.sem k := (rfl)
@[simp] theorem State.setReg_sramByte (blk off x : Nat) (a : Nat) : (s.setReg blk off x).sramByte a = s.sramByte a := (rfl)
@[simp] theorem State.setReg_siteOf (blk off x : Nat) (h : RidgeId) : (s.setReg blk off x).siteOf h = s.siteOf h := (rfl)
@[simp] theorem State.setReg_inRun (blk off x : Nat) : (s.setReg blk off x).inRun = s.inRun := (rfl)
@[simp] theorem State.setReg_dieOn (blk off x : Nat) : (s.setReg blk off x).dieOn = s.dieOn := (rfl)

/-! ### `setFieldOf` -/

@[simp] theorem State.setFieldOf_pending (blk off lo width x : Nat) : (s.setFieldOf blk off lo width x).pending = s.pending := (rfl)
@[simp] theorem State.setFieldOf_fresh (blk off lo width x : Nat) : (s.setFieldOf blk off lo width x).fresh = s.fresh := (rfl)
@[simp] theorem State.setFieldOf_readData (blk off lo width x : Nat) : (s.setFieldOf blk off lo width x).readData = s.readData := (rfl)
@[simp] theorem State.setFieldOf_sram (blk off lo width x : Nat) : (s.setFieldOf blk off lo width x).sram = s.sram := (rfl)
@[simp] theorem State.setFieldOf_dram (blk off lo width x : Nat) : (s.setFieldOf blk off lo width x).dram = s.dram := (rfl)
@[simp] theorem State.setFieldOf_threads (blk off lo width x : Nat) : (s.setFieldOf blk off lo width x).threads = s.threads := (rfl)
@[simp] theorem State.setFieldOf_ridges (blk off lo width x : Nat) : (s.setFieldOf blk off lo width x).ridges = s.ridges := (rfl)
@[simp] theorem State.setFieldOf_chains (blk off lo width x : Nat) : (s.setFieldOf blk off lo width x).chains = s.chains := (rfl)
@[simp] theorem State.setFieldOf_matrix (blk off lo width x : Nat) : (s.setFieldOf blk off lo width x).matrix = s.matrix := (rfl)
@[simp] theorem State.setFieldOf_groups (blk off lo width x : Nat) : (s.setFieldOf blk off lo width x).groups = s.groups := (rfl)
@[simp] theorem State.setFieldOf_sides (blk off lo width x : Nat) : (s.setFieldOf blk off lo width x).sides = s.sides := (rfl)
@[simp] theorem State.setFieldOf_col (blk off lo width x : Nat) : (s.setFieldOf blk off lo width x).col = s.col := (rfl)
@[simp] theorem State.setFieldOf_queues (blk off lo width x : Nat) : (s.setFieldOf blk off lo width x).queues = s.queues := (rfl)
@[simp] theorem State.setFieldOf_timer (blk off lo width x : Nat) : (s.setFieldOf blk off lo width x).timer = s.timer := (rfl)
@[simp] theorem State.setFieldOf_servo (blk off lo width x : Nat) : (s.setFieldOf blk off lo width x).servo = s.servo := (rfl)
@[simp] theorem State.setFieldOf_mgt (blk off lo width x : Nat) : (s.setFieldOf blk off lo width x).mgt = s.mgt := (rfl)
@[simp] theorem State.setFieldOf_smc (blk off lo width x : Nat) : (s.setFieldOf blk off lo width x).smc = s.smc := (rfl)
@[simp] theorem State.setFieldOf_fuses (blk off lo width x : Nat) : (s.setFieldOf blk off lo width x).fuses = s.fuses := (rfl)
@[simp] theorem State.setFieldOf_cairn (blk off lo width x : Nat) : (s.setFieldOf blk off lo width x).cairn = s.cairn := (rfl)
@[simp] theorem State.setFieldOf_repair (blk off lo width x : Nat) : (s.setFieldOf blk off lo width x).repair = s.repair := (rfl)
@[simp] theorem State.setFieldOf_power (blk off lo width x : Nat) : (s.setFieldOf blk off lo width x).power = s.power := (rfl)
@[simp] theorem State.setFieldOf_thread (blk off lo width x : Nat) (v : ThreadId) : (s.setFieldOf blk off lo width x).thread v = s.thread v := (rfl)
@[simp] theorem State.setFieldOf_ridge (blk off lo width x : Nat) (h : RidgeId) : (s.setFieldOf blk off lo width x).ridge h = s.ridge h := (rfl)
@[simp] theorem State.setFieldOf_chain (blk off lo width x : Nat) (k : Fin 16) : (s.setFieldOf blk off lo width x).chain k = s.chain k := (rfl)
@[simp] theorem State.setFieldOf_group (blk off lo width x : Nat) (j : Fin 16) : (s.setFieldOf blk off lo width x).group j = s.group j := (rfl)
@[simp] theorem State.setFieldOf_side (blk off lo width x : Nat) (k : Fin 128) : (s.setFieldOf blk off lo width x).side k = s.side k := (rfl)
@[simp] theorem State.setFieldOf_alnQueue (blk off lo width x : Nat) (k : Fin 16) : (s.setFieldOf blk off lo width x).alnQueue k = s.alnQueue k := (rfl)
@[simp] theorem State.setFieldOf_sem (blk off lo width x : Nat) (k : Fin 256) : (s.setFieldOf blk off lo width x).sem k = s.sem k := (rfl)
@[simp] theorem State.setFieldOf_sramByte (blk off lo width x : Nat) (a : Nat) : (s.setFieldOf blk off lo width x).sramByte a = s.sramByte a := (rfl)
@[simp] theorem State.setFieldOf_siteOf (blk off lo width x : Nat) (h : RidgeId) : (s.setFieldOf blk off lo width x).siteOf h = s.siteOf h := (rfl)
@[simp] theorem State.setFieldOf_inRun (blk off lo width x : Nat) : (s.setFieldOf blk off lo width x).inRun = s.inRun := (rfl)
@[simp] theorem State.setFieldOf_dieOn (blk off lo width x : Nat) : (s.setFieldOf blk off lo width x).dieOn = s.dieOn := (rfl)

/-! ### `setFlagOf` -/

@[simp] theorem State.setFlagOf_pending (blk off bit : Nat) (b : Bool) : (s.setFlagOf blk off bit b).pending = s.pending := (rfl)
@[simp] theorem State.setFlagOf_fresh (blk off bit : Nat) (b : Bool) : (s.setFlagOf blk off bit b).fresh = s.fresh := (rfl)
@[simp] theorem State.setFlagOf_readData (blk off bit : Nat) (b : Bool) : (s.setFlagOf blk off bit b).readData = s.readData := (rfl)
@[simp] theorem State.setFlagOf_sram (blk off bit : Nat) (b : Bool) : (s.setFlagOf blk off bit b).sram = s.sram := (rfl)
@[simp] theorem State.setFlagOf_dram (blk off bit : Nat) (b : Bool) : (s.setFlagOf blk off bit b).dram = s.dram := (rfl)
@[simp] theorem State.setFlagOf_threads (blk off bit : Nat) (b : Bool) : (s.setFlagOf blk off bit b).threads = s.threads := (rfl)
@[simp] theorem State.setFlagOf_ridges (blk off bit : Nat) (b : Bool) : (s.setFlagOf blk off bit b).ridges = s.ridges := (rfl)
@[simp] theorem State.setFlagOf_chains (blk off bit : Nat) (b : Bool) : (s.setFlagOf blk off bit b).chains = s.chains := (rfl)
@[simp] theorem State.setFlagOf_matrix (blk off bit : Nat) (b : Bool) : (s.setFlagOf blk off bit b).matrix = s.matrix := (rfl)
@[simp] theorem State.setFlagOf_groups (blk off bit : Nat) (b : Bool) : (s.setFlagOf blk off bit b).groups = s.groups := (rfl)
@[simp] theorem State.setFlagOf_sides (blk off bit : Nat) (b : Bool) : (s.setFlagOf blk off bit b).sides = s.sides := (rfl)
@[simp] theorem State.setFlagOf_col (blk off bit : Nat) (b : Bool) : (s.setFlagOf blk off bit b).col = s.col := (rfl)
@[simp] theorem State.setFlagOf_queues (blk off bit : Nat) (b : Bool) : (s.setFlagOf blk off bit b).queues = s.queues := (rfl)
@[simp] theorem State.setFlagOf_timer (blk off bit : Nat) (b : Bool) : (s.setFlagOf blk off bit b).timer = s.timer := (rfl)
@[simp] theorem State.setFlagOf_servo (blk off bit : Nat) (b : Bool) : (s.setFlagOf blk off bit b).servo = s.servo := (rfl)
@[simp] theorem State.setFlagOf_mgt (blk off bit : Nat) (b : Bool) : (s.setFlagOf blk off bit b).mgt = s.mgt := (rfl)
@[simp] theorem State.setFlagOf_smc (blk off bit : Nat) (b : Bool) : (s.setFlagOf blk off bit b).smc = s.smc := (rfl)
@[simp] theorem State.setFlagOf_fuses (blk off bit : Nat) (b : Bool) : (s.setFlagOf blk off bit b).fuses = s.fuses := (rfl)
@[simp] theorem State.setFlagOf_cairn (blk off bit : Nat) (b : Bool) : (s.setFlagOf blk off bit b).cairn = s.cairn := (rfl)
@[simp] theorem State.setFlagOf_repair (blk off bit : Nat) (b : Bool) : (s.setFlagOf blk off bit b).repair = s.repair := (rfl)
@[simp] theorem State.setFlagOf_power (blk off bit : Nat) (b : Bool) : (s.setFlagOf blk off bit b).power = s.power := (rfl)
@[simp] theorem State.setFlagOf_thread (blk off bit : Nat) (b : Bool) (v : ThreadId) : (s.setFlagOf blk off bit b).thread v = s.thread v := (rfl)
@[simp] theorem State.setFlagOf_ridge (blk off bit : Nat) (b : Bool) (h : RidgeId) : (s.setFlagOf blk off bit b).ridge h = s.ridge h := (rfl)
@[simp] theorem State.setFlagOf_chain (blk off bit : Nat) (b : Bool) (k : Fin 16) : (s.setFlagOf blk off bit b).chain k = s.chain k := (rfl)
@[simp] theorem State.setFlagOf_group (blk off bit : Nat) (b : Bool) (j : Fin 16) : (s.setFlagOf blk off bit b).group j = s.group j := (rfl)
@[simp] theorem State.setFlagOf_side (blk off bit : Nat) (b : Bool) (k : Fin 128) : (s.setFlagOf blk off bit b).side k = s.side k := (rfl)
@[simp] theorem State.setFlagOf_alnQueue (blk off bit : Nat) (b : Bool) (k : Fin 16) : (s.setFlagOf blk off bit b).alnQueue k = s.alnQueue k := (rfl)
@[simp] theorem State.setFlagOf_sem (blk off bit : Nat) (b : Bool) (k : Fin 256) : (s.setFlagOf blk off bit b).sem k = s.sem k := (rfl)
@[simp] theorem State.setFlagOf_sramByte (blk off bit : Nat) (b : Bool) (a : Nat) : (s.setFlagOf blk off bit b).sramByte a = s.sramByte a := (rfl)
@[simp] theorem State.setFlagOf_siteOf (blk off bit : Nat) (b : Bool) (h : RidgeId) : (s.setFlagOf blk off bit b).siteOf h = s.siteOf h := (rfl)
@[simp] theorem State.setFlagOf_inRun (blk off bit : Nat) (b : Bool) : (s.setFlagOf blk off bit b).inRun = s.inRun := (rfl)
@[simp] theorem State.setFlagOf_dieOn (blk off bit : Nat) (b : Bool) : (s.setFlagOf blk off bit b).dieOn = s.dieOn := (rfl)

/-! ### `countOf` -/

@[simp] theorem State.countOf_pending (blk off lo width n : Nat) : (s.countOf blk off lo width n).pending = s.pending := (rfl)
@[simp] theorem State.countOf_fresh (blk off lo width n : Nat) : (s.countOf blk off lo width n).fresh = s.fresh := (rfl)
@[simp] theorem State.countOf_readData (blk off lo width n : Nat) : (s.countOf blk off lo width n).readData = s.readData := (rfl)
@[simp] theorem State.countOf_sram (blk off lo width n : Nat) : (s.countOf blk off lo width n).sram = s.sram := (rfl)
@[simp] theorem State.countOf_dram (blk off lo width n : Nat) : (s.countOf blk off lo width n).dram = s.dram := (rfl)
@[simp] theorem State.countOf_threads (blk off lo width n : Nat) : (s.countOf blk off lo width n).threads = s.threads := (rfl)
@[simp] theorem State.countOf_ridges (blk off lo width n : Nat) : (s.countOf blk off lo width n).ridges = s.ridges := (rfl)
@[simp] theorem State.countOf_chains (blk off lo width n : Nat) : (s.countOf blk off lo width n).chains = s.chains := (rfl)
@[simp] theorem State.countOf_matrix (blk off lo width n : Nat) : (s.countOf blk off lo width n).matrix = s.matrix := (rfl)
@[simp] theorem State.countOf_groups (blk off lo width n : Nat) : (s.countOf blk off lo width n).groups = s.groups := (rfl)
@[simp] theorem State.countOf_sides (blk off lo width n : Nat) : (s.countOf blk off lo width n).sides = s.sides := (rfl)
@[simp] theorem State.countOf_col (blk off lo width n : Nat) : (s.countOf blk off lo width n).col = s.col := (rfl)
@[simp] theorem State.countOf_queues (blk off lo width n : Nat) : (s.countOf blk off lo width n).queues = s.queues := (rfl)
@[simp] theorem State.countOf_timer (blk off lo width n : Nat) : (s.countOf blk off lo width n).timer = s.timer := (rfl)
@[simp] theorem State.countOf_servo (blk off lo width n : Nat) : (s.countOf blk off lo width n).servo = s.servo := (rfl)
@[simp] theorem State.countOf_mgt (blk off lo width n : Nat) : (s.countOf blk off lo width n).mgt = s.mgt := (rfl)
@[simp] theorem State.countOf_smc (blk off lo width n : Nat) : (s.countOf blk off lo width n).smc = s.smc := (rfl)
@[simp] theorem State.countOf_fuses (blk off lo width n : Nat) : (s.countOf blk off lo width n).fuses = s.fuses := (rfl)
@[simp] theorem State.countOf_cairn (blk off lo width n : Nat) : (s.countOf blk off lo width n).cairn = s.cairn := (rfl)
@[simp] theorem State.countOf_repair (blk off lo width n : Nat) : (s.countOf blk off lo width n).repair = s.repair := (rfl)
@[simp] theorem State.countOf_power (blk off lo width n : Nat) : (s.countOf blk off lo width n).power = s.power := (rfl)
@[simp] theorem State.countOf_thread (blk off lo width n : Nat) (v : ThreadId) : (s.countOf blk off lo width n).thread v = s.thread v := (rfl)
@[simp] theorem State.countOf_ridge (blk off lo width n : Nat) (h : RidgeId) : (s.countOf blk off lo width n).ridge h = s.ridge h := (rfl)
@[simp] theorem State.countOf_chain (blk off lo width n : Nat) (k : Fin 16) : (s.countOf blk off lo width n).chain k = s.chain k := (rfl)
@[simp] theorem State.countOf_group (blk off lo width n : Nat) (j : Fin 16) : (s.countOf blk off lo width n).group j = s.group j := (rfl)
@[simp] theorem State.countOf_side (blk off lo width n : Nat) (k : Fin 128) : (s.countOf blk off lo width n).side k = s.side k := (rfl)
@[simp] theorem State.countOf_alnQueue (blk off lo width n : Nat) (k : Fin 16) : (s.countOf blk off lo width n).alnQueue k = s.alnQueue k := (rfl)
@[simp] theorem State.countOf_sem (blk off lo width n : Nat) (k : Fin 256) : (s.countOf blk off lo width n).sem k = s.sem k := (rfl)
@[simp] theorem State.countOf_sramByte (blk off lo width n : Nat) (a : Nat) : (s.countOf blk off lo width n).sramByte a = s.sramByte a := (rfl)
@[simp] theorem State.countOf_siteOf (blk off lo width n : Nat) (h : RidgeId) : (s.countOf blk off lo width n).siteOf h = s.siteOf h := (rfl)
@[simp] theorem State.countOf_inRun (blk off lo width n : Nat) : (s.countOf blk off lo width n).inRun = s.inRun := (rfl)
@[simp] theorem State.countOf_dieOn (blk off lo width n : Nat) : (s.countOf blk off lo width n).dieOn = s.dieOn := (rfl)

/-! ### `cfgerr` -/

@[simp] theorem State.cfgerr_pending (blk : Nat) : (s.cfgerr blk).pending = s.pending := (rfl)
@[simp] theorem State.cfgerr_fresh (blk : Nat) : (s.cfgerr blk).fresh = s.fresh := (rfl)
@[simp] theorem State.cfgerr_readData (blk : Nat) : (s.cfgerr blk).readData = s.readData := (rfl)
@[simp] theorem State.cfgerr_sram (blk : Nat) : (s.cfgerr blk).sram = s.sram := (rfl)
@[simp] theorem State.cfgerr_dram (blk : Nat) : (s.cfgerr blk).dram = s.dram := (rfl)
@[simp] theorem State.cfgerr_threads (blk : Nat) : (s.cfgerr blk).threads = s.threads := (rfl)
@[simp] theorem State.cfgerr_ridges (blk : Nat) : (s.cfgerr blk).ridges = s.ridges := (rfl)
@[simp] theorem State.cfgerr_chains (blk : Nat) : (s.cfgerr blk).chains = s.chains := (rfl)
@[simp] theorem State.cfgerr_matrix (blk : Nat) : (s.cfgerr blk).matrix = s.matrix := (rfl)
@[simp] theorem State.cfgerr_groups (blk : Nat) : (s.cfgerr blk).groups = s.groups := (rfl)
@[simp] theorem State.cfgerr_sides (blk : Nat) : (s.cfgerr blk).sides = s.sides := (rfl)
@[simp] theorem State.cfgerr_col (blk : Nat) : (s.cfgerr blk).col = s.col := (rfl)
@[simp] theorem State.cfgerr_queues (blk : Nat) : (s.cfgerr blk).queues = s.queues := (rfl)
@[simp] theorem State.cfgerr_timer (blk : Nat) : (s.cfgerr blk).timer = s.timer := (rfl)
@[simp] theorem State.cfgerr_servo (blk : Nat) : (s.cfgerr blk).servo = s.servo := (rfl)
@[simp] theorem State.cfgerr_mgt (blk : Nat) : (s.cfgerr blk).mgt = s.mgt := (rfl)
@[simp] theorem State.cfgerr_smc (blk : Nat) : (s.cfgerr blk).smc = s.smc := (rfl)
@[simp] theorem State.cfgerr_fuses (blk : Nat) : (s.cfgerr blk).fuses = s.fuses := (rfl)
@[simp] theorem State.cfgerr_cairn (blk : Nat) : (s.cfgerr blk).cairn = s.cairn := (rfl)
@[simp] theorem State.cfgerr_repair (blk : Nat) : (s.cfgerr blk).repair = s.repair := (rfl)
@[simp] theorem State.cfgerr_power (blk : Nat) : (s.cfgerr blk).power = s.power := (rfl)
@[simp] theorem State.cfgerr_thread (blk : Nat) (v : ThreadId) : (s.cfgerr blk).thread v = s.thread v := (rfl)
@[simp] theorem State.cfgerr_ridge (blk : Nat) (h : RidgeId) : (s.cfgerr blk).ridge h = s.ridge h := (rfl)
@[simp] theorem State.cfgerr_chain (blk : Nat) (k : Fin 16) : (s.cfgerr blk).chain k = s.chain k := (rfl)
@[simp] theorem State.cfgerr_group (blk : Nat) (j : Fin 16) : (s.cfgerr blk).group j = s.group j := (rfl)
@[simp] theorem State.cfgerr_side (blk : Nat) (k : Fin 128) : (s.cfgerr blk).side k = s.side k := (rfl)
@[simp] theorem State.cfgerr_alnQueue (blk : Nat) (k : Fin 16) : (s.cfgerr blk).alnQueue k = s.alnQueue k := (rfl)
@[simp] theorem State.cfgerr_sem (blk : Nat) (k : Fin 256) : (s.cfgerr blk).sem k = s.sem k := (rfl)
@[simp] theorem State.cfgerr_sramByte (blk : Nat) (a : Nat) : (s.cfgerr blk).sramByte a = s.sramByte a := (rfl)
@[simp] theorem State.cfgerr_siteOf (blk : Nat) (h : RidgeId) : (s.cfgerr blk).siteOf h = s.siteOf h := (rfl)
@[simp] theorem State.cfgerr_inRun (blk : Nat) : (s.cfgerr blk).inRun = s.inRun := (rfl)
@[simp] theorem State.cfgerr_dieOn (blk : Nat) : (s.cfgerr blk).dieOn = s.dieOn := (rfl)

/-! ### `resetRegs` -/

@[simp] theorem State.resetRegs_pending (p : Nat → Bool) : (s.resetRegs p).pending = s.pending := (rfl)
@[simp] theorem State.resetRegs_fresh (p : Nat → Bool) : (s.resetRegs p).fresh = s.fresh := (rfl)
@[simp] theorem State.resetRegs_readData (p : Nat → Bool) : (s.resetRegs p).readData = s.readData := (rfl)
@[simp] theorem State.resetRegs_sram (p : Nat → Bool) : (s.resetRegs p).sram = s.sram := (rfl)
@[simp] theorem State.resetRegs_dram (p : Nat → Bool) : (s.resetRegs p).dram = s.dram := (rfl)
@[simp] theorem State.resetRegs_threads (p : Nat → Bool) : (s.resetRegs p).threads = s.threads := (rfl)
@[simp] theorem State.resetRegs_ridges (p : Nat → Bool) : (s.resetRegs p).ridges = s.ridges := (rfl)
@[simp] theorem State.resetRegs_chains (p : Nat → Bool) : (s.resetRegs p).chains = s.chains := (rfl)
@[simp] theorem State.resetRegs_matrix (p : Nat → Bool) : (s.resetRegs p).matrix = s.matrix := (rfl)
@[simp] theorem State.resetRegs_groups (p : Nat → Bool) : (s.resetRegs p).groups = s.groups := (rfl)
@[simp] theorem State.resetRegs_sides (p : Nat → Bool) : (s.resetRegs p).sides = s.sides := (rfl)
@[simp] theorem State.resetRegs_col (p : Nat → Bool) : (s.resetRegs p).col = s.col := (rfl)
@[simp] theorem State.resetRegs_queues (p : Nat → Bool) : (s.resetRegs p).queues = s.queues := (rfl)
@[simp] theorem State.resetRegs_timer (p : Nat → Bool) : (s.resetRegs p).timer = s.timer := (rfl)
@[simp] theorem State.resetRegs_servo (p : Nat → Bool) : (s.resetRegs p).servo = s.servo := (rfl)
@[simp] theorem State.resetRegs_mgt (p : Nat → Bool) : (s.resetRegs p).mgt = s.mgt := (rfl)
@[simp] theorem State.resetRegs_smc (p : Nat → Bool) : (s.resetRegs p).smc = s.smc := (rfl)
@[simp] theorem State.resetRegs_fuses (p : Nat → Bool) : (s.resetRegs p).fuses = s.fuses := (rfl)
@[simp] theorem State.resetRegs_cairn (p : Nat → Bool) : (s.resetRegs p).cairn = s.cairn := (rfl)
@[simp] theorem State.resetRegs_repair (p : Nat → Bool) : (s.resetRegs p).repair = s.repair := (rfl)
@[simp] theorem State.resetRegs_power (p : Nat → Bool) : (s.resetRegs p).power = s.power := (rfl)
@[simp] theorem State.resetRegs_thread (p : Nat → Bool) (v : ThreadId) : (s.resetRegs p).thread v = s.thread v := (rfl)
@[simp] theorem State.resetRegs_ridge (p : Nat → Bool) (h : RidgeId) : (s.resetRegs p).ridge h = s.ridge h := (rfl)
@[simp] theorem State.resetRegs_chain (p : Nat → Bool) (k : Fin 16) : (s.resetRegs p).chain k = s.chain k := (rfl)
@[simp] theorem State.resetRegs_group (p : Nat → Bool) (j : Fin 16) : (s.resetRegs p).group j = s.group j := (rfl)
@[simp] theorem State.resetRegs_side (p : Nat → Bool) (k : Fin 128) : (s.resetRegs p).side k = s.side k := (rfl)
@[simp] theorem State.resetRegs_alnQueue (p : Nat → Bool) (k : Fin 16) : (s.resetRegs p).alnQueue k = s.alnQueue k := (rfl)
@[simp] theorem State.resetRegs_sem (p : Nat → Bool) (k : Fin 256) : (s.resetRegs p).sem k = s.sem k := (rfl)
@[simp] theorem State.resetRegs_sramByte (p : Nat → Bool) (a : Nat) : (s.resetRegs p).sramByte a = s.sramByte a := (rfl)
@[simp] theorem State.resetRegs_siteOf (p : Nat → Bool) (h : RidgeId) : (s.resetRegs p).siteOf h = s.siteOf h := (rfl)
@[simp] theorem State.resetRegs_inRun (p : Nat → Bool) : (s.resetRegs p).inRun = s.inRun := (rfl)
@[simp] theorem State.resetRegs_dieOn (p : Nat → Bool) : (s.resetRegs p).dieOn = s.dieOn := (rfl)

/-! ### `bump` -/

@[simp] theorem State.bump_pending : (s.bump).pending = s.pending := (rfl)
@[simp] theorem State.bump_readData : (s.bump).readData = s.readData := (rfl)
@[simp] theorem State.bump_regs : (s.bump).regs = s.regs := (rfl)
@[simp] theorem State.bump_sram : (s.bump).sram = s.sram := (rfl)
@[simp] theorem State.bump_dram : (s.bump).dram = s.dram := (rfl)
@[simp] theorem State.bump_threads : (s.bump).threads = s.threads := (rfl)
@[simp] theorem State.bump_ridges : (s.bump).ridges = s.ridges := (rfl)
@[simp] theorem State.bump_chains : (s.bump).chains = s.chains := (rfl)
@[simp] theorem State.bump_matrix : (s.bump).matrix = s.matrix := (rfl)
@[simp] theorem State.bump_groups : (s.bump).groups = s.groups := (rfl)
@[simp] theorem State.bump_sides : (s.bump).sides = s.sides := (rfl)
@[simp] theorem State.bump_col : (s.bump).col = s.col := (rfl)
@[simp] theorem State.bump_queues : (s.bump).queues = s.queues := (rfl)
@[simp] theorem State.bump_timer : (s.bump).timer = s.timer := (rfl)
@[simp] theorem State.bump_servo : (s.bump).servo = s.servo := (rfl)
@[simp] theorem State.bump_mgt : (s.bump).mgt = s.mgt := (rfl)
@[simp] theorem State.bump_smc : (s.bump).smc = s.smc := (rfl)
@[simp] theorem State.bump_fuses : (s.bump).fuses = s.fuses := (rfl)
@[simp] theorem State.bump_cairn : (s.bump).cairn = s.cairn := (rfl)
@[simp] theorem State.bump_repair : (s.bump).repair = s.repair := (rfl)
@[simp] theorem State.bump_power : (s.bump).power = s.power := (rfl)
@[simp] theorem State.bump_thread (v : ThreadId) : (s.bump).thread v = s.thread v := (rfl)
@[simp] theorem State.bump_ridge (h : RidgeId) : (s.bump).ridge h = s.ridge h := (rfl)
@[simp] theorem State.bump_chain (k : Fin 16) : (s.bump).chain k = s.chain k := (rfl)
@[simp] theorem State.bump_group (j : Fin 16) : (s.bump).group j = s.group j := (rfl)
@[simp] theorem State.bump_side (k : Fin 128) : (s.bump).side k = s.side k := (rfl)
@[simp] theorem State.bump_alnQueue (k : Fin 16) : (s.bump).alnQueue k = s.alnQueue k := (rfl)
@[simp] theorem State.bump_sem (k : Fin 256) : (s.bump).sem k = s.sem k := (rfl)
@[simp] theorem State.bump_reg (b o : Nat) : (s.bump).reg b o = s.reg b o := (rfl)
@[simp] theorem State.bump_sramByte (a : Nat) : (s.bump).sramByte a = s.sramByte a := (rfl)
@[simp] theorem State.bump_siteOf (h : RidgeId) : (s.bump).siteOf h = s.siteOf h := (rfl)
@[simp] theorem State.bump_inRun : (s.bump).inRun = s.inRun := (rfl)
@[simp] theorem State.bump_dieOn : (s.bump).dieOn = s.dieOn := (rfl)

/-! ### The part written -/

@[simp] theorem State.setRidge_ridge (g : RidgeId) (x : Ridge) : (s.setRidge g x).ridge g = x := by
  simp [State.setRidge, State.ridge]

theorem State.setRidge_ridge_ne (g h : RidgeId) (x : Ridge) (hne : h ≠ g) : (s.setRidge g x).ridge h = s.ridge h := by
  have : (g : Nat) ≠ h := fun e => hne (Fin.ext e.symm)
  simp [State.setRidge, State.ridge, Vector.getElem_set_ne, this]

@[simp] theorem State.setChain_chain (c : Fin 16) (x : ChainInst) : (s.setChain c x).chain c = x := by
  simp [State.setChain, State.chain]

theorem State.setChain_chain_ne (c k : Fin 16) (x : ChainInst) (h : k ≠ c) : (s.setChain c x).chain k = s.chain k := by
  have : (c : Nat) ≠ k := fun e => h (Fin.ext e.symm)
  simp [State.setChain, State.chain, Vector.getElem_set_ne, this]

@[simp] theorem State.setPort_port (g : RidgeId) (c : Fin 16) (x : ChainPort) : (s.setPort g c x).port g c = x := by
  simp [State.setPort, State.port]

@[simp] theorem State.setGroup_group (n : Fin 16) (x : LinkGroup) : (s.setGroup n x).group n = x := by
  simp [State.setGroup, State.group]

theorem State.setGroup_group_ne (n k : Fin 16) (x : LinkGroup) (h : k ≠ n) : (s.setGroup n x).group k = s.group k := by
  have : (n : Nat) ≠ k := fun e => h (Fin.ext e.symm)
  simp [State.setGroup, State.group, Vector.getElem_set_ne, this]

@[simp] theorem State.setSide_side (l : Fin 128) (x : LinkSide) : (s.setSide l x).side l = x := by
  simp [State.setSide, State.side]

theorem State.setSide_side_ne (l k : Fin 128) (x : LinkSide) (h : k ≠ l) : (s.setSide l x).side k = s.side k := by
  have : (l : Nat) ≠ k := fun e => h (Fin.ext e.symm)
  simp [State.setSide, State.side, Vector.getElem_set_ne, this]

@[simp] theorem State.setAlnQueue_alnQueue (q : Fin 16) (x : AlnQueue) : (s.setAlnQueue q x).alnQueue q = x := by
  simp [State.setAlnQueue, State.alnQueue]

theorem State.setAlnQueue_alnQueue_ne (q k : Fin 16) (x : AlnQueue) (h : k ≠ q) :
    (s.setAlnQueue q x).alnQueue k = s.alnQueue k := by
  have : (q : Nat) ≠ k := fun e => h (Fin.ext e.symm)
  simp [State.setAlnQueue, State.alnQueue, Vector.getElem_set_ne, this]

@[simp] theorem State.setSem_sem (n : Fin 256) (x : Sem) : (s.setSem n x).sem n = x := by
  simp [State.setSem, State.sem]

theorem State.setSem_sem_ne (n k : Fin 256) (x : Sem) (h : k ≠ n) : (s.setSem n x).sem k = s.sem k := by
  have : (n : Nat) ≠ k := fun e => h (Fin.ext e.symm)
  simp [State.setSem, State.sem, Vector.getElem_set_ne, this]

end Sys2Proof.Machine
end

