-- ==== Sys2Proof/Laws/Memory.lean ====
section
/-!
SUPPORT. The canonical form of sparse maps: what reading after writing gives, and that every operation over memory keeps
`Memory.wf`.
-/

namespace Sys2Proof.Machine

/-! ### Sparse maps -/

section
variable {α : Type}

theorem Sparse.erase_eq_filter (m : List (Nat × α)) (k : Nat) : Sparse.erase m k = m.filter fun x => x.1 != k := by
  induction m with
  | nil => rfl
  | cons x rest ih =>
    obtain ⟨k', v⟩ := x
    by_cases h : k' = k <;> simp [Sparse.erase, h, ih]

theorem Sparse.mem_insert (m : List (Nat × α)) (k : Nat) (v : α) (x : Nat × α) :
    x ∈ Sparse.insert m k v ↔ x = (k, v) ∨ x ∈ m := by
  induction m with
  | nil => simp [Sparse.insert]
  | cons y rest ih =>
    obtain ⟨k', v'⟩ := y
    by_cases h : k < k'
    · simp [Sparse.insert, h]
    · simp only [Sparse.insert, h, if_false, List.mem_cons, ih]
      constructor <;> (rintro (h | h | h) <;> simp [h])

/-- Keys rise strictly. -/
def Sparse.Rising (m : List (Nat × α)) : Prop := m.Pairwise fun x y => x.1 < y.1

theorem Sparse.rising_insert (m : List (Nat × α)) (k : Nat) (v : α) (h : Sparse.Rising m) (hk : ∀ x ∈ m, x.1 ≠ k) :
    Sparse.Rising (Sparse.insert m k v) := by
  induction m with
  | nil => simp [Sparse.insert, Sparse.Rising]
  | cons y rest ih =>
    obtain ⟨k', v'⟩ := y
    obtain ⟨h1, h2⟩ := List.pairwise_cons.1 h
    have hne : k' ≠ k := hk (k', v') (List.mem_cons_self ..)
    by_cases hlt : k < k'
    · simp only [Sparse.insert, hlt, if_true, Sparse.Rising, List.pairwise_cons]
      refine ⟨fun z hz => ?_, h1, h2⟩
      rcases List.mem_cons.1 hz with rfl | hz
      · exact hlt
      · have := h1 z hz
        simp only at this ⊢
        omega
    · simp only [Sparse.insert, hlt, if_false, Sparse.Rising, List.pairwise_cons]
      refine ⟨fun z hz => ?_, ih h2 fun x hx => hk x (List.mem_cons_of_mem _ hx)⟩
      rcases (Sparse.mem_insert rest k v z).1 hz with rfl | hz
      · simp only
        omega
      · exact h1 z hz

theorem Sparse.rising_erase (m : List (Nat × α)) (k : Nat) (h : Sparse.Rising m) : Sparse.Rising (Sparse.erase m k) := by
  rw [Sparse.erase_eq_filter]
  exact List.Pairwise.filter _ h

theorem Sparse.erase_ne (m : List (Nat × α)) (k : Nat) (x : Nat × α) (h : x ∈ Sparse.erase m k) : x ∈ m ∧ x.1 ≠ k := by
  rw [Sparse.erase_eq_filter, List.mem_filter] at h
  simpa using h

theorem Sparse.get_erase (d : α) (m : List (Nat × α)) (k j : Nat) :
    Sparse.get d (Sparse.erase m k) j = if j = k then d else Sparse.get d m j := by
  induction m with
  | nil => simp [Sparse.erase, Sparse.get]
  | cons y rest ih =>
    obtain ⟨k', v'⟩ := y
    by_cases h : k' = k
    · subst h
      by_cases hj : j = k'
      · subst hj
        simp [Sparse.erase, ih]
      · simp [Sparse.erase, ih, Sparse.get, hj, Ne.symm hj]
    · by_cases hj : k' = j
      · subst hj
        simp [Sparse.erase, Sparse.get, h]
      · simp [Sparse.erase, Sparse.get, h, hj, ih]

theorem Sparse.get_insert (d : α) (m : List (Nat × α)) (k j : Nat) (v : α) (hk : ∀ x ∈ m, x.1 ≠ k) :
    Sparse.get d (Sparse.insert m k v) j = if j = k then v else Sparse.get d m j := by
  induction m with
  | nil => by_cases h : k = j <;> simp [Sparse.insert, Sparse.get, h, eq_comm]
  | cons y rest ih =>
    obtain ⟨k', v'⟩ := y
    have hne : k' ≠ k := hk (k', v') (List.mem_cons_self ..)
    have ih := ih fun x hx => hk x (List.mem_cons_of_mem _ hx)
    by_cases hlt : k < k'
    · by_cases h : k = j
      · subst h
        simp [Sparse.insert, Sparse.get, hlt]
      · simp [Sparse.insert, Sparse.get, hlt, h, Ne.symm h]
    · by_cases hj : k' = j
      · subst hj
        simp [Sparse.insert, Sparse.get, hlt, hne]
      · simp [Sparse.insert, Sparse.get, hlt, hj, ih]

/-- Reading after writing: the written key has its value, every other key what it had. -/
theorem Sparse.get_set [DecidableEq α] (d : α) (m : List (Nat × α)) (k j : Nat) (v : α) :
    Sparse.get d (Sparse.set d m k v) j = if j = k then v else Sparse.get d m j := by
  by_cases h : v = d
  · simp only [Sparse.set, h, if_true, Sparse.get_erase]
  · rw [Sparse.set, if_neg h, Sparse.get_insert _ _ _ _ _ fun x hx => (Sparse.erase_ne m k x hx).2, Sparse.get_erase]
    by_cases hj : j = k <;> simp [hj]

/-- The value at another key does not depend on the default of the key written. -/
theorem Sparse.get_set_ne [DecidableEq α] (d e : α) (m : List (Nat × α)) (k j : Nat) (v : α) (h : j ≠ k) :
    Sparse.get d (Sparse.set e m k v) j = Sparse.get d m j := by
  by_cases hv : v = e
  · simp [Sparse.set, hv, Sparse.get_erase, h]
  · rw [Sparse.set, if_neg hv, Sparse.get_insert _ _ _ _ _ fun x hx => (Sparse.erase_ne m k x hx).2, Sparse.get_erase]
    simp [h]

theorem Sparse.wfFrom_iff [DecidableEq α] (d : Nat → α) (low : Option Nat) (m : List (Nat × α)) :
    Sparse.wfFrom d low m = true ↔
      Sparse.Rising m ∧ (∀ x ∈ m, x.2 ≠ d x.1) ∧ ∀ l, low = some l → ∀ x ∈ m, l < x.1 := by
  induction m generalizing low with
  | nil => simp [Sparse.wfFrom, Sparse.Rising]
  | cons y rest ih =>
    obtain ⟨k, v⟩ := y
    cases low with
    | none =>
      simp only [Sparse.wfFrom, Bool.and_eq_true, decide_eq_true_eq, ih, Sparse.Rising, List.pairwise_cons, List.mem_cons,
        forall_eq_or_imp, Option.some.injEq, forall_eq', true_and, reduceCtorEq, false_implies, implies_true, and_true]
      exact ⟨fun ⟨h2, h3, h4, h5⟩ => ⟨⟨h5, h3⟩, h2, h4⟩, fun ⟨⟨h5, h3⟩, h2, h4⟩ => ⟨h2, h3, h4, h5⟩⟩
    | some l =>
      simp only [Sparse.wfFrom, Bool.and_eq_true, decide_eq_true_eq, ih, Sparse.Rising, List.pairwise_cons, List.mem_cons,
        forall_eq_or_imp, Option.some.injEq, forall_eq']
      exact ⟨fun ⟨⟨h1, h2⟩, h3, h4, h5⟩ => ⟨⟨h5, h3⟩, ⟨h2, h4⟩, h1, fun x hx => Nat.lt_trans h1 (h5 x hx)⟩,
        fun ⟨⟨h5, h3⟩, ⟨h2, h4⟩, h1, _⟩ => ⟨⟨h1, h2⟩, h3, h4, h5⟩⟩

/-- The canonical form: rising keys, and no value that its key reads as anyway. -/
theorem Sparse.wf_iff [DecidableEq α] (d : Nat → α) (m : List (Nat × α)) :
    Sparse.wf d m = true ↔ Sparse.Rising m ∧ ∀ x ∈ m, x.2 ≠ d x.1 := by
  simp [Sparse.wf, Sparse.wfFrom_iff]

theorem Sparse.wf_erase [DecidableEq α] (d : Nat → α) (m : List (Nat × α)) (k : Nat) (h : Sparse.wf d m = true) :
    Sparse.wf d (Sparse.erase m k) = true := by
  rw [Sparse.wf_iff] at h ⊢
  exact ⟨Sparse.rising_erase m k h.1, fun x hx => h.2 x (Sparse.erase_ne m k x hx).1⟩

/-- A write keeps the canonical form. -/
theorem Sparse.wf_set [DecidableEq α] (d : Nat → α) (m : List (Nat × α)) (k : Nat) (v : α) (h : Sparse.wf d m = true) :
    Sparse.wf d (Sparse.set (d k) m k v) = true := by
  by_cases hv : v = d k
  · rw [Sparse.set, if_pos hv]
    exact Sparse.wf_erase d m k h
  · rw [Sparse.set, if_neg hv]
    have he := Sparse.wf_erase d m k h
    rw [Sparse.wf_iff] at he ⊢
    refine ⟨Sparse.rising_insert _ _ _ he.1 fun x hx => (Sparse.erase_ne m k x hx).2, fun x hx => ?_⟩
    rcases (Sparse.mem_insert _ _ _ _).1 hx with rfl | hx
    · exact hv
    · exact he.2 x hx

theorem Sparse.wf_filter [DecidableEq α] (d : Nat → α) (m : List (Nat × α)) (p : Nat × α → Bool) (h : Sparse.wf d m = true) :
    Sparse.wf d (m.filter p) = true := by
  rw [Sparse.wf_iff] at h ⊢
  exact ⟨List.Pairwise.filter _ h.1, fun x hx => h.2 x (List.mem_filter.1 hx).1⟩

theorem keysRise_iff (low : Option Nat) (m : List (Nat × α)) :
    keysRise low m = true ↔ Sparse.Rising m ∧ ∀ l, low = some l → ∀ x ∈ m, l < x.1 := by
  induction m generalizing low with
  | nil => simp [keysRise, Sparse.Rising]
  | cons y rest ih =>
    obtain ⟨k, v⟩ := y
    cases low with
    | none =>
      simp only [keysRise, ih, Sparse.Rising, List.pairwise_cons, Option.some.injEq, forall_eq', Bool.true_and,
        reduceCtorEq, false_implies, implies_true, and_true]
      exact ⟨fun ⟨h3, h5⟩ => ⟨h5, h3⟩, fun ⟨h5, h3⟩ => ⟨h3, h5⟩⟩
    | some l =>
      simp only [keysRise, Bool.and_eq_true, decide_eq_true_eq, ih, Sparse.Rising, List.pairwise_cons, List.mem_cons,
        forall_eq_or_imp, Option.some.injEq, forall_eq']
      exact ⟨fun ⟨h1, h3, h5⟩ => ⟨⟨h5, h3⟩, h1, fun x hx => Nat.lt_trans h1 (h5 x hx)⟩,
        fun ⟨⟨h5, h3⟩, h1, _⟩ => ⟨h1, h3, h5⟩⟩

end

/-! ### On-die memory -/

theorem Sram.wf_iff (m : Sram) : m.wf = true ↔ Sparse.wf sramDefault m.mem = true
    ∧ Sparse.wf (fun _ => (0 : BitVec 72)) m.flips = true ∧ Sparse.wf (fun _ => (⟨0, false, false⟩ : TagWord)) m.tags = true := by
  simp [Sram.wf, and_assoc]

theorem Sram.wf_setByte (m : Sram) (a : Nat) (b : Byte) (h : m.wf = true) : (m.setByte a b).wf = true := by
  rw [Sram.wf_iff] at h ⊢
  exact ⟨Sparse.wf_set _ _ _ _ h.1, h.2⟩

theorem Sram.wf_setBytes (bs : List Byte) (m : Sram) (a : Nat) (h : m.wf = true) : (m.setBytes a bs).wf = true := by
  induction bs generalizing m a with
  | nil => exact h
  | cons b rest ih => exact ih _ _ (Sram.wf_setByte m a b h)

theorem State.storeWord_sram_wf (s : State) (w : Nat) (bs : List Byte) (h : s.sram.wf = true) : (s.storeWord w bs).sram.wf = true := by
  have h1 := (Sram.wf_iff _).1 (Sram.wf_setBytes bs s.sram w h)
  rw [Sram.wf_iff]
  exact ⟨h1.1, Sparse.wf_erase _ _ _ ((Sram.wf_iff _).1 h).2.1, h1.2.2⟩

/-- Accounting for a word, and a machine check, change no memory. -/
theorem State.machineCheck_memories (s : State) (who : Requester) (source addr : Nat) :
    (s.machineCheck who source addr).sram = s.sram ∧ (s.machineCheck who source addr).dram = s.dram := by
  cases who <;> exact ⟨rfl, rfl⟩

theorem State.noteWord_memories (s : State) (who : Requester) (w : Nat) (c : EccClass) :
    (s.noteWord who w c).sram = s.sram ∧ (s.noteWord who w c).dram = s.dram := by
  unfold State.noteWord
  dsimp only
  generalize s.baseRegion w = r
  cases c <;> cases r <;> first
    | (simp only [State.machineCheck_memories, State.setFieldOf_sram, State.setFieldOf_dram, State.countOf_sram,
        State.countOf_dram, and_self]; done)
    | (cases who <;> simp only [State.machineCheck_memories, State.setFlagOf_sram, State.setFlagOf_dram, State.setFieldOf_sram,
        State.setFieldOf_dram, State.countOf_sram, State.countOf_dram, and_self])

theorem State.mergeWord_memories (s : State) (who : Requester) (w : Nat) (f : List Byte → List Byte) (h : s.sram.wf = true) :
    (s.mergeWord who w f).sram.wf = true ∧ (s.mergeWord who w f).dram = s.dram := by
  unfold State.mergeWord
  split
  · exact ⟨by rw [(State.noteWord_memories s who w _).1]; exact h, (State.noteWord_memories s who w _).2⟩
  · refine ⟨State.storeWord_sram_wf _ _ _ ?_, (State.noteWord_memories s who w _).2⟩
    rw [(State.noteWord_memories s who w _).1]
    exact h

/-- A property that holds at first and that each step keeps holds after a fold. -/
theorem foldl_keeps {α β : Type} (P : β → Prop) (f : β → α → β) (xs : List α) (b : β) (h0 : P b)
    (hs : ∀ b x, x ∈ xs → P b → P (f b x)) : P (xs.foldl f b) := by
  induction xs generalizing b with
  | nil => exact h0
  | cons x rest ih => exact ih _ (hs b x (List.mem_cons_self ..) h0) fun b y hy => hs b y (List.mem_cons_of_mem _ hy)

theorem State.sramWrite_memories (s : State) (who : Requester) (a : Nat) (bs : List Byte) (h : s.sram.wf = true) :
    (s.sramWrite who a bs).sram.wf = true ∧ (s.sramWrite who a bs).dram = s.dram := by
  refine foldl_keeps (fun (x : State) => x.sram.wf = true ∧ x.dram = s.dram) _ _ _ ⟨h, rfl⟩ fun x w _ hx => ?_
  split
  · exact ⟨State.storeWord_sram_wf _ _ _ hx.1, hx.2⟩
  · have := State.mergeWord_memories x who w (fun old => overlay w old a bs) hx.1
    exact ⟨this.1, this.2.trans hx.2⟩

theorem State.sramAlias_memories (s : State) (who : Requester) (clear : Bool) (a : Nat) (bs : List Byte) (h : s.sram.wf = true) :
    (s.sramAlias who clear a bs).sram.wf = true ∧ (s.sramAlias who clear a bs).dram = s.dram := by
  refine foldl_keeps (fun (x : State) => x.sram.wf = true ∧ x.dram = s.dram) _ _ _ ⟨h, rfl⟩ fun x w _ hx => ?_
  exact ⟨(State.mergeWord_memories x who w _ hx.1).1, (State.mergeWord_memories x who w _ hx.1).2.trans hx.2⟩

theorem State.setTagWord_sram_wf (s : State) (w : Nat) (t : TagWord) (h : s.sram.wf = true) : (s.setTagWord w t).sram.wf = true := by
  rw [Sram.wf_iff] at h ⊢
  exact ⟨h.1, h.2.1, Sparse.wf_set (fun _ => (⟨0, false, false⟩ : TagWord)) _ _ _ h.2.2⟩

theorem State.clearTags_memories (s : State) (a n : Nat) (h : s.sram.wf = true) :
    (s.clearTags a n).sram.wf = true ∧ (s.clearTags a n).dram = s.dram := by
  refine foldl_keeps (fun (x : State) => x.sram.wf = true ∧ x.dram = s.dram) _ _ _ ⟨h, rfl⟩ fun x k _ hx => ?_
  dsimp only
  split
  · exact ⟨State.setTagWord_sram_wf _ _ _ hx.1, hx.2⟩
  · exact hx

theorem State.upset_sram_wf (s : State) (w : Nat) (u : BitVec 72) (h : s.sram.wf = true) : (s.upset w u).sram.wf = true := by
  rw [Sram.wf_iff] at h ⊢
  exact ⟨h.1, Sparse.wf_set (fun _ => (0 : BitVec 72)) _ _ _ h.2.1, h.2.2⟩

theorem State.readWordEffects_memories (s : State) (who : Requester) (w : Nat) :
    (s.readWordEffects who w).sram.mem = s.sram.mem ∧ (s.readWordEffects who w).sram.flips = s.sram.flips
      ∧ (s.readWordEffects who w).sram.tags = s.sram.tags ∧ (s.readWordEffects who w).dram = s.dram := by
  have h := State.noteWord_memories s who w (s.wordClass w)
  unfold State.readWordEffects State.queueWriteback
  split
  · dsimp only
    rw [h.1]
    exact ⟨rfl, rfl, rfl, h.2⟩
  · rw [h.1]
    exact ⟨rfl, rfl, rfl, h.2⟩

/-- A read changes no stored byte, no disturbance and no tag word. -/
theorem State.sramRead_memories (s : State) (who : Requester) (a n : Nat) :
    (s.sramRead who a n).st.sram.mem = s.sram.mem ∧ (s.sramRead who a n).st.sram.flips = s.sram.flips
      ∧ (s.sramRead who a n).st.sram.tags = s.sram.tags ∧ (s.sramRead who a n).st.dram = s.dram := by
  refine foldl_keeps (fun (x : State) => x.sram.mem = s.sram.mem ∧ x.sram.flips = s.sram.flips ∧ x.sram.tags = s.sram.tags
    ∧ x.dram = s.dram) _ _ _ ⟨rfl, rfl, rfl, rfl⟩ fun x w _ hx => ?_
  have h := State.readWordEffects_memories x who w
  exact ⟨h.1.trans hx.1, h.2.1.trans hx.2.1, h.2.2.1.trans hx.2.2.1, h.2.2.2.trans hx.2.2.2⟩

theorem State.wakeFor_memories (s : State) (a : Nat) : (s.wakeFor a).sram = s.sram ∧ (s.wakeFor a).dram = s.dram := by
  unfold State.wakeFor
  split <;> exact ⟨rfl, rfl⟩

/-! ### The deep store -/

theorem Dram.wf_iff (d : Dram) : d.wf = true ↔ Sparse.Rising d.deep
    ∧ (∀ x ∈ d.deep, d.zeroed x.1 = true → x.2 ≠ 0) ∧ Sparse.wf defaultMapEntry d.map = true ∧ rangesRise none d.zeros = true := by
  have h : (d.deep.all fun c => !(d.zeroed c.1 && c.2 == 0)) = true ↔ ∀ x ∈ d.deep, d.zeroed x.1 = true → x.2 ≠ 0 := by
    rw [List.all_eq_true]
    refine forall_congr' fun x => forall_congr' fun _ => ?_
    cases d.zeroed x.1 <;> simp
  rw [Dram.wf, Bool.and_eq_true, Bool.and_eq_true, Bool.and_eq_true, keysRise_iff, h, and_assoc, and_assoc]
  simp

theorem Dram.wf_setByte (d : Dram) (raw : Nat) (b : Byte) (h : d.wf = true) : (d.setByte raw b).wf = true := by
  rw [Dram.wf_iff] at h ⊢
  refine ⟨?_, ?_, h.2.2⟩
  · show Sparse.Rising (if d.zeroed raw && b == 0 then _ else _)
    split
    · exact Sparse.rising_erase _ _ h.1
    · exact Sparse.rising_insert _ _ _ (Sparse.rising_erase _ _ h.1) fun x hx => (Sparse.erase_ne _ _ _ hx).2
  · show ∀ x : Nat × Byte, x ∈ (if d.zeroed raw && b == 0 then _ else _) → d.zeroed x.1 = true → x.2 ≠ 0
    split
    · exact fun x hx => h.2.1 x (Sparse.erase_ne _ _ _ hx).1
    · rename_i hz
      intro x hx hzx
      rcases (Sparse.mem_insert _ _ _ _).1 hx with rfl | hx
      · simpa [hzx] using hz
      · exact h.2.1 x (Sparse.erase_ne _ _ _ hx).1 hzx

theorem Dram.wf_setBytes (bs : List Byte) (d : Dram) (raw : Nat) (h : d.wf = true) : (d.setBytes raw bs).wf = true := by
  induction bs generalizing d raw with
  | nil => exact h
  | cons b rest ih => exact ih _ _ (Dram.wf_setByte d raw b h)

/-! ### Zeroed ranges and the loss of the deep store -/

/-- An added range covers what it names beside what was covered. -/
theorem addRange_covers (rs : List (Nat × Nat)) (lo hi k : Nat) :
    ((addRange lo hi rs).any fun r => decide (r.1 ≤ k ∧ k < r.2))
      = ((rs.any fun r => decide (r.1 ≤ k ∧ k < r.2)) || decide (lo ≤ k ∧ k < hi)) := by
  induction rs generalizing lo hi with
  | nil => simp [addRange]
  | cons y rest ih =>
    obtain ⟨a, b⟩ := y
    rw [addRange]
    split
    · simp [Bool.or_comm]
    · split
      · simp only [List.any_cons, ih, Bool.or_assoc]
      · rw [ih, List.any_cons, Bool.eq_iff_iff]
        simp only [Bool.or_eq_true, decide_eq_true_eq]
        constructor
        · rintro (h | h)
          · exact .inl (.inr h)
          · by_cases ha : a ≤ k ∧ k < b
            · exact .inl (.inl ha)
            · exact .inr (by omega)
        · rintro ((h | h) | h)
          · exact .inr (by omega)
          · exact .inl h
          · exact .inr (by omega)

theorem rangesRise_cons (low : Option Nat) (a b : Nat) (rest : List (Nat × Nat)) :
    rangesRise low ((a, b) :: rest) = true ↔ (∀ l, low = some l → l < a) ∧ a < b ∧ rangesRise (some b) rest = true := by
  cases low <;> simp [rangesRise, and_assoc]

theorem rangesRise_below (low : Option Nat) (b : Nat) (rs : List (Nat × Nat)) (h : rangesRise (some b) rs = true)
    (hl : ∀ l, low = some l → l ≤ b) : rangesRise low rs = true := by
  cases rs with
  | nil => rfl
  | cons y rest =>
    obtain ⟨c, d⟩ := y
    rw [rangesRise_cons] at h ⊢
    exact ⟨fun l e => Nat.lt_of_le_of_lt (hl l e) (h.1 b rfl), h.2⟩

/-- Adding a range keeps the ranges apart. -/
theorem rangesRise_addRange (rs : List (Nat × Nat)) (low : Option Nat) (lo hi : Nat) (h : rangesRise low rs = true)
    (hl : ∀ l, low = some l → l < lo) (hlt : lo < hi) : rangesRise low (addRange lo hi rs) = true := by
  induction rs generalizing low lo hi with
  | nil => exact (rangesRise_cons low lo hi []).2 ⟨hl, hlt, rfl⟩
  | cons y rest ih =>
    obtain ⟨a, b⟩ := y
    rw [addRange]
    have h' := (rangesRise_cons low a b rest).1 h
    split
    · rename_i hb
      exact (rangesRise_cons ..).2 ⟨hl, hlt, (rangesRise_cons ..).2 ⟨fun l e => by cases e; exact hb, h'.2⟩⟩
    · split
      · rename_i hb
        exact (rangesRise_cons ..).2 ⟨h'.1, h'.2.1, ih (some b) lo hi h'.2.2 (fun l e => by cases e; exact hb) hlt⟩
      · refine ih low (min lo a) (max hi b) (rangesRise_below low b rest h'.2.2 fun l e => ?_) (fun l e => ?_) (by omega)
        · have := h'.1 l e
          omega
        · have := h'.1 l e
          have := hl l e
          omega

/-- Zeroing a range keeps the canonical form. -/
theorem Dram.wf_zeroRange (d : Dram) (lo hi : Nat) (h : d.wf = true) : (d.zeroRange lo hi).wf = true := by
  unfold Dram.zeroRange
  split
  · rename_i hlt
    rw [Dram.wf_iff] at h ⊢
    refine ⟨List.Pairwise.filter _ h.1, fun x hx hz => ?_, h.2.2.1,
      rangesRise_addRange _ _ _ _ h.2.2.2 (fun _ e => by simp at e) hlt⟩
    have hx := List.mem_filter.1 hx
    have hout := hx.2
    have hz' : ((addRange lo hi d.zeros).any fun r => decide (r.1 ≤ x.1 ∧ x.1 < r.2)) = true := hz
    rw [addRange_covers, Bool.or_eq_true] at hz'
    rcases hz' with hz' | hz'
    · exact h.2.1 x hx.1 hz'
    · simp only [decide_eq_true_eq] at hout hz'
      omega
  · exact h

/-- What a byte reads as after a range was zeroed: zero inside it, as before outside. -/
theorem Dram.byte_zeroRange (d : Dram) (lo hi k : Nat) :
    (d.zeroRange lo hi).byte k = if lo ≤ k ∧ k < hi then 0 else d.byte k := by
  unfold Dram.zeroRange
  split
  · have filtered (cs : List Host.Cell) (v : Byte) :
        Sparse.get v (cs.filter fun c => decide (c.1 < lo ∨ hi ≤ c.1)) k = if lo ≤ k ∧ k < hi then v else Sparse.get v cs k := by
      induction cs with
      | nil => simp [Sparse.get]
      | cons c rest ih =>
        by_cases hc : c.1 < lo ∨ hi ≤ c.1
        · rw [List.filter_cons_of_pos (by simpa using hc)]
          simp only [Sparse.get, ih]
          by_cases hk : c.1 = k
          · simp only [hk, if_true]
            rw [if_neg (by omega)]
          · simp only [hk, if_false]
        · rw [List.filter_cons_of_neg (by simpa using hc), ih]
          by_cases hk : lo ≤ k ∧ k < hi
          · simp only [hk, and_self, if_true]
          · rw [if_neg hk, if_neg hk]
            simp only [Sparse.get]
            rw [if_neg (by omega)]
    have hz : Dram.zeroed { d with deep := d.deep.filter (fun c => decide (c.1 < lo ∨ hi ≤ c.1)), zeros := addRange lo hi d.zeros } k
        = (d.zeroed k || decide (lo ≤ k ∧ k < hi)) := addRange_covers _ _ _ _
    unfold Dram.byte Dram.default
    rw [hz, filtered]
    by_cases hk : lo ≤ k ∧ k < hi
    · simp [hk]
    · simp [hk]
  · rw [if_neg (by omega)]

/-- The loss of the contents keeps the canonical form. -/
theorem Dram.wf_lose (d : Dram) (h : d.wf = true) : d.lose.wf = true := by
  rw [Dram.wf_iff] at h ⊢
  exact ⟨List.Pairwise.nil, fun x hx => absurd hx (List.not_mem_nil), h.2.2.1, rfl⟩

/-- A map entry written keeps the canonical form. -/
theorem State.setMapEntry_dram_wf (s : State) (n : Nat) (e : MapEntry) (h : s.dram.wf = true) : (s.setMapEntry n e).dram.wf = true := by
  rw [Dram.wf_iff] at h ⊢
  exact ⟨h.1, h.2.1, Sparse.wf_set defaultMapEntry _ _ _ h.2.2.1, h.2.2.2⟩

/-- The map as listed from `n` on is canonical above `low`. -/
theorem mapDiffs_wf (es : List MapEntry) (n : Nat) (low : Option Nat) (hl : ∀ l, low = some l → l < n) :
    Sparse.wfFrom defaultMapEntry low (mapDiffs n es) = true := by
  induction es generalizing n low with
  | nil => rfl
  | cons e rest ih =>
    rw [mapDiffs]
    split
    · exact ih (n + 1) low fun l hl' => Nat.lt_succ_of_lt (hl l hl')
    · rename_i he
      have hr := ih (n + 1) (some n) fun l e => by cases e; exact Nat.lt_succ_self n
      simp only [Sparse.wfFrom, Bool.and_eq_true, decide_eq_true_eq]
      refine ⟨⟨?_, he⟩, hr⟩
      cases low with
      | none => rfl
      | some l => simpa using hl l rfl

/-- The bank map built at an outage or a power-up is canonical. -/
theorem Dram.wf_setMap (d : Dram) (es : List MapEntry) (h : d.wf = true) : Dram.wf { d with map := mapDiffs 0 es } = true := by
  have hm : Sparse.wf defaultMapEntry (mapDiffs 0 es) = true := mapDiffs_wf es 0 none fun _ e => by simp at e
  rw [Dram.wf_iff] at h ⊢
  exact ⟨h.1, h.2.1, hm, h.2.2.2⟩

theorem State.buildMap_dram_wf (s : State) (h : s.dram.wf = true) : s.buildMap.dram.wf = true :=
  Dram.wf_setMap s.dram s.builtMap h

/-! ### Ledges, channel table and tag words set as a whole -/

/-- A ledge zeroed by a move keeps the canonical form. -/
theorem Sram.wf_zeroLedge (m : Sram) (g : RidgeId) (h : m.wf = true) : (m.zeroLedge g).wf = true := by
  rw [Sram.wf_iff] at h ⊢
  exact ⟨Sparse.wf_filter _ _ _ h.1, Sparse.wf_filter _ _ _ h.2.1, Sparse.wf_filter _ _ _ h.2.2⟩

/-- A channel table loaded from an image keeps the canonical form. -/
theorem Sram.wf_loadTable (m : Sram) (entries : List (Nat × List Byte)) (h : m.wf = true) : (m.loadTable entries).wf = true := by
  refine foldl_keeps (fun (x : Sram) => x.wf = true) _ _ _ ?_ fun x e _ hx => Sram.wf_setBytes _ _ _ hx
  rw [Sram.wf_iff] at h ⊢
  exact ⟨Sparse.wf_filter _ _ _ h.1, Sparse.wf_filter _ _ _ h.2.1, h.2.2⟩

theorem State.retireBank_memories (s : State) (pb cause : Nat) :
    (s.retireBank pb cause).sram = s.sram ∧ ((s.retireBank pb cause).dram.wf = s.dram.wf) := by
  unfold State.retireBank
  dsimp only
  split <;> exact ⟨rfl, rfl⟩

theorem State.noteCorrection_memories (s : State) (pb : Nat) :
    (s.noteCorrection pb).sram = s.sram ∧ ((s.noteCorrection pb).dram.wf = s.dram.wf) := by
  unfold State.noteCorrection
  dsimp only
  split
  · exact ⟨(State.retireBank_memories _ _ _).1, (State.retireBank_memories _ _ _).2⟩
  · exact ⟨rfl, rfl⟩

theorem State.noteDeepWord_memories (s : State) (who : Requester) (a raw check : Nat) (c : EccClass) :
    (s.noteDeepWord who a raw check c).sram = s.sram ∧ (s.noteDeepWord who a raw check c).dram.wf = s.dram.wf := by
  unfold State.noteDeepWord
  dsimp only
  generalize s.bankOf raw = pb
  generalize s.bankOf check = cb
  cases c with
  | clean => exact ⟨rfl, rfl⟩
  | uncorrectable =>
    cases who <;> simp only [State.machineCheck_memories, State.retireBank_memories, State.setFlagOf_sram, State.setFlagOf_dram,
      State.setFieldOf_sram, State.setFieldOf_dram, State.countOf_sram, State.countOf_dram, and_self]
  | corrected pos => simp only [State.noteCorrection_memories, State.countOf_sram, State.countOf_dram, and_self]
  | checkBit => simp only [State.noteCorrection_memories, State.countOf_sram, State.countOf_dram, and_self]

theorem State.deepReadWord_memories (s : State) (who : Requester) (p : DeepPlace) (w : Nat) :
    (s.deepReadWord who p w).st.sram = s.sram ∧ (s.deepReadWord who p w).st.dram.wf = s.dram.wf := by
  cases p with
  | windowed n raw check => exact State.noteDeepWord_memories ..
  | raw r => exact ⟨rfl, rfl⟩
  | checkRange => exact ⟨rfl, rfl⟩

theorem State.deepReadAt_memories (s : State) (who : Requester) (at' : State → Nat → DeepPlace) (a n : Nat) :
    (s.deepReadAt who at' a n).st.sram = s.sram ∧ (s.deepReadAt who at' a n).st.dram.wf = s.dram.wf := by
  refine foldl_keeps (fun (x : ReadResult) => x.st.sram = s.sram ∧ x.st.dram.wf = s.dram.wf) _ _ _ ⟨rfl, rfl⟩ fun x w _ hx => ?_
  have h := State.deepReadWord_memories x.st who (at' x.st w) w
  exact ⟨h.1.trans hx.1, h.2.trans hx.2⟩

theorem State.deepRead_memories (s : State) (who : Requester) (a n : Nat) :
    (s.deepRead who a n).st.sram = s.sram ∧ (s.deepRead who a n).st.dram.wf = s.dram.wf :=
  s.deepReadAt_memories who State.deepPlace a n

theorem State.deepStoreWord_memories (s : State) (p : DeepPlace) (bs : List Byte) (h : s.dram.wf = true) :
    (s.deepStoreWord p bs).sram = s.sram ∧ (s.deepStoreWord p bs).dram.wf = true := by
  cases p with
  | windowed n raw check => exact ⟨rfl, Dram.wf_setBytes _ _ _ (Dram.wf_setByte _ _ _ (Dram.wf_setBytes _ _ _ h))⟩
  | raw r => exact ⟨rfl, Dram.wf_setBytes _ _ _ h⟩
  | checkRange => exact ⟨rfl, h⟩

theorem State.noteGranule_memories (s : State) (who : Requester) (p : DeepPlace) (g : Nat) :
    (s.noteGranule who p g).sram = s.sram ∧ (s.noteGranule who p g).dram.wf = s.dram.wf := by
  refine foldl_keeps (fun (x : State) => x.sram = s.sram ∧ x.dram.wf = s.dram.wf) _ _ _ ⟨rfl, rfl⟩ fun x w _ hx => ?_
  have h := State.deepReadWord_memories x who (p.word w) w
  exact ⟨h.1.trans hx.1, h.2.trans hx.2⟩

theorem State.storeGranule_memories (s : State) (p : DeepPlace) (g a : Nat) (bs : List Byte) (h : s.dram.wf = true) :
    (s.storeGranule p g a bs).sram = s.sram ∧ (s.storeGranule p g a bs).dram.wf = true := by
  refine foldl_keeps (fun (x : State) => x.sram = s.sram ∧ x.dram.wf = true) _ _ _ ⟨rfl, h⟩ fun x w _ hx => ?_
  have hw := State.deepStoreWord_memories x (p.word w) (overlay w (match p.word w with
    | .windowed _ raw check => leBytes 8 (eccCorrect (x.deepClass raw check) (leNat (x.deepBytes raw 8)))
    | _ => []) a bs) hx.2
  exact ⟨hw.1.trans hx.1, hw.2⟩

theorem State.deepWriteGranule_memories (s : State) (who : Requester) (p : DeepPlace) (g a : Nat) (bs : List Byte)
    (h : s.dram.wf = true) :
    (s.deepWriteGranule who p g a bs).st.sram = s.sram ∧ (s.deepWriteGranule who p g a bs).st.dram.wf = true := by
  have store (x : State) (hx : x.sram = s.sram) (hw : x.dram.wf = true) :
      (x.storeGranule p g a bs).sram = s.sram ∧ (x.storeGranule p g a bs).dram.wf = true :=
    ⟨(State.storeGranule_memories x p g a bs hw).1.trans hx, (State.storeGranule_memories x p g a bs hw).2⟩
  have hn := State.noteGranule_memories s who p g
  unfold State.deepWriteGranule
  split
  · exact store s rfl h
  · cases p with
    | windowed n raw check =>
      dsimp only
      split
      · exact ⟨hn.1, hn.2.trans h⟩
      · exact store _ hn.1 (hn.2.trans h)
    | raw r => exact ⟨rfl, Dram.wf_setBytes _ _ _ h⟩
    | checkRange => exact ⟨rfl, h⟩

theorem State.deepWriteAt_memories (s : State) (who : Requester) (at' : State → Nat → DeepPlace) (a : Nat) (bs : List Byte)
    (h : s.dram.wf = true) :
    (s.deepWriteAt who at' a bs).st.sram = s.sram ∧ (s.deepWriteAt who at' a bs).st.dram.wf = true := by
  refine foldl_keeps (fun (x : ReadResult) => x.st.sram = s.sram ∧ x.st.dram.wf = true) _ _ _ ⟨rfl, h⟩ fun x g _ hx => ?_
  have hw := State.deepWriteGranule_memories x.st who (at' x.st g) g a bs hx.2
  exact ⟨hw.1.trans hx.1, hw.2⟩

theorem State.deepWrite_memories (s : State) (who : Requester) (a : Nat) (bs : List Byte) (h : s.dram.wf = true) :
    (s.deepWrite who a bs).st.sram = s.sram ∧ (s.deepWrite who a bs).st.dram.wf = true :=
  s.deepWriteAt_memories who State.deepPlace a bs h

/-! ### Ledges that follow their sites (R17) -/

/-- Entries listed anew under other addresses are in the canonical form. -/
theorem Sparse.wf_rekey {α : Type} [DecidableEq α] (d : Nat → α) (f : Nat → Option Nat) (m : List (Nat × α)) :
    Sparse.wf d (Sparse.rekey d f m) = true := by
  refine foldl_keeps (fun (m : List (Nat × α)) => Sparse.wf d m = true) _ _ _ rfl fun m c _ hm => ?_
  split
  · exact Sparse.wf_set d _ _ _ hm
  · exact hm

/-- Memories listed anew are in the canonical form. -/
theorem Sram.wf_rekey (m : Sram) (f : Nat → Option Nat) : (m.rekey f).wf = true :=
  (Sram.wf_iff _).2 ⟨Sparse.wf_rekey _ _ _, Sparse.wf_rekey _ _ _, Sparse.wf_rekey _ _ _⟩

/-- A change of the ridge map keeps the canonical form. -/
theorem State.remapSites_wf (s : State) (sites : Vector (Option SiteId) 32) (h : Memory.wf s = true) :
    Memory.wf (s.remapSites sites) = true := by
  unfold State.remapSites
  dsimp only
  split
  · exact h
  · simp only [Memory.wf, Bool.and_eq_true] at h ⊢
    exact ⟨Sram.wf_rekey _ _, h.2⟩

/-! ### All memories -/

theorem Memory.wf_iff (s : State) : Memory.wf s = true ↔ s.sram.wf = true ∧ s.dram.wf = true := by simp [Memory.wf]

/-- A read of any memory keeps the canonical form. -/
theorem State.memRead_wf (s : State) (who : Requester) (a n : Nat) (h : Memory.wf s = true) : Memory.wf (s.memRead who a n).st = true := by
  rw [Memory.wf_iff] at h ⊢
  unfold State.memRead
  split
  · have hd := State.deepRead_memories s who a n
    exact ⟨hd.1 ▸ h.1, hd.2.trans h.2⟩
  · have hr := State.sramRead_memories (s.wakeFor a) who a n
    have hk := State.wakeFor_memories s a
    refine ⟨?_, (hr.2.2.2.trans hk.2) ▸ h.2⟩
    rw [Sram.wf_iff, hr.1, hr.2.1, hr.2.2.1, hk.1]
    exact (Sram.wf_iff _).1 h.1

/-- A write to any memory, through an alias or not, keeps the canonical form. -/
theorem State.memWrite_wf (s : State) (who : Requester) (a : Nat) (bs : List Byte) (h : Memory.wf s = true) :
    Memory.wf (s.memWrite who a bs).st = true := by
  rw [Memory.wf_iff] at h ⊢
  have viaAlias (clear : Bool) (b : Nat) : (((s.wakeFor b).sramAlias who clear b bs).clearTags b bs.length).sram.wf = true
      ∧ (((s.wakeFor b).sramAlias who clear b bs).clearTags b bs.length).dram.wf = true := by
    have hk := State.wakeFor_memories s b
    have h1 := State.sramAlias_memories (s.wakeFor b) who clear b bs (hk.1 ▸ h.1)
    have h2 := State.clearTags_memories _ b bs.length h1.1
    exact ⟨h2.1, ((h2.2.trans h1.2).trans hk.2) ▸ h.2⟩
  unfold State.memWrite
  generalize hc : aliasClear = c at *
  generalize ha : aliasSet = d at *
  split
  · have hd := State.deepWrite_memories s who a bs h.2
    exact ⟨hd.1 ▸ h.1, hd.2⟩
  · split
    · exact viaAlias true (a - c)
    · split
      · exact viaAlias false (a - d)
      · have hk := State.wakeFor_memories s a
        have h1 := State.sramWrite_memories (s.wakeFor a) who a bs (hk.1 ▸ h.1)
        have h2 := State.clearTags_memories _ a bs.length h1.1
        exact ⟨h2.1, ((h2.2.trans h1.2).trans hk.2) ▸ h.2⟩

/-- The memories of the state at reset list nothing. -/
theorem State.reset_memory_wf : Memory.wf State.reset = true := by decide

/-! ### The register file -/

/-- Writing a register keeps the register file canonical. -/
theorem State.setReg_regsWf (s : State) (blk off v : Nat) (h : s.regsWf = true) : (s.setReg blk off v).regsWf = true :=
  Sparse.wf_set (fun k => BitVec.ofNat 64 (s.regReset k)) s.regs (regKey blk off) (BitVec.ofNat 64 v) h

/-- Registers reset as a group keep the register file canonical. -/
theorem State.resetRegs_regsWf (s : State) (p : Nat → Bool) (h : s.regsWf = true) : (s.resetRegs p).regsWf = true :=
  Sparse.wf_filter (fun k => BitVec.ofNat 64 (s.regReset k)) s.regs _ h

/-- A register written reads the low 64 bits written. -/
theorem State.reg_setReg (s : State) (blk off v : Nat) : (s.setReg blk off v).reg blk off = v % 2 ^ 64 := by
  show (Sparse.get (BitVec.ofNat 64 (s.regReset (regKey blk off))) (Sparse.set _ s.regs (regKey blk off) (BitVec.ofNat 64 v))
    (regKey blk off)).toNat = _
  rw [Sparse.get_set, if_pos rfl, BitVec.toNat_ofNat]

/-- Every other register reads as before. -/
theorem State.reg_setReg_ne (s : State) (blk off v b o : Nat) (h : regKey b o ≠ regKey blk off) :
    (s.setReg blk off v).reg b o = s.reg b o := by
  show (Sparse.get (BitVec.ofNat 64 (s.regReset (regKey b o))) (Sparse.set _ s.regs (regKey blk off) (BitVec.ofNat 64 v))
    (regKey b o)).toNat = _
  rw [Sparse.get_set_ne _ _ _ _ _ _ h]
  rfl

/-- A byte of on-die memory written reads as written, and every other byte as before. -/
theorem Sram.get_setByte (m : Sram) (a b : Nat) (v : Byte) :
    Sparse.get (sramDefault b) (m.setByte a v).mem b = if b = a then v else Sparse.get (sramDefault b) m.mem b := by
  by_cases h : b = a
  · subst h
    rw [if_pos rfl]
    exact (Sparse.get_set _ _ _ _ _).trans (if_pos rfl)
  · rw [if_neg h]
    exact Sparse.get_set_ne _ _ _ _ _ _ h

end Sys2Proof.Machine
end

