-- ==== Sys2Proof/Laws/PerInstr.lean ====
section
/-!
SUPPORT. Facts about every command as syntax, constructor by constructor: the commands that have an instruction word (R310)
are those that belong to a thread.
-/

namespace Sys2Proof.Laws.WordIffThread

open Sys2Proof.Machine

/-- A command has an instruction word exactly when it is an instruction of some thread. -/
def Statement (i : Sys2Proof.Instr) : Prop := (encode i).isSome = (ofThread i).isSome

theorem registerWrite : ∀ x0 x1 x2 x3 x4, Statement (.registerWrite x0 x1 x2 x3 x4) := fun _ _ _ _ _ => rfl
theorem readClear : ∀ x0 x1 x2 x3, Statement (.readClear x0 x1 x2 x3) := fun _ _ _ _ => rfl
theorem bootLathLoad : Statement (.bootLathLoad) := rfl
theorem lload : Statement (.lload) := rfl
theorem lpref : Statement (.lpref) := rfl
theorem lpush : Statement (.lpush) := rfl
theorem lathCheckComplete : ∀ x0, Statement (.lathCheckComplete x0) := fun _ => rfl
theorem lathLoadComplete : Statement (.lathLoadComplete) := rfl
theorem relathSwap : Statement (.relathSwap) := rfl
theorem relathSelftestDone : ∀ x0, Statement (.relathSelftestDone x0) := fun _ => rfl
theorem rateServoUpdate : ∀ x0, Statement (.rateServoUpdate x0) := fun _ => rfl
theorem slaunch : ∀ x0 x1 x2, Statement (.slaunch x0 x1 x2) := fun _ _ _ => rfl
theorem slaunchResume : ∀ x0, Statement (.slaunchResume x0) := fun _ => rfl
theorem streamDispatch : ∀ x0, Statement (.streamDispatch x0) := fun _ => rfl
theorem chainAdmission : ∀ x0, Statement (.chainAdmission x0) := fun _ => rfl
theorem chainTimeout : ∀ x0 x1, Statement (.chainTimeout x0 x1) := fun _ _ => rfl
theorem stepGroupRow : ∀ x0 x1, Statement (.stepGroupRow x0 x1) := fun _ _ => rfl
theorem ridgelineRowArrival : ∀ x0 x1, Statement (.ridgelineRowArrival x0 x1) := fun _ _ => rfl
theorem ridgelineCreditReturn : ∀ x0 x1, Statement (.ridgelineCreditReturn x0 x1) := fun _ _ => rfl
theorem streamComplete : ∀ x0 x1, Statement (.streamComplete x0 x1) := fun _ _ => rfl
theorem controlStoreRewrite : ∀ x0 x1, Statement (.controlStoreRewrite x0 x1) := fun _ _ => rfl
theorem coreRoutineStep : ∀ x0 x1, Statement (.coreRoutineStep x0 x1) := fun _ _ => rfl
theorem add : ∀ x0 x1 x2 x3 x4 x5 x6, Statement (.add x0 x1 x2 x3 x4 x5 x6) := fun _ _ _ _ _ _ _ => rfl
theorem sub : ∀ x0 x1 x2 x3 x4 x5 x6, Statement (.sub x0 x1 x2 x3 x4 x5 x6) := fun _ _ _ _ _ _ _ => rfl
theorem neg : ∀ x0 x1 x2 x3 x4, Statement (.neg x0 x1 x2 x3 x4) := fun _ _ _ _ _ => rfl
theorem abs : ∀ x0 x1 x2 x3 x4, Statement (.abs x0 x1 x2 x3 x4) := fun _ _ _ _ _ => rfl
theorem and : ∀ x0 x1 x2 x3 x4 x5, Statement (.and x0 x1 x2 x3 x4 x5) := fun _ _ _ _ _ _ => rfl
theorem or : ∀ x0 x1 x2 x3 x4 x5, Statement (.or x0 x1 x2 x3 x4 x5) := fun _ _ _ _ _ _ => rfl
theorem xor : ∀ x0 x1 x2 x3 x4 x5, Statement (.xor x0 x1 x2 x3 x4 x5) := fun _ _ _ _ _ _ => rfl
theorem andn : ∀ x0 x1 x2 x3 x4 x5, Statement (.andn x0 x1 x2 x3 x4 x5) := fun _ _ _ _ _ _ => rfl
theorem not : ∀ x0 x1 x2 x3 x4, Statement (.not x0 x1 x2 x3 x4) := fun _ _ _ _ _ => rfl
theorem shl : ∀ x0 x1 x2 x3 x4 x5 x6, Statement (.shl x0 x1 x2 x3 x4 x5 x6) := fun _ _ _ _ _ _ _ => rfl
theorem shr : ∀ x0 x1 x2 x3 x4 x5, Statement (.shr x0 x1 x2 x3 x4 x5) := fun _ _ _ _ _ _ => rfl
theorem sra : ∀ x0 x1 x2 x3 x4 x5, Statement (.sra x0 x1 x2 x3 x4 x5) := fun _ _ _ _ _ _ => rfl
theorem rotl : ∀ x0 x1 x2 x3 x4 x5, Statement (.rotl x0 x1 x2 x3 x4 x5) := fun _ _ _ _ _ _ => rfl
theorem min : ∀ x0 x1 x2 x3 x4 x5, Statement (.min x0 x1 x2 x3 x4 x5) := fun _ _ _ _ _ _ => rfl
theorem max : ∀ x0 x1 x2 x3 x4 x5, Statement (.max x0 x1 x2 x3 x4 x5) := fun _ _ _ _ _ _ => rfl
theorem cmpeq : ∀ x0 x1 x2 x3 x4, Statement (.cmpeq x0 x1 x2 x3 x4) := fun _ _ _ _ _ => rfl
theorem cmplt : ∀ x0 x1 x2 x3 x4 x5, Statement (.cmplt x0 x1 x2 x3 x4 x5) := fun _ _ _ _ _ _ => rfl
theorem cmple : ∀ x0 x1 x2 x3 x4 x5, Statement (.cmple x0 x1 x2 x3 x4 x5) := fun _ _ _ _ _ _ => rfl
theorem selnz : ∀ x0 x1 x2 x3 x4 x5, Statement (.selnz x0 x1 x2 x3 x4 x5) := fun _ _ _ _ _ _ => rfl
theorem mov : ∀ x0 x1 x2 x3 x4, Statement (.mov x0 x1 x2 x3 x4) := fun _ _ _ _ _ => rfl
theorem popc : ∀ x0 x1 x2 x3 x4, Statement (.popc x0 x1 x2 x3 x4) := fun _ _ _ _ _ => rfl
theorem clz : ∀ x0 x1 x2 x3 x4, Statement (.clz x0 x1 x2 x3 x4) := fun _ _ _ _ _ => rfl
theorem mul : ∀ x0 x1 x2 x3 x4 x5 x6, Statement (.mul x0 x1 x2 x3 x4 x5 x6) := fun _ _ _ _ _ _ _ => rfl
theorem mulh : ∀ x0 x1 x2 x3 x4 x5, Statement (.mulh x0 x1 x2 x3 x4 x5) := fun _ _ _ _ _ _ => rfl
theorem div : ∀ x0 x1 x2 x3 x4 x5 x6, Statement (.div x0 x1 x2 x3 x4 x5 x6) := fun _ _ _ _ _ _ _ => rfl
theorem divr : ∀ x0 x1 x2 x3 x4 x5 x6, Statement (.divr x0 x1 x2 x3 x4 x5 x6) := fun _ _ _ _ _ _ _ => rfl
theorem xmul : ∀ x0 x1 x2 x3 x4 x5, Statement (.xmul x0 x1 x2 x3 x4 x5) := fun _ _ _ _ _ _ => rfl
theorem xmac : ∀ x0 x1 x2 x3 x4 x5, Statement (.xmac x0 x1 x2 x3 x4 x5) := fun _ _ _ _ _ _ => rfl
theorem xmsu : ∀ x0 x1 x2 x3 x4 x5, Statement (.xmsu x0 x1 x2 x3 x4 x5) := fun _ _ _ _ _ _ => rfl
theorem xmov : ∀ x0 x1 x2 x3 x4 x5 x6, Statement (.xmov x0 x1 x2 x3 x4 x5 x6) := fun _ _ _ _ _ _ _ => rfl
theorem fadd : ∀ x0 x1 x2 x3 x4, Statement (.fadd x0 x1 x2 x3 x4) := fun _ _ _ _ _ => rfl
theorem fsub : ∀ x0 x1 x2 x3 x4, Statement (.fsub x0 x1 x2 x3 x4) := fun _ _ _ _ _ => rfl
theorem fmul : ∀ x0 x1 x2 x3 x4, Statement (.fmul x0 x1 x2 x3 x4) := fun _ _ _ _ _ => rfl
theorem fdiv : ∀ x0 x1 x2 x3 x4, Statement (.fdiv x0 x1 x2 x3 x4) := fun _ _ _ _ _ => rfl
theorem fsqrt : ∀ x0 x1 x2 x3, Statement (.fsqrt x0 x1 x2 x3) := fun _ _ _ _ => rfl
theorem fmin : ∀ x0 x1 x2 x3 x4, Statement (.fmin x0 x1 x2 x3 x4) := fun _ _ _ _ _ => rfl
theorem fmax : ∀ x0 x1 x2 x3 x4, Statement (.fmax x0 x1 x2 x3 x4) := fun _ _ _ _ _ => rfl
theorem fminm : ∀ x0 x1 x2 x3 x4, Statement (.fminm x0 x1 x2 x3 x4) := fun _ _ _ _ _ => rfl
theorem fmaxm : ∀ x0 x1 x2 x3 x4, Statement (.fmaxm x0 x1 x2 x3 x4) := fun _ _ _ _ _ => rfl
theorem fabs : ∀ x0 x1 x2 x3, Statement (.fabs x0 x1 x2 x3) := fun _ _ _ _ => rfl
theorem fneg : ∀ x0 x1 x2 x3, Statement (.fneg x0 x1 x2 x3) := fun _ _ _ _ => rfl
theorem fcsgn : ∀ x0 x1 x2 x3 x4, Statement (.fcsgn x0 x1 x2 x3 x4) := fun _ _ _ _ _ => rfl
theorem frint : ∀ x0 x1 x2 x3, Statement (.frint x0 x1 x2 x3) := fun _ _ _ _ => rfl
theorem fcmpeq : ∀ x0 x1 x2 x3 x4, Statement (.fcmpeq x0 x1 x2 x3 x4) := fun _ _ _ _ _ => rfl
theorem fcmplt : ∀ x0 x1 x2 x3 x4, Statement (.fcmplt x0 x1 x2 x3 x4) := fun _ _ _ _ _ => rfl
theorem fcmple : ∀ x0 x1 x2 x3 x4, Statement (.fcmple x0 x1 x2 x3 x4) := fun _ _ _ _ _ => rfl
theorem cvtff : ∀ x0 x1 x2 x3 x4, Statement (.cvtff x0 x1 x2 x3 x4) := fun _ _ _ _ _ => rfl
theorem cvtfi : ∀ x0 x1 x2 x3 x4 x5, Statement (.cvtfi x0 x1 x2 x3 x4 x5) := fun _ _ _ _ _ _ => rfl
theorem cvtif : ∀ x0 x1 x2 x3 x4 x5, Statement (.cvtif x0 x1 x2 x3 x4 x5) := fun _ _ _ _ _ _ => rfl
theorem fma : ∀ x0 x1 x2 x3 x4 x5, Statement (.fma x0 x1 x2 x3 x4 x5) := fun _ _ _ _ _ _ => rfl
theorem fms : ∀ x0 x1 x2 x3 x4 x5, Statement (.fms x0 x1 x2 x3 x4 x5) := fun _ _ _ _ _ _ => rfl
theorem fnma : ∀ x0 x1 x2 x3 x4 x5, Statement (.fnma x0 x1 x2 x3 x4 x5) := fun _ _ _ _ _ _ => rfl
theorem fnms : ∀ x0 x1 x2 x3 x4 x5, Statement (.fnms x0 x1 x2 x3 x4 x5) := fun _ _ _ _ _ _ => rfl
theorem bcdadd : ∀ x0 x1 x2 x3, Statement (.bcdadd x0 x1 x2 x3) := fun _ _ _ _ => rfl
theorem bcdsub : ∀ x0 x1 x2 x3, Statement (.bcdsub x0 x1 x2 x3) := fun _ _ _ _ => rfl
theorem movad : ∀ x0 x1 x2, Statement (.movad x0 x1 x2) := fun _ _ _ => rfl
theorem movda : ∀ x0 x1 x2, Statement (.movda x0 x1 x2) := fun _ _ _ => rfl
theorem cmpaeq : ∀ x0 x1 x2 x3, Statement (.cmpaeq x0 x1 x2 x3) := fun _ _ _ _ => rfl
theorem cmpaltu : ∀ x0 x1 x2 x3, Statement (.cmpaltu x0 x1 x2 x3) := fun _ _ _ _ => rfl
theorem adda : ∀ x0 x1 x2 x3, Statement (.adda x0 x1 x2 x3) := fun _ _ _ _ => rfl
theorem suba : ∀ x0 x1 x2 x3, Statement (.suba x0 x1 x2 x3) := fun _ _ _ _ => rfl
theorem addi : ∀ x0 x1 x2 x3, Statement (.addi x0 x1 x2 x3) := fun _ _ _ _ => rfl
theorem andi : ∀ x0 x1 x2 x3, Statement (.andi x0 x1 x2 x3) := fun _ _ _ _ => rfl
theorem ori : ∀ x0 x1 x2 x3, Statement (.ori x0 x1 x2 x3) := fun _ _ _ _ => rfl
theorem li : ∀ x0 x1 x2, Statement (.li x0 x1 x2) := fun _ _ _ => rfl
theorem shli : ∀ x0 x1 x2 x3, Statement (.shli x0 x1 x2 x3) := fun _ _ _ _ => rfl
theorem shri : ∀ x0 x1 x2 x3, Statement (.shri x0 x1 x2 x3) := fun _ _ _ _ => rfl
theorem srai : ∀ x0 x1 x2 x3, Statement (.srai x0 x1 x2 x3) := fun _ _ _ _ => rfl
theorem rotli : ∀ x0 x1 x2 x3, Statement (.rotli x0 x1 x2 x3) := fun _ _ _ _ => rfl
theorem cmpeqi : ∀ x0 x1 x2 x3, Statement (.cmpeqi x0 x1 x2 x3) := fun _ _ _ _ => rfl
theorem cmplti : ∀ x0 x1 x2 x3, Statement (.cmplti x0 x1 x2 x3) := fun _ _ _ _ => rfl
theorem cmpltui : ∀ x0 x1 x2 x3, Statement (.cmpltui x0 x1 x2 x3) := fun _ _ _ _ => rfl
theorem ld : ∀ x0 x1 x2 x3 x4, Statement (.ld x0 x1 x2 x3 x4) := fun _ _ _ _ _ => rfl
theorem lds : ∀ x0 x1 x2 x3 x4, Statement (.lds x0 x1 x2 x3 x4) := fun _ _ _ _ _ => rfl
theorem st : ∀ x0 x1 x2 x3 x4, Statement (.st x0 x1 x2 x3 x4) := fun _ _ _ _ _ => rfl
theorem beqz : ∀ x0 x1 x2, Statement (.beqz x0 x1 x2) := fun _ _ _ => rfl
theorem bnez : ∀ x0 x1 x2, Statement (.bnez x0 x1 x2) := fun _ _ _ => rfl
theorem bltz : ∀ x0 x1 x2, Statement (.bltz x0 x1 x2) := fun _ _ _ => rfl
theorem bgez : ∀ x0 x1 x2, Statement (.bgez x0 x1 x2) := fun _ _ _ => rfl
theorem bra : ∀ x0 x1, Statement (.bra x0 x1) := fun _ _ => rfl
theorem bal : ∀ x0 x1 x2, Statement (.bal x0 x1 x2) := fun _ _ _ => rfl
theorem ja : ∀ x0 x1, Statement (.ja x0 x1) := fun _ _ => rfl
theorem jal : ∀ x0 x1 x2, Statement (.jal x0 x1 x2) := fun _ _ _ => rfl
theorem nop : ∀ x0, Statement (.nop x0) := fun _ => rfl
theorem mfs : ∀ x0 x1 x2, Statement (.mfs x0 x1 x2) := fun _ _ _ => rfl
theorem mts : ∀ x0 x1 x2, Statement (.mts x0 x1 x2) := fun _ _ _ => rfl
theorem wfe : ∀ x0 x1 x2, Statement (.wfe x0 x1 x2) := fun _ _ _ => rfl
theorem wtu : ∀ x0 x1 x2 x3, Statement (.wtu x0 x1 x2 x3) := fun _ _ _ _ => rfl
theorem sev : ∀ x0 x1 x2, Statement (.sev x0 x1 x2) := fun _ _ _ => rfl
theorem callg : ∀ x0 x1, Statement (.callg x0 x1) := fun _ _ => rfl
theorem retx : ∀ x0, Statement (.retx x0) := fun _ => rfl
theorem fence : ∀ x0, Statement (.fence x0) := fun _ => rfl
theorem illegalInstruction : ∀ x0 x1, Statement (.illegalInstruction x0 x1) := fun _ _ => rfl
theorem asyncException : ∀ x0, Statement (.asyncException x0) := fun _ => rfl
theorem loadDataReturn : ∀ x0, Statement (.loadDataReturn x0) := fun _ => rfl
theorem reservationGrant : ∀ x0, Statement (.reservationGrant x0) := fun _ => rfl
theorem storeBufferRelease : ∀ x0, Statement (.storeBufferRelease x0) := fun _ => rfl
theorem wfeWake : ∀ x0, Statement (.wfeWake x0) := fun _ => rfl
theorem wtuWake : ∀ x0, Statement (.wtuWake x0) := fun _ => rfl
theorem fenceComplete : ∀ x0, Statement (.fenceComplete x0) := fun _ => rfl
theorem threadReset : ∀ x0 x1 x2 x3, Statement (.threadReset x0 x1 x2 x3) := fun _ _ _ _ => rfl
theorem threadStart : ∀ x0 x1 x2, Statement (.threadStart x0 x1 x2) := fun _ _ _ => rfl
theorem watchdogKick : ∀ x0 x1 x2, Statement (.watchdogKick x0 x1 x2) := fun _ _ _ => rfl
theorem watchdogExpiry : ∀ x0 x1, Statement (.watchdogExpiry x0 x1) := fun _ _ => rfl
theorem debugHalt : ∀ x0, Statement (.debugHalt x0) := fun _ => rfl
theorem ledgeAccess : ∀ x0 x1 x2 x3, Statement (.ledgeAccess x0 x1 x2 x3) := fun _ _ _ _ => rfl
theorem eccWriteback : ∀ x0, Statement (.eccWriteback x0) := fun _ => rfl
theorem aliasOperation : ∀ x0 x1 x2, Statement (.aliasOperation x0 x1 x2) := fun _ _ _ => rfl
theorem retentionEnter : ∀ x0, Statement (.retentionEnter x0) := fun _ => rfl
theorem retentionWake : ∀ x0, Statement (.retentionWake x0) := fun _ => rfl
theorem wakeComplete : ∀ x0, Statement (.wakeComplete x0) := fun _ => rfl
theorem channelTableLookup : ∀ x0 x1 x2, Statement (.channelTableLookup x0 x1 x2) := fun _ _ _ => rfl
theorem channelTableWrite : ∀ x0 x1 x2, Statement (.channelTableWrite x0 x1 x2) := fun _ _ _ => rfl
theorem mailboxDataAccess : ∀ x0 x1 x2 x3, Statement (.mailboxDataAccess x0 x1 x2 x3) := fun _ _ _ _ => rfl
theorem doorbellWrite : ∀ x0 x1 x2, Statement (.doorbellWrite x0 x1 x2) := fun _ _ _ => rfl
theorem semaphoreAcquire : ∀ x0 x1, Statement (.semaphoreAcquire x0 x1) := fun _ _ => rfl
theorem semaphoreRelease : ∀ x0 x1, Statement (.semaphoreRelease x0 x1) := fun _ _ => rfl
theorem semaphoreBreak : ∀ x0, Statement (.semaphoreBreak x0) := fun _ => rfl
theorem forcedBreak : ∀ x0 x1, Statement (.forcedBreak x0 x1) := fun _ _ => rfl
theorem matrixRequestEntry : ∀ x0 x1 x2 x3 x4, Statement (.matrixRequestEntry x0 x1 x2 x3 x4) := fun _ _ _ _ _ => rfl
theorem matrixGrant : ∀ x0, Statement (.matrixGrant x0) := fun _ => rfl
theorem dustSheetLift : ∀ x0, Statement (.dustSheetLift x0) := fun _ => rfl
theorem deepStoreGrant : ∀ x0 x1, Statement (.deepStoreGrant x0 x1) := fun _ _ => rfl
theorem trainingComplete : ∀ x0 x1, Statement (.trainingComplete x0 x1) := fun _ _ => rfl
theorem recentring : ∀ x0 x1, Statement (.recentring x0 x1) := fun _ _ => rfl
theorem edcRetry : ∀ x0 x1 x2 x3 x4, Statement (.edcRetry x0 x1 x2 x3 x4) := fun _ _ _ _ _ => rfl
theorem retrainComplete : ∀ x0 x1 x2, Statement (.retrainComplete x0 x1 x2) := fun _ _ _ => rfl
theorem outageRemap : Statement (.outageRemap) := rfl
theorem outageEnd : Statement (.outageEnd) := rfl
theorem refreshOwed : ∀ x0, Statement (.refreshOwed x0) := fun _ => rfl
theorem refreshIssue : ∀ x0, Statement (.refreshIssue x0) := fun _ => rfl
theorem dramTemperatureRead : ∀ x0 x1, Statement (.dramTemperatureRead x0 x1) := fun _ _ => rfl
theorem retrain : ∀ x0 x1, Statement (.retrain x0 x1) := fun _ _ => rfl
theorem windowEnable : ∀ x0 x1 x2, Statement (.windowEnable x0 x1 x2) := fun _ _ _ => rfl
theorem windowInit : ∀ x0 x1 x2, Statement (.windowInit x0 x1 x2) := fun _ _ _ => rfl
theorem windowZeroingDone : ∀ x0, Statement (.windowZeroingDone x0) := fun _ => rfl
theorem migrationStart : Statement (.migrationStart) := rfl
theorem migrationRowCopy : Statement (.migrationRowCopy) := rfl
theorem bankReplacement : ∀ x0, Statement (.bankReplacement x0) := fun _ => rfl
theorem rowRepair : ∀ x0 x1, Statement (.rowRepair x0 x1) := fun _ _ => rfl
theorem blockLock : ∀ x0, Statement (.blockLock x0) := fun _ => rfl
theorem lockLoss : ∀ x0 x1, Statement (.lockLoss x0 x1) := fun _ _ => rfl
theorem flpFrame : ∀ x0 x1, Statement (.flpFrame x0 x1) := fun _ _ => rfl
theorem leg8Frame : ∀ x0 x1, Statement (.leg8Frame x0 x1) := fun _ _ => rfl
theorem eth25Frame : ∀ x0 x1 x2, Statement (.eth25Frame x0 x1 x2) := fun _ _ _ => rfl
theorem ringWpAdvance : ∀ x0, Statement (.ringWpAdvance x0) := fun _ => rfl
theorem saddleRelease : ∀ x0 x1 x2 x3 x4, Statement (.saddleRelease x0 x1 x2 x3 x4) := fun _ _ _ _ _ => rfl
theorem ringEnable : ∀ x0 x1 x2, Statement (.ringEnable x0 x1 x2) := fun _ _ _ => rfl
theorem linkFailure : ∀ x0, Statement (.linkFailure x0) := fun _ => rfl
theorem linkFailClear : ∀ x0, Statement (.linkFailClear x0) := fun _ => rfl
theorem linkDeadMarking : ∀ x0, Statement (.linkDeadMarking x0) := fun _ => rfl
theorem block0Transmit : ∀ x0, Statement (.block0Transmit x0) := fun _ => rfl
theorem egressEntry : ∀ x0, Statement (.egressEntry x0) := fun _ => rfl
theorem egressDatagram : ∀ x0 x1, Statement (.egressDatagram x0 x1) := fun _ _ => rfl
theorem colEvaluation : Statement (.colEvaluation) := rfl
theorem colDeadline : Statement (.colDeadline) := rfl
theorem resultDelivery : ∀ x0 x1 x2 x3, Statement (.resultDelivery x0 x1 x2 x3) := fun _ _ _ _ => rfl
theorem releasePoint : ∀ x0, Statement (.releasePoint x0) := fun _ => rfl
theorem fastCheck : ∀ x0, Statement (.fastCheck x0) := fun _ => rfl
theorem bxcAdvance : Statement (.bxcAdvance) := rfl
theorem bunchClockLoss : Statement (.bunchClockLoss) := rfl
theorem bunchClockFailover : Statement (.bunchClockFailover) := rfl
theorem bunchClockPresent : ∀ x0, Statement (.bunchClockPresent x0) := fun _ => rfl
theorem orbitMarker : Statement (.orbitMarker) := rfl
theorem orbitLost : Statement (.orbitLost) := rfl
theorem arm : ∀ x0, Statement (.arm x0) := fun _ => rfl
theorem timeCodeFrame : ∀ x0, Statement (.timeCodeFrame x0) := fun _ => rfl
theorem timeCodeTimeout : Statement (.timeCodeTimeout) := rfl
theorem refclkLoss : Statement (.refclkLoss) := rfl
theorem timerCountEnable : ∀ x0 x1 x2, Statement (.timerCountEnable x0 x1 x2) := fun _ _ _ => rfl
theorem timerTick : ∀ x0, Statement (.timerTick x0) := fun _ => rfl
theorem timerCmpWrite : ∀ x0 x1 x2, Statement (.timerCmpWrite x0 x1 x2) := fun _ _ _ => rfl
theorem timerCompareEnable : ∀ x0 x1 x2, Statement (.timerCompareEnable x0 x1 x2) := fun _ _ _ => rfl
theorem captureRise : ∀ x0, Statement (.captureRise x0) := fun _ => rfl
theorem captureFall : ∀ x0, Statement (.captureFall x0) := fun _ => rfl
theorem captureRead : ∀ x0 x1, Statement (.captureRead x0 x1) := fun _ _ => rfl
theorem chainPortUp : ∀ x0, Statement (.chainPortUp x0) := fun _ => rfl
theorem chainPortDown : ∀ x0, Statement (.chainPortDown x0) := fun _ => rfl
theorem chainPacket : ∀ x0 x1, Statement (.chainPacket x0 x1) := fun _ _ => rfl
theorem enumStart : Statement (.enumStart) := rfl
theorem enum : Statement (.enum) := rfl
theorem ident : Statement (.ident) := rfl
theorem read : Statement (.read) := rfl
theorem write : Statement (.write) := rfl
theorem telem : Statement (.telem) := rfl
theorem telemetrySample : ∀ x0, Statement (.telemetrySample x0) := fun _ => rfl
theorem fopen : Statement (.fopen) := rfl
theorem fdata : Statement (.fdata) := rfl
theorem fclose : Statement (.fclose) := rfl
theorem logread : Statement (.logread) := rfl
theorem power : Statement (.power) := rfl
theorem powerTransitionComplete : Statement (.powerTransitionComplete) := rfl
theorem reboot : Statement (.reboot) := rfl
theorem challenge : Statement (.challenge) := rfl
theorem attest : Statement (.attest) := rfl
theorem idpub : Statement (.idpub) := rfl
theorem certread : Statement (.certread) := rfl
theorem certstore : Statement (.certstore) := rfl
theorem lread : Statement (.lread) := rfl
theorem lclose : Statement (.lclose) := rfl
theorem fwopen : Statement (.fwopen) := rfl
theorem openDebug : Statement (.openDebug) := rfl
theorem returnAction : ∀ x0, Statement (.returnAction x0) := fun _ => rfl
theorem lathSvn : ∀ x0, Statement (.lathSvn x0) := fun _ => rfl
theorem fwSvn : ∀ x0, Statement (.fwSvn x0) := fun _ => rfl
theorem revoke : ∀ x0, Statement (.revoke x0) := fun _ => rfl
theorem cert : Statement (.cert) := rfl
theorem scrap : ∀ x0, Statement (.scrap x0) := fun _ => rfl
theorem addkey : ∀ x0, Statement (.addkey x0) := fun _ => rfl
theorem toBlank : ∀ x0, Statement (.toBlank x0) := fun _ => rfl
theorem provision : ∀ x0, Statement (.provision x0) := fun _ => rfl
theorem reblank : ∀ x0, Statement (.reblank x0) := fun _ => rfl
theorem erasureComplete : Statement (.erasureComplete) := rfl
theorem turnOn : ∀ x0, Statement (.turnOn x0) := fun _ => rfl
theorem smcBoot : Statement (.smcBoot) := rfl
theorem standbyToIdle : ∀ x0, Statement (.standbyToIdle x0) := fun _ => rfl
theorem retentionTimeout : ∀ x0, Statement (.retentionTimeout x0) := fun _ => rfl
theorem thermalTrip : ∀ x0 x1 x2, Statement (.thermalTrip x0 x1 x2) := fun _ _ _ => rfl
theorem mrst : Statement (.mrst) := rfl
theorem pfail : ∀ x0, Statement (.pfail x0) := fun _ => rfl
theorem pfailDrainComplete : Statement (.pfailDrainComplete) := rfl
theorem pfailRecovery : Statement (.pfailRecovery) := rfl
theorem fullSiteTest : ∀ x0, Statement (.fullSiteTest x0) := fun _ => rfl
theorem siteTestDone : ∀ x0 x1, Statement (.siteTestDone x0 x1) := fun _ _ => rfl
theorem laneRotation : ∀ x0, Statement (.laneRotation x0) := fun _ => rfl
theorem slotTestDone : ∀ x0 x1 x2, Statement (.slotTestDone x0 x1 x2) := fun _ _ _ => rfl
theorem sramBorrow : ∀ x0, Statement (.sramBorrow x0) := fun _ => rfl
theorem borrowTestDone : ∀ x0 x1, Statement (.borrowTestDone x0 x1) := fun _ _ => rfl
theorem controlStoreCompare : ∀ x0 x1, Statement (.controlStoreCompare x0 x1) := fun _ _ => rfl
theorem memoryScrub : ∀ x0, Statement (.memoryScrub x0) := fun _ => rfl
theorem windowScrub : ∀ x0, Statement (.windowScrub x0) := fun _ => rfl
theorem deepStoreBankTest : ∀ x0, Statement (.deepStoreBankTest x0) := fun _ => rfl
theorem bankTestDone : ∀ x0 x1, Statement (.bankTestDone x0 x1) := fun _ _ => rfl
theorem sweepProgress : Statement (.sweepProgress) := rfl
theorem sweepCycleEnd : Statement (.sweepCycleEnd) := rfl
theorem laneSwap : ∀ x0 x1, Statement (.laneSwap x0 x1) := fun _ _ => rfl
theorem laneSwapExecute : ∀ x0, Statement (.laneSwapExecute x0) := fun _ => rfl
theorem laneSwapAbandon : ∀ x0, Statement (.laneSwapAbandon x0) := fun _ => rfl
theorem ridgeMove : ∀ x0 x1, Statement (.ridgeMove x0 x1) := fun _ _ => rfl
theorem ridgeMoveComplete : ∀ x0 x1 x2, Statement (.ridgeMoveComplete x0 x1 x2) := fun _ _ _ => rfl
theorem recordCommit : Statement (.recordCommit) := rfl
theorem compactionComplete : Statement (.compactionComplete) := rfl
theorem cairnAppend : ∀ x0 x1, Statement (.cairnAppend x0 x1) := fun _ _ => rfl
theorem txrange : ∀ x0 x1, Statement (.txrange x0 x1) := fun _ _ => rfl
theorem bunchClockAbsent : ∀ x0, Statement (.bunchClockAbsent x0) := fun _ => rfl
theorem scaffoldSlotTest : ∀ x0 x1, Statement (.scaffoldSlotTest x0 x1) := fun _ _ => rfl
theorem scaffoldBankTest : ∀ x0 x1, Statement (.scaffoldBankTest x0 x1) := fun _ _ => rfl

end Sys2Proof.Laws.WordIffThread
end

