-- ==== Sys2Proof/Laws/Registers.lean ====
section
/-!
SUPPORT. Configuration registers and bytes after a write: what each update of a stored field does to every field, and what
stored bytes read as.
-/

namespace Sys2Proof.Machine

variable (s : State)

/-! ### Registers -/

/-- Keys of 16-bit offsets tell registers apart. -/
theorem regKey_inj (b o b' o' : Nat) (h : o < 65536) (h' : o' < 65536) : regKey b o = regKey b' o' ↔ b = b' ∧ o = o' := by
  simp only [regKey]
  omega

/-- A stored register is a 64-bit value. -/
theorem State.reg_lt (blk off : Nat) : s.reg blk off < 2 ^ 64 := BitVec.isLt _

/-- A field set reads what was set; it keeps the field's width. -/
theorem State.setFieldOf_fieldOf (blk off lo w x : Nat) (h : lo + w ≤ 64) :
    (s.setFieldOf blk off lo w x).fieldOf blk off lo w = x % 2 ^ w := by
  simp only [State.fieldOf, State.setFieldOf, State.reg_setReg]
  have := field_ofNat64 (setField (s.reg blk off) lo w x) lo w h
  rw [BitVec.toNat_ofNat] at this
  rw [this, field_setField]

/-- A disjoint field of the same register stays. -/
theorem State.setFieldOf_fieldOf_disjoint (blk off lo w x lo' w' : Nat) (h : lo' + w' ≤ 64) (hd : lo' + w' ≤ lo ∨ lo + w ≤ lo') :
    (s.setFieldOf blk off lo w x).fieldOf blk off lo' w' = s.fieldOf blk off lo' w' := by
  simp only [State.fieldOf, State.setFieldOf, State.reg_setReg]
  have := field_ofNat64 (setField (s.reg blk off) lo w x) lo' w' h
  rw [BitVec.toNat_ofNat] at this
  rw [this, field_setField_disjoint _ _ _ _ _ _ hd]

/-- Every other register stays. -/
theorem State.setFieldOf_reg_ne (blk off lo w x b o : Nat) (h : regKey b o ≠ regKey blk off) :
    (s.setFieldOf blk off lo w x).reg b o = s.reg b o := State.reg_setReg_ne s blk off _ b o h

theorem State.setFlagOf_reg_ne (blk off bit : Nat) (x : Bool) (b o : Nat) (h : regKey b o ≠ regKey blk off) :
    (s.setFlagOf blk off bit x).reg b o = s.reg b o := State.setFieldOf_reg_ne s blk off bit 1 _ b o h

theorem State.countOf_reg_ne (blk off lo w n b o : Nat) (h : regKey b o ≠ regKey blk off) :
    (s.countOf blk off lo w n).reg b o = s.reg b o := State.setFieldOf_reg_ne s blk off lo w _ b o h

theorem State.cfgerr_reg_ne (blk b o : Nat) (h : regKey b o ≠ regKey blk 8) : (s.cfgerr blk).reg b o = s.reg b o :=
  State.setFlagOf_reg_ne s blk 8 0 true b o h

/-- A one-bit field set reads what was set. -/
theorem State.setFlagOf_flagOf (blk off bit : Nat) (x : Bool) (h : bit < 64) :
    (s.setFlagOf blk off bit x).flagOf blk off bit = x := by
  have h1 := State.setFieldOf_fieldOf s blk off bit 1 (b2n x) (by omega)
  simp only [State.fieldOf] at h1
  rw [State.flagOf, bitOf_eq_field, State.setFlagOf, h1]
  cases x <;> rfl

/-- Another bit of the register stays. -/
theorem State.setFlagOf_flagOf_ne (blk off bit k : Nat) (x : Bool) (h : k < 64) (hne : k ≠ bit) :
    (s.setFlagOf blk off bit x).flagOf blk off k = s.flagOf blk off k := by
  have h1 := State.setFieldOf_fieldOf_disjoint s blk off bit 1 (b2n x) k 1 (by omega) (by omega)
  simp only [State.fieldOf] at h1
  rw [State.flagOf, bitOf_eq_field, State.setFlagOf, h1, ← bitOf_eq_field, State.flagOf]

/-- R14: CFGERR reads one once it is set. -/
theorem State.cfgerr_flagOf (blk : Nat) : (s.cfgerr blk).flagOf blk 8 0 = true := State.setFlagOf_flagOf s blk 8 0 true (by omega)

/-- A counter counts and stops at its maximum. -/
theorem State.countOf_fieldOf (blk off lo w n : Nat) (h : lo + w ≤ 64) :
    (s.countOf blk off lo w n).fieldOf blk off lo w = satAdd w (s.fieldOf blk off lo w) n := by
  rw [State.countOf, State.setFieldOf_fieldOf s blk off lo w _ h]
  apply Nat.mod_eq_of_lt
  have : 0 < 2 ^ w := Nat.two_pow_pos w
  unfold satAdd
  split <;> omega

/-! ### Bytes -/

/-- Bytes stored read as stored, and every other byte as before. -/
theorem Sram.get_setBytes (bs : List Byte) (m : Sram) (a b : Nat) :
    Sparse.get (sramDefault b) (m.setBytes a bs).mem b
      = if a ≤ b ∧ b < a + bs.length then nth 0 bs (b - a) else Sparse.get (sramDefault b) m.mem b := by
  induction bs generalizing m a with
  | nil =>
    rw [if_neg (by simp only [List.length_nil]; omega)]
    rfl
  | cons v rest ih =>
    rw [Sram.setBytes, ih, Sram.get_setByte]
    by_cases h : b = a
    · subst h
      rw [if_neg (by omega), if_pos rfl, if_pos (by simp), Nat.sub_self]
      rfl
    · by_cases h1 : a + 1 ≤ b ∧ b < a + 1 + rest.length
      · rw [if_pos h1, if_pos (by simp only [List.length_cons]; omega)]
        obtain ⟨k, hk⟩ : ∃ k, b - a = k + 1 := ⟨b - a - 1, by omega⟩
        rw [hk, show b - (a + 1) = k by omega]
        rfl
      · rw [if_neg h1, if_neg h, if_neg (by simp only [List.length_cons]; omega)]

/-- A word stored reads as stored, and every other byte as before. -/
theorem State.sramByte_storeWord (w b : Nat) (bs : List Byte) :
    (s.storeWord w bs).sramByte b = if w ≤ b ∧ b < w + bs.length then nth 0 bs (b - w) else s.sramByte b :=
  Sram.get_setBytes bs s.sram w b

/-- A stored word is undisturbed, and every other word is as before. -/
theorem State.flip_storeWord (w v : Nat) (bs : List Byte) : (s.storeWord w bs).flip v = if v = w then 0 else s.flip v :=
  Sparse.get_erase 0 s.sram.flips w v

/-- A word found clean is read as stored. -/
theorem State.wordClass_clean (w : Nat) (h : s.flip w = 0) : s.wordClass w = .clean := by
  rw [State.wordClass, h]
  decide

end Sys2Proof.Machine
end

