-- ==== Sys2Proof/Tests/Slice0.lean ====
section
/-!
SUPPORT. Tests: terms that the well-formedness check refuses, instruction words written out from the spec's tables, single
steps on small states, and a state and operands that meet the hypotheses of each statement.
-/

set_option maxRecDepth 20000

namespace Sys2Proof.Tests

open Sys2Proof Sys2Proof.Machine

/-! ### Small states -/

/-- The device in RUN, everything else as at reset. -/
def run : State := { State.reset with power := { State.reset.power with st := .run } }

/-- In RUN, thread `t` as given. -/
def withThread (t : ThreadId) (x : Thread) : State := run.setThread t x

/-- A running thread at PC `pc`. -/
def running (pc : Addr) : Thread := { Thread.reset with st := .running, pc := pc }

/-- The first thread of the SMC runs. -/
def smc : State := withThread 256 (running 0)

/-- The first thread of ridge 0 runs at the start of its ledge. -/
def core : State := withThread 0 (running 0x008000000000)

/-- A thread that may issue `i`. -/
def issues (s : State) (t : ThreadId) (i : Instr) : Bool :=
  (s.thread t).canIssue && s.fetchFault t == none && legalAt t (s.thread t).slot i

theorem issues_of {s : State} {t : ThreadId} {i : Instr} (h : issues s t i = true) : s.Issues t i := by
  simp only [issues, Bool.and_eq_true, beq_iff_eq] at h
  exact ⟨h.1.1, h.1.2, h.2⟩

theorem issues_all {s : State} {t : ThreadId} {is : List Instr} (h : is.all (issues s t) = true) : ∀ i ∈ is, s.Issues t i :=
  fun i hi => issues_of (List.all_eq_true.1 h i hi)

/-- No trap is enabled at reset. -/
theorem noTrap_smc (f : Flags) : smc.NoTrap 256 f := by
  show traps 5 f = false
  revert f
  decide

/-! ### Well-formedness refuses -/

theorem test_wellFormed_divr_odd : wellFormed (.divr 0 0 false false 3 1 2) = false := by decide
theorem test_wellFormed_float_width :
    [Instr.fadd 0 3 1 2 3, .fsub 0 3 1 2 3, .fmul 0 3 1 2 3, .fdiv 0 3 1 2 3, .fsqrt 0 3 1 2, .fmin 0 3 1 2 3, .fmax 0 3 1 2 3,
      .fminm 0 3 1 2 3, .fmaxm 0 3 1 2 3, .fabs 0 3 1 2, .fneg 0 3 1 2, .fcsgn 0 3 1 2 3, .frint 0 3 1 2, .fcmpeq 0 3 1 2 3,
      .fcmplt 0 3 1 2 3, .fcmple 0 3 1 2 3, .cvtff 0 3 0 1 2, .cvtff 0 0 3 1 2, .cvtff 0 1 1 1 2, .cvtfi 0 3 0 false 1 2,
      .cvtif 0 3 0 false 1 2, .fma 0 3 1 2 3 4, .fms 0 3 1 2 3 4, .fnma 0 3 1 2 3 4, .fnms 0 3 1 2 3 4].all
      (fun i => !wellFormed i) = true := by decide
theorem test_wellFormed_sizes :
    [Instr.ld 0 1 0 5 0, .ld 0 8 0 4 0, .lds 0 1 0 3 0, .st 0 1 0 5 0, .st 0 8 0 4 0].all (fun i => !wellFormed i) = true := by decide
theorem test_wellFormed_system_registers : wellFormed (.mfs 0 1 9) = false ∧ wellFormed (.mts 0 1 8) = false := by decide
theorem test_wellFormed_illegal_word : wellFormed (.illegalInstruction 0 0xC0000000) = false := by decide
theorem test_wellFormed_empty_accesses :
    [Instr.ledgeAccess (.core 0) 0 (.read 0) 0, .mailboxDataAccess (.core 0) 0 (.write []) 0,
      .matrixRequestEntry (.core 0) 0 0 0 (.read 0), .aliasOperation (.core 0) 0 [], .channelTableWrite (.core 0) 0 [],
      .rowRepair (.mailbox 0) 4096, .borrowTestDone false 4096].all (fun i => !wellFormed i) = true := by decide

/-! ### Instruction words, bit by bit from R306 and R310 to R334 -/

theorem test_decode_integer : decode 0 0b000001_00001_00010_00011_01100_000001 = some (.sub 0 1 true false 1 2 3) := by decide
theorem test_decode_long_integer : decode 0 0b000010_00011_00010_00001_01010_010001 = some (.xmac 0 1 true 3 2 1) := by decide
theorem test_decode_float : decode 0 0b000011_11111_00010_00011_10000_000000 = some (.fadd 0 2 31 2 3) := by decide
theorem test_decode_fused : decode 0 0b000100_00001_00010_00011_00100_000101 = some (.fms 0 1 1 2 3 4) := by decide
theorem test_decode_decimal : decode 0 0b000101_00001_00010_00011_00000_000001 = some (.bcdsub 0 1 2 3) := by decide
theorem test_decode_address : decode 0 0b000110_01111_00010_00000_00000_000000 = some (.movad 0 15 2) := by decide
theorem test_decode_immediate : decode 0 0b001000_00001_00010_01_00000000000001 = some (.andi 0 1 2 1) := by decide
theorem test_decode_shift : decode 0 0b001001_00001_00010_10_00000000111111 = some (.srai 0 1 2 63) := by decide
theorem test_decode_load : decode 0 0b010000_00001_1111_011_11111111111111 = some (.ld 0 1 15 3 0x3FFF) := by decide
theorem test_decode_branch : decode 0 0b011000_00001_111111111111111111111 = some (.beqz 0 1 0x1FFFFF) := by decide
theorem test_decode_system : decode 0 0b110000_00001_00000_01100000_00001000 = some (.wfe 0 1 3) := by decide
theorem test_decode_a_register_above_15 : decode 0 0b000110_10000_00010_00000_00000_000000 = none := by decide

/-! ### Single steps -/

/-- Thread 256 with D1 = `a` and D2 = `b`. -/
def smcD (a b : Word) : State := withThread 256 { running 0 with r := { CoreRegs.reset with d := (CoreRegs.reset.d.set 1 a).set 2 b } }

/-- D3 of thread 256 after a command. -/
def d3After (i : Instr) (s : State) : Option Word :=
  match exec i s with
  | .next s' => some ((s'.thread 256).d 3)
  | _ => none

/-- TS.FLG of thread 256 after a command. -/
def flgAfter (i : Instr) (s : State) : Option Flags :=
  match exec i s with
  | .next s' => some (tsFlg (s'.thread 256).r.ts)
  | _ => none

/-- R139: 0x7F + 1 saturates at 8 bits and raises Q. -/
theorem test_add_saturates :
    d3After (.add 256 3 true false 3 1 2) (smcD 0x7F 1) = some 0x7F ∧ flgAfter (.add 256 3 true false 3 1 2) (smcD 0x7F 1) = some flagQ := by
  decide

/-- It wraps without SAT, and is extended by its sign. -/
theorem test_add_wraps : d3After (.add 256 3 false false 3 1 2) (smcD 0x7F 1) = some 0xFFFFFFFFFFFFFF80 := by decide

/-- R312: all 64 bits of the second source count for SHL modulo W. -/
theorem test_shl_modulo : d3After (.shl 256 1 false true 3 1 2) (smcD 1 0x100000021) = some 2 := by decide

/-- R312: CLZ of zero is W. -/
theorem test_clz_zero : d3After (.clz 256 2 true 3 1) (smcD 0xFFFF0000 0) = some 16 := by decide

/-- R321: LI sign-extends. -/
theorem test_li_sign : d3After (.li 256 3 0x3FFF) smc = some 0xFFFFFFFFFFFFFFFF := by decide


/-! ### Hypotheses of the statements about instructions are met -/

theorem witness_DecodeOfEncodeIsInstruction :
    wellFormed (.wfe 263 31 7) = true ∧ ofThread (.wfe 263 31 7) = some 263 ∧ encode (.wfe 263 31 7) = some 0xC3E0E008 := by decide

theorem witness_EncodeOfDecodeIsWord : decode 0 0xC0000000 = some (.nop 0) := by decide

theorem witness_IntegerArithmeticReducesExactResult :
    (∀ i ∈ [Instr.add 256 3 true true 31 0 31, .sub 256 0 false false 0 31 0, .neg 256 3 true 1 2, .abs 256 3 true 1 2,
      .shl 256 2 true true 1 2 3, .mul 256 0 true false 1 2 3], smc.Issues 256 i) ∧ ∀ f, smc.NoTrap 256 f :=
  ⟨issues_all (by decide), noTrap_smc⟩

theorem witness_LogicSelectionAndComparisons :
    ∀ i ∈ [Instr.and 256 0 true 1 2 3, .or 256 3 false 1 2 3, .xor 256 0 true 1 2 3, .andn 256 0 true 1 2 3, .not 256 3 false 1 2,
      .mov 256 1 true 1 2, .selnz 256 0 true 1 2 3, .min 256 3 true 1 2 3, .max 256 0 false 1 2 3, .cmpeq 256 0 1 2 3,
      .cmplt 256 3 true 1 2 3, .cmple 256 0 false 1 2 3, .popc 256 0 true 1 2, .clz 256 3 false 1 2], smc.Issues 256 i :=
  issues_all (by decide)

theorem witness_ShiftsRotatesAndHighProduct :
    ∀ i ∈ [Instr.shr 256 0 true 1 2 3, .sra 256 3 false 1 2 3, .rotl 256 0 true 1 2 3, .mulh 256 0 true 1 2 3], smc.Issues 256 i :=
  issues_all (by decide)

theorem witness_LongOperationsStartRoutines :
    ∀ i ∈ [Instr.div 256 0 true true 1 2 3, .divr 256 3 false false 30 2 3, .fdiv 256 2 1 2 3, .fsqrt 256 0 1 2, .bcdadd 256 1 2 3,
      .bcdsub 256 1 2 3], smc.Issues 256 i :=
  issues_all (by decide)

theorem witness_AccumulatorsAddProducts :
    (∀ i ∈ [Instr.xmul 256 0 true 3 2 3, .xmac 256 3 false 0 2 3, .xmsu 256 0 true 1 2 3, .xmov 256 1 3 127 0 true false],
      smc.Issues 256 i) ∧ ∀ f, smc.NoTrap 256 f :=
  ⟨issues_all (by decide), noTrap_smc⟩

theorem witness_FloatArithmeticRoundsUnderTs :
    (∀ i ∈ [Instr.fadd 256 0 1 2 3, .fsub 256 2 1 2 3, .fmul 256 1 1 2 3, .fma 256 2 1 2 3 4, .fms 256 0 1 2 3 4, .fnma 256 1 1 2 3 4,
      .fnms 256 2 1 2 3 4, .frint 256 0 1 2], smc.Issues 256 i) ∧ ∀ f, smc.NoTrap 256 f :=
  ⟨issues_all (by decide), noTrap_smc⟩

theorem witness_FloatSignAndSelect :
    (∀ i ∈ [Instr.fabs 256 0 1 2, .fneg 256 2 1 2, .fcsgn 256 1 1 2 3, .fmin 256 2 1 2 3, .fmax 256 0 1 2 3, .fminm 256 1 1 2 3,
      .fmaxm 256 2 1 2 3], smc.Issues 256 i) ∧ ∀ f, smc.NoTrap 256 f :=
  ⟨issues_all (by decide), noTrap_smc⟩

theorem witness_FloatComparisonsAndConversions :
    (∀ i ∈ [Instr.fcmpeq 256 0 1 2 3, .fcmplt 256 2 1 2 3, .fcmple 256 1 1 2 3, .cvtff 256 2 0 1 2, .cvtfi 256 2 3 true 1 2,
      .cvtif 256 0 0 false 1 2], smc.Issues 256 i) ∧ ∀ f, smc.NoTrap 256 f :=
  ⟨issues_all (by decide), noTrap_smc⟩

theorem witness_AddressRegistersAndImmediates :
    ∀ i ∈ [Instr.movad 256 15 2, .adda 256 15 0 0x2000, .suba 256 0 15 0x1FFF, .movda 256 31 15, .cmpaeq 256 1 2 3, .cmpaltu 256 1 2 3,
      .addi 256 1 2 0x2000, .andi 256 1 2 0x3FFF, .ori 256 1 2 0x3FFF, .li 256 1 0x1FFF, .shli 256 1 2 63, .shri 256 1 2 63,
      .srai 256 1 2 63, .rotli 256 1 2 0, .cmpeqi 256 1 2 0x2000, .cmplti 256 1 2 0, .cmpltui 256 1 2 0x2000], smc.Issues 256 i :=
  issues_all (by decide)

theorem witness_BranchesLeaveDelaySlot :
    ∀ i ∈ [Instr.beqz 256 1 0x1FFFFF, .bnez 256 1 0, .bltz 256 1 1, .bgez 256 1 1, .bra 256 0x100000, .bal 256 31 0xFFFFF, .ja 256 15,
      .jal 256 31 15], smc.Issues 256 i :=
  issues_all (by decide)

/-- Thread 0 in ring `ring` with GM as given and D1 = `v`, for MTS and MFS; its window 0 grants every ring. -/
def coreRing (ring : Nat) (gm : Bool) (v : Word) : State :=
  (withThread 0 { running 0x008000000000 with r := { CoreRegs.reset with
    ts := BitVec.ofNat 64 (ring + 4 * b2n gm)
    d := CoreRegs.reset.d.set 1 v } }).setReg (rgBlk 0) 0x1800 0x80DB000000000000

/-- GM is bit 2 of TS (R288). -/
theorem witness_SystemRegistersMoveUnderGuard :
    (∀ i ∈ [Instr.nop 256, .mfs 256 31 0, .mfs 256 31 8, .mts 256 1 0, .mts 256 1 7], smc.Issues 256 i)
    ∧ (∀ i ∈ [Instr.mfs 0 1 7, .mts 0 1 1, .mts 0 1 0], (coreRing 2 false 3).Issues 0 i)
    ∧ (tsReserved 0 = false ∧ tsRmReserved 0 = false ∧ tsRing (5 : Word) ≤ tsRing 1)
    ∧ (tsGM ((coreRing 2 false 3).thread 0).r.ts = false ∧ ((coreRing 2 false 3).thread 0).slot = none
      ∧ mtsRing 1 < 2 ∧ 2 ≤ tsRing ((coreRing 2 false 3).thread 0).r.ts)
    ∧ (tsReserved ((coreRing 2 false (2 ^ 63)).thread 0 |>.d 1) = true ∧ (coreRing 2 false (2 ^ 63)).Issues 0 (.mts 0 1 0))
    ∧ (tsReserved (1 : Word) = false ∧ tsRmReserved (1 : Word) = false ∧ tsRing (1 : Word) < 2 ∧ (coreRing 2 false 1).Issues 0 (.mts 0 1 0))
    ∧ (tsReserved (7 : Word) = false ∧ tsRmReserved (7 : Word) = false ∧ 2 ≤ tsRing (7 : Word) ∧ tsGM (7 : Word) ≠ false
      ∧ (coreRing 2 false 7).Issues 0 (.mts 0 1 0)) :=
  ⟨issues_all (by decide), issues_all (by decide), by unfold State.Issues; decide⟩


/-! ### Hypotheses of the statements about memory, waiting and exceptions are met -/

/-- The first thread of ridge 0 with A0 = `a` as a base. -/
def coreAt (a : Addr) : State :=
  withThread 0 { running 0x008000000000 with r := { CoreRegs.reset with aBase := CoreRegs.reset.aBase.set 0 a } }

theorem witness_OwnLedgeLoadsReturnBytes :
    (coreAt 0x0080001FFFE0).Issues 0 (.ld 0 1 0 4 0) ∧ (coreAt 0x0080001FFFE0).dataFault 0 .read 0x0080001FFFE0 32 = none
      ∧ (coreAt 0x0080001FFFE0).accClass 0 0x0080001FFFE0 32 = .own
      ∧ ((coreAt 0x0080001FFFE0).thread 0).stores = [] ∧ (∀ w ∈ wordsOf 0x0080001FFFE0 32, (coreAt 0x0080001FFFE0).flip w = 0)
      ∧ (coreAt 0x008000000001).Issues 0 (.lds 0 1 0 2 0) ∧ (coreAt 0x008000000001).dataFault 0 .read 0x008000000001 4 = none
      ∧ (coreAt 0x008000000001).accClass 0 0x008000000001 4 = .own := by
  unfold State.Issues
  decide

/-- The mailbox lies at a fixed distance of 2, or 3 when split (R295). -/
theorem witness_FixedDistanceLoadsReserve :
    let s := coreAt (BitVec.ofNat 48 mbxBase)
    let other := s.register 8 (.mailbox 0)
    let lately := s.noteGranted (.mailbox 0) 8
    s.Issues 0 (.ld 0 1 0 3 0) ∧ s.dataFault 0 .read mbxBase 8 = none ∧ s.accClass 0 mbxBase 8 = .fixed (.mailbox 0) 2
      ∧ s.orderHeld 0 mbxBase = false ∧ s.sheeted (.core 0) = false ∧ ArbPoint.mailbox 0 ∉ s.matrix.granted
      ∧ (∀ r ∈ s.matrix.requests, r.2 ≠ .mailbox 0)
      ∧ other.Issues 0 (.ld 0 1 0 3 0) ∧ (∃ r ∈ other.matrix.requests, r.2 = .mailbox 0) ∧ other.orderHeld 0 mbxBase = false
      ∧ lately.Issues 0 (.ld 0 1 0 3 0) ∧ .mailbox 0 ∈ lately.matrix.granted ∧ lately.orderHeld 0 mbxBase = false := by
  unfold State.Issues
  decide

/-- A transaction of one piece of master `m` for `acc` at `a`. -/
def txn (m : Master) (a : Addr) (acc : Access) : Txn := ⟨m, requestId m 0, 0, a, acc, false, none, 0, a, none, none⟩

/-- A transaction of thread 0 to the deep store is under way, so an access to the mailbox is held (R278). -/
theorem witness_FixedDistanceLoadsHold :
    let s := coreAt (BitVec.ofNat 48 mbxBase)
    let busy : State := { s with matrix := { s.matrix with flight := [txn (.core 0) 0 (.write [0])] } }
    busy.Issues 0 (.ld 0 1 0 3 0) ∧ busy.dataFault 0 .read mbxBase 8 = none ∧ busy.accClass 0 mbxBase 8 = .fixed (.mailbox 0) 2
      ∧ busy.orderHeld 0 mbxBase = true := by
  unfold State.Issues
  decide

/-- A store entry of one byte at the ledge of ridge 0. -/
def oneStore : StoreEntry := ⟨0x008000000100, [0xAB]⟩

/-- Thread 0 is parked on a load of a byte of ridge 1's ledge, as far as `got` has come back. -/
def loading (got : List (Nat × Byte)) : State :=
  withThread 0 { running 0x008000000000 with st := .parked, park := some (.load 0x008000400000 true 1 0 [] got) }

theorem witness_MatrixLoadsParkUntilData :
    let s := coreAt 0x100
    let bell := BitVec.ofNat 48 (mbxBase + 0x41000)
    let late := (coreAt bell).bufferStore 0 0x008000000100 [1]
    let back := loading [(0x008000400000, 7)]
    let x := txn (.core 0) 0x008000400000 (.read 1)
    let sent : State := { loading [] with matrix := { (loading []).matrix with flight := [x] } }
    s.Issues 0 (.ld 0 1 0 3 0) ∧ s.dataFault 0 .read 0x100 8 = none ∧ s.accClass 0 0x100 8 = .parks ∧ s.waitsForStores 0 0x100 = false
      ∧ late.Issues 0 (.ld 0 1 0 3 0) ∧ late.waitsForStores 0 bell.toNat = true
      ∧ (back.thread 0).st = .parked ∧ (back.thread 0).park = some (.load 0x008000400000 true 1 0 [] [(0x008000400000, 7)])
      ∧ back.sheeted (.core 0) = false ∧ back.matrix.waiting = [] ∧ back.loadPieces 0 = [] ∧ [(7 : Byte)].length = szBytes 0
      ∧ (∀ k, k < 1 → ([((0x008000400000 : Nat), (7 : Byte))].find? fun c => c.1 == 0x008000400000 + k)
        = some (0x008000400000 + k, nth 0 [7] k))
      ∧ sent.matrix.flight = [x] ∧ x.m = .core 0 ∧ x.acc = .read 1 ∧ x.covered = false ∧ x.aux = none
      ∧ sent.region 0x008000400000 = .ledge 1 0 ∧ sent.sheeted (.core 0) = false ∧ ∀ w ∈ wordsOf 0x008000400000 1, sent.flip w = 0 := by
  unfold State.Issues
  decide

theorem witness_StoresEnterTheBuffer :
    let s := coreAt 0x008000000100
    let full := withThread 0 { (s.thread 0) with stores := List.replicate 4 oneStore }
    let bell := mbxBase + 0x41000
    let box := coreAt (BitVec.ofNat 48 mbxBase)
    s.Issues 0 (.st 0 1 0 0 0) ∧ s.dataFault 0 .write 0x008000000100 1 = none ∧ s.accClass 0 0x008000000100 1 = .own
      ∧ s.storeSlots 0 < 4 ∧ full.Issues 0 (.st 0 1 0 0 0) ∧ 4 ≤ full.storeSlots 0
      ∧ box.Issues 0 (.st 0 1 0 0 0) ∧ box.dataFault 0 .write mbxBase 1 = none ∧ box.accClass 0 mbxBase 1 = .fixed (.mailbox 0) 2
      ∧ box.storeSlots 0 < 4 ∧ box.orderHeld 0 mbxBase = false ∧ box.sheeted (.core 0) = false
      ∧ ArbPoint.mailbox 0 ∉ box.matrix.granted ∧ (∀ r ∈ box.matrix.requests, r.2 ≠ .mailbox 0)
      ∧ s.Issues 0 (.sev 0 0 255) ∧ ((s.thread 0).d 0).toNat ≤ 0x100 ∧ s.dataFault 0 .write bell 8 = none
      ∧ s.accClass 0 bell 8 = .fixed .special 2 ∧ s.orderHeld 0 bell = false ∧ s.sheeted (.core 0) = false
      ∧ ArbPoint.special ∉ s.matrix.granted ∧ s.matrix.requests = []
      ∧ smc.Issues 256 (.sev 256 0 0) ∧ smc.dataFault 256 .write bell 8 = none ∧ smc.accClass 256 bell 8 = .parks := by
  unfold State.Issues
  decide

theorem witness_ReleasedStoreWritesItsBytesOnly :
    let s := withThread 0 { running 0x008000000000 with stores := [oneStore] }
    (s.thread 0).stores = [oneStore] ∧ s.accClass 0 0x008000000100 1 = .own ∧ s.region 0x008000000100 = .ledge 0 0x100
      ∧ 0x008000000100 + 1 ≤ scaffoldBase ∧ (∀ w ∈ wordsOf 0x008000000100 1, s.flip w = 0) := by decide

/-- The threads of `withThread`: the one given, and all others as at reset. -/
theorem withThread_held (t u : ThreadId) (x : Thread) (h : HeldAccess) (hu : ((withThread t x).thread u).held = some h) : u = t := by
  by_cases e : u = t
  · exact e
  · rw [withThread, thread_setThread_ne _ _ _ _ e] at hu
    simp [run, State.thread, State.reset, Thread.reset] at hu

/-- Nothing is registered anew while every thread that holds an access has a request. -/
theorem registerHeld_same (s : State) (pt : ArbPoint)
    (h : ∀ t x, (s.thread t).held = some x → (s.matrix.requests.any fun r => r.1 == t) = true) : s.registerHeld pt = s := by
  refine foldl_keeps (fun x => x = s) _ _ _ rfl fun b t _ hb => ?_
  subst hb
  dsimp only
  split
  · rename_i x hx
    simp [h t x hx]
  · rfl

theorem witness_GrantIssuesTheWaitingInstruction :
    let h : HeldAccess := ⟨.ld 0 1 0 3 0, .mailbox 0⟩
    let s := (withThread 0 { ((coreAt (BitVec.ofNat 48 mbxBase)).thread 0) with held := some h }).register 0 (.mailbox 0)
    s.registerHeld (.mailbox 0) = s ∧ s.nextReservation (.mailbox 0) = some 0 ∧ (s.thread 0).held = some h
      ∧ run.registerHeld (.mailbox 0) = run ∧ run.nextReservation (.mailbox 0) = none := by
  refine ⟨registerHeld_same _ _ fun t x hx => ?_, by decide, by decide, registerHeld_same _ _ fun t x hx => ?_, by decide⟩
  · have := withThread_held 0 t _ x hx
    subst this
    decide
  · simp [run, State.thread, State.reset, Thread.reset] at hx

/-- Thread 0 with events and V0 all ones. -/
def waiting (p : Option Park) (st : ThreadState) (ev : BitVec 256) (d : Word) : State :=
  withThread 0 { running 0x008000000000 with
    events := ev
    st := st
    park := p
    r := { CoreRegs.reset with d := Vector.replicate 32 d } }

theorem witness_WaitsTakeTheLowestEvent :
    let s := waiting none .running (BitVec.ofNat 256 (2 ^ 255)) (BitVec.allOnes 64)
    let none_ := waiting none .running 0 1
    let now := waiting none .running 0 0
    let wfe := waiting (some (.wfe 1 (BitVec.allOnes 256))) .parked (BitVec.ofNat 256 (2 ^ 255)) 0
    let wtu (k : Word) := waiting (some (.wtu 1 k (BitVec.allOnes 256))) .parked 1 0
    s.Issues 0 (.wfe 0 1 0) ∧ (s.eventsOf 0 &&& (s.thread 0).v 0).getLsbD 255 = true
      ∧ (∀ k : Fin 255, (s.eventsOf 0 &&& (s.thread 0).v 0).getLsbD k = false)
      ∧ none_.Issues 0 (.wfe 0 1 0) ∧ none_.eventsOf 0 &&& (none_.thread 0).v 0 = 0
      ∧ now.Issues 0 (.wtu 0 1 2 0) ∧ ((now.thread 0).d 2).toNat ≤ now.bxc
      ∧ s.Issues 0 (.wtu 0 1 2 0) ∧ s.bxc < ((s.thread 0).d 2).toNat
      ∧ none_.Issues 0 (.wtu 0 1 2 0) ∧ none_.bxc < ((none_.thread 0).d 2).toNat
      ∧ (wfe.thread 0).st = .parked ∧ (wfe.thread 0).park = some (.wfe 1 (BitVec.allOnes 256))
      ∧ (wfe.eventsOf 0 &&& BitVec.allOnes 256).getLsbD 255 = true
      ∧ ((wtu 0).thread 0).park = some (.wtu 1 0 (BitVec.allOnes 256)) ∧ (0 : Word).toNat ≤ (wtu 0).bxc
      ∧ ((wtu 1).thread 0).park = some (.wtu 1 1 (BitVec.allOnes 256)) ∧ (wtu 1).bxc < (1 : Word).toNat
      ∧ ((wtu 1).eventsOf 0 &&& BitVec.allOnes 256).getLsbD 0 = true := by
  unfold State.Issues
  decide

theorem witness_FenceWaitsForStores :
    let busy := withThread 0 { running 0x008000000000 with stores := [oneStore] }
    let parked (x : List StoreEntry) := withThread 0 { running 0x008000000000 with stores := x, st := .parked, park := some .fence }
    core.Issues 0 (.fence 0) ∧ (core.thread 0).stores = [] ∧ core.matrix.waiting ++ core.matrix.flight = []
      ∧ busy.Issues 0 (.fence 0) ∧ (busy.thread 0).stores ≠ []
      ∧ ((parked []).thread 0).park = some .fence ∧ ((parked []).thread 0).stores = []
      ∧ ((parked [oneStore]).thread 0).park = some .fence ∧ ((parked [oneStore]).thread 0).stores ≠ [] := by
  unfold State.Issues
  decide

/-- Thread 0 with GM set. -/
def coreGm : State := withThread 0 { running 0x008000000000 with r := { CoreRegs.reset with ts := 5 ||| 4 } }

/-- GM is clear at TS = 1; the slot of a branch at the start of the ledge. -/
def coreTs (ts : Word) (slot : Option Slot) : State :=
  withThread 0 { running 0x008000000004 with r := { CoreRegs.reset with ts := ts }, slot := slot }

theorem witness_IllegalWordsAndFetchFaultsTrap :
    let sl : Slot := ⟨0x008000000000, 0x008000000040, none, none⟩
    let far := withThread 0 { running 0x008000400000 with r := { CoreRegs.reset with ts := 1 } }
    decode 0 0 = none ∧ (0 : BitVec 32) ≠ BitVec.allOnes 32
      ∧ ((coreTs 1 none).thread 0).canIssue = true ∧ (coreTs 1 none).fetchFault 0 = none ∧ tsGM ((coreTs 1 none).thread 0).r.ts = false
      ∧ ((coreTs 1 (some sl)).thread 0).slot = some sl ∧ (coreTs 1 (some sl)).fetchFault 0 = none
      ∧ tsGM (coreGm.thread 0).r.ts = true ∧ coreGm.fetchFault 0 = none ∧ (coreGm.thread 0).canIssue = true
      ∧ (far.thread 0).canIssue = true ∧ far.fetchFault 0 = some ⟨3, 3, 0x008000400000⟩ ∧ tsGM (far.thread 0).r.ts = false := by decide

theorem witness_IllegalInstructionTakesException :
    let sl : Slot := ⟨0x008000000000, 0x008000000040, none, none⟩
    let s := coreTs 1 none
    let lost : State := { s with sram := { s.sram with flips := [(0x008000000000, 3)] } }
    let ok (s : State) : Bool := (s.thread 0).canIssue && s.fetchFault 0 == none && !tsGM (s.thread 0).r.ts
    decode 0 0 = none ∧ decode 0 (BitVec.allOnes 32) = none ∧ ok s = true ∧ ok (coreTs 1 (some sl)) = true ∧ ok lost = true
      ∧ (s.thread 0).slot = none ∧ ((coreTs 1 (some sl)).thread 0).slot = some sl ∧ (0 : BitVec 32) ≠ BitVec.allOnes 32
      ∧ isSmcThread 0 = false ∧ lost.wordClass (0x008000000004 / 8 * 8) = .uncorrectable := by decide

theorem witness_EnabledFlagTraps :
    let s := withThread 256 { running 0 with r := { CoreRegs.reset with
      ts := BitVec.ofNat 64 (1 + 0x3F * 2 ^ 26)
      d := (CoreRegs.reset.d.set 1 0x7F).set 2 1 } }
    s.Issues 256 (.add 256 3 true false 3 1 2) ∧ reducedFlags true false 8 (0x7F + 1) = flagQ
      ∧ operand false 8 ((s.thread 256).d 1) + operand false 8 ((s.thread 256).d 2) = 0x80
      ∧ traps (s.thread 256).r.ts flagQ = true ∧ tsGM (s.thread 256).r.ts = false ∧ (s.thread 256).slot = none := by
  unfold State.Issues
  decide

theorem witness_AsyncSourcesInOrder :
    let x : Thread := { running 0x008000000000 with r := { CoreRegs.reset with ts := 1 } }
    let mc : MCheck := ⟨0x10, 0x008000000000⟩
    let a := withThread 0 { x with mchecks := [mc], warnPending := true }
    let b := withThread 0 { x with warnPending := true }
    let c := (withThread 0 { x with events := BitVec.ofNat 256 (2 ^ 255) }).setReg (rgBlk 0) 0x1558 (2 ^ 63)
    (a.thread 0).samples = true ∧ (a.thread 0).mchecks = [mc] ∧ (b.thread 0).samples = true ∧ (b.thread 0).warnPending = true
      ∧ (c.thread 0).samples = true ∧ (c.thread 0).mchecks = [] ∧ lowestEvent (c.eventsOf 0 &&& (c.enables 0 &&& ~~~(c.thread 0).awaited)) = some 255 := by decide

theorem witness_RoutineEndsWithItsResult :
    let s (k : RoutineKind) (done : Nat) := withThread 256 { running 0 with routine := some ⟨k, done, 0, 0, 0, 0⟩ }
    let r : RoutineKind := .result 1 7 0 2
    ((s r 0).thread 256).routine = some ⟨r, 0, 0, 0, 0, 0⟩ ∧ 0 + 1 < r.len ∧ ((s r 1).thread 256).routine = some ⟨r, 2 - 1, 0, 0, 0, 0⟩
      ∧ ((s (.divide 1 7 none 0 5) 4).thread 256).routine = some ⟨.divide 1 7 none 0 5, 5 - 1, 0, 0, 0, 0⟩
      ∧ ((s (.divide 30 7 (some 1) 0 5) 4).thread 256).routine = some ⟨.divide 30 7 (some 1) 0 5, 5 - 1, 0, 0, 0, 0⟩
      ∧ ((s r 0).thread 256).mchecks = [] ∧ (s r 0).smc.mchecks = [] := by decide

/-- A valid entry for ring 0 and 1 callers at offset 0x1000 of the ledge, its target at 0x40. -/
def gated : State :=
  let s := withThread 0 { running 0x008000000000 with r := { CoreRegs.reset with gtb := 0x008000001000 } }
  s.storeWord 0x008000001000 (leBytes 8 (0x008000000040 + 0 * 2 ^ 48 + 3 * 2 ^ 50 + 2 ^ 63))

theorem witness_GateCallEntersTarget :
    let e := leNat (gated.sramBytes 0x008000001000 8)
    gated.Issues 0 (.callg 0 0) ∧ (gated.thread 0).r.gtb.toNat % 8 = 0 ∧ gated.gateEntryOk 0 0x008000001000 = true
      ∧ gated.flip 0x008000001000 = 0 ∧ bitOf e 63 = true ∧ field e 52 11 = 0 ∧ tsRing (gated.thread 0).r.ts ≤ field e 50 2
      ∧ field e 48 2 ≤ tsRing (gated.thread 0).r.ts ∧ gated.gateTargetOk 0 (field e 0 48) (field e 48 2) = true
      ∧ ((withThread 0 { running 0 with routine := some ⟨.gate 0x008000000040 0, 3, 0, 0, 0, 0⟩ }).thread 0).routine
        = some ⟨.gate 0x008000000040 0, 3, 0, 0, 0, 0⟩ := by
  unfold State.Issues
  decide

theorem witness_RetxRestoresSavedState :
    let s (ts xts : Word) := withThread 256 { running 0 with r := { CoreRegs.reset with ts := ts, xts := xts } }
    (s 5 5).Issues 256 (.retx 256) ∧ retxCheck (((s 5 5).thread 256).r.flush []) = .ok
      ∧ (s 1 0).Issues 256 (.retx 256) ∧ retxCheck (((s 1 0).thread 256).r.flush []) = .privilege
      ∧ tsGM ((s 1 0).thread 256).r.ts = false
      ∧ ((withThread 256 { running 0 with routine := some ⟨.retx, 1, 0, 0, 0, 0⟩ }).thread 256).routine = some ⟨.retx, 1, 0, 0, 0, 0⟩ := by
  unfold State.Issues
  decide

/-- Ridge 0 is placed on site 0. -/
def placed (s : State) : State := { s with repair := { s.repair with siteOf := s.repair.siteOf.set 0 (some 0) } }

theorem witness_ThreadsStartResetAndAreWatched :
    let s := placed run
    let w := s.setReg (rgBlk 0) 0x1640 1
    let live (b : Bool) := (withThread 0 (running 0x008000000000)).setReg (rgBlk 0) 0x1640 (1 + b2n b * 2 ^ 33)
    s.dieOn = true ∧ (0x008000000000 : BitVec 48).toNat % 4 = 0 ∧ (s.thread (threadOf 0 0)).st = .reset ∧ s.ridgeRuns 0 = true
      ∧ (∀ m ∈ (s.ridge 0).streams, m.th = 0 → m.chid = none)
      ∧ w.dieOn = true ∧ (live false).fieldOf (rgBlk 0) 0x1640 0 32 ≠ 0 ∧ ((live false).thread (threadOf 0 0)).st = .running
      ∧ (live false).flagOf (rgBlk 0) 0x1640 33 = false ∧ (live true).flagOf (rgBlk 0) 0x1640 33 = true
      ∧ (live true).fieldOf (rgBlk 0) 0x1640 0 32 = 1 := by decide

theorem witness_DebugHaltKeepsExceptionRegisters :
    core.mayDebug 0 = true ∧ (core.thread 0).st = .running
      ∧ { core with fuses := { core.fuses with count := 1 } }.mayDebug 0 = false := by decide


/-! ### Hypotheses of the statements about memories and the matrix are met -/

theorem witness_MemoryAndAliasAccessesTouchTheirBytes :
    run.dieOn = true ∧ run.allReach (.core 0) 0x0080001FFFF8 8 inLedge = true ∧ run.allReach (.core 8) (mbxBase + 0x3FFF8) 8 inMailbox = true
      ∧ run.allReach (.core 0) (ctBase + 8 * 2097151) 8 inChannelTable = true
      ∧ (∀ w ∈ wordsOf 0x0080001FFFF8 8 ++ wordsOf (mbxBase + 0x3FFF8) 8 ++ wordsOf (ctBase + 8 * 2097151) 8, run.flip w = 0)
      ∧ 0x008000000000 < aliasSet ∧ aliasShape (0x008000000000 + aliasSet) 8 = true
      ∧ run.allReach (.core 0) (0x008000000000 + aliasSet) 8 inAlias = true ∧ aliasShape (0x008000000007 + aliasClear) 1 = true
      ∧ run.allReach (.core 0) (0x008000000007 + aliasClear) 1 inAlias = true := by decide

theorem witness_LedgeErrorsAreCorrectedOrReported :
    run.dieOn = true ∧ 0x0080001FFFF8 % 8 = 0 ∧ run.allReach (.core 0) 0x0080001FFFF8 8 inLedge = true
      ∧ run.baseRegion 0x0080001FFFF8 = .ledge 0 0x1FFFF8 ∧ run.flip 0x0080001FFFF8 = 0 ∧ ridgeOf 0 = 0 ∧ isSmcThread 0 = false
      ∧ 70 < 71 ∧ 71 < 72 := by decide

theorem witness_RetentionIsEnteredByIdleRidges :
    let s := placed run
    let busy := placed (withThread 0 (running 0x008000000000))
    let kept := s.setReg (rgBlk 0) 0x1408 1
    let waking := s.setReg (rgBlk 0) 0x1408 4
    s.inRun = true ∧ s.siteOf 0 = some 0 ∧ s.flagOf (rgBlk 0) 0x1408 0 = false ∧ s.ridgeIdle 0 = true
      ∧ busy.flagOf (rgBlk 0) 0x1408 0 = false ∧ busy.ridgeIdle 0 = false ∧ kept.flagOf (rgBlk 0) 0x1408 0 = true
      ∧ waking.flagOf (rgBlk 0) 0x1408 2 = true := by decide

theorem witness_DoorbellsAndSemaphores :
    let held (o : Fin 257) (b : Bool) := run.setSem 255 ⟨some o, false, b⟩
    run.dieOn = true ∧ mayRing (.core 0) = true ∧ (255 : BitVec 64).toNat < 256 ∧ 256 ≤ (256 : BitVec 64).toNat
      ∧ (256 : Fin 257).val = 256 ∧ (255 : Fin 257).val = (255 : ThreadId).val ∧ (run.ridge (ridgeOf 255)).offline = false
      ∧ (run.ridge (ridgeOf 255)).draining = false ∧ (run.ridge (ridgeOf 255)).relath = false ∧ (run.ridge (ridgeOf 255)).moving = false ∧ run.retained (ridgeOf 255) = false
      ∧ isSmcThread 255 = false ∧ run.ownerCovered 256 = false ∧ (run.sem 255).holder = none
      ∧ ((held 3 false).sem 255).holder = some 3 ∧ ((held 3 true).sem 255).breaking = true
      ∧ ((run.setSem 255 ⟨none, false, true⟩).sem 255).breaking = true ∧ run.cfgReach .smc 0x06 = true := by decide

theorem witness_MatrixAccessesEnterOrWait :
    let a : BitVec 48 := BitVec.ofNat 48 (mbxBase + 8)
    let x : Txn := { txn (.core 8) a (.read 8) with slot := run.requestSlot (.core 8) 0 }
    let deep : Txn := { x with addr := 0x100, base := 0x100 }
    let y := txn (.core 8) 0 (.write [0])
    let z : Txn := { x with qos := 15 }
    let ahead : State := { run with matrix := { run.matrix with flight := [y] } }
    let queue : State := { run with matrix := { run.matrix with waiting := [z] } }
    run.dieOn = true ∧ run.requestOk (.core 8) 0 = true ∧ run.aliasOk a.toNat (.read 8) = true
      ∧ run.allReach (.core 8) a.toNat 8 (matrixCarries (.core 8)) = true ∧ run.allReach (.core 8) 0x100 8 (matrixCarries (.core 8)) = true
      ∧ a.toNat % run.unitAt a.toNat + 8 ≤ run.unitAt a.toNat ∧ 0x100 % run.unitAt 0x100 + 8 ≤ run.unitAt 0x100 ∧ 0x100 < deepEnd
      ∧ run.txnHeld x [] = false ∧ run.barred x = false ∧ run.withinLimits x = true ∧ deepEnd ≤ a.toNat
      ∧ run.txnHeld deep [] = false ∧ run.barred deep = false ∧ run.withinLimits deep = true
      ∧ ahead.txnHeld x [y] = true ∧ queue.txnHeld x [z] = false
      ∧ (queue.matrix.waiting.any fun w => masterNo w.m == masterNo x.m && queue.txnTarget w == queue.txnTarget x) = true := by decide

theorem witness_MatrixGrantsServeAndSheetsLift :
    let x := txn (.core 8) (BitVec.ofNat 48 mbxBase) (.read 8)
    let s : State := { run with matrix := { run.matrix with flight := [x] } }
    let served (s : State) := serveGrant (s.ptGrant (.mailbox 0)) (s.reg 0x04 (0x200 + 8 * ptTarget (.mailbox 0))) (s.ptReady (.mailbox 0))
    let sheet (c : Bool) : State := { run with matrix := { run.matrix with sheets := [.thread 8], flight := [{ x with covered := c }] } }
    s.dieOn = true ∧ (served s).map (fun r => r.1) = some x ∧ served run = none ∧ s.matrix.waiting = []
      ∧ x.addr.toNat = mbxBase ∧ s.region mbxBase = .mailbox 0 ∧ x.covered = false ∧ (∀ w ∈ wordsOf x.addr.toNat 8, s.flip w = 0)
      ∧ SheetPart.thread 8 ∈ (sheet false).matrix.sheets ∧ (sheet false).sheetEventOver (.thread 8) = true
      ∧ (sheet false).matrix.waiting = [] ∧ coversTxn (.thread 8) x = true
      ∧ (∀ y ∈ (sheet false).matrix.flight, y.covered = false) ∧ (∃ y ∈ (sheet true).matrix.flight, y.covered = true ∧ coversTxn (.thread 8) y = true) := by
  decide

/-! ### Hypotheses of the statements about streams and registers are met -/

/-- A descriptor of VADD-like code 0x001 with LEN 16, its operands at the start of the ledge of ridge 0. -/
def entry (first : BitVec 64) : QEntry where
  seq := 0
  dw := #v[first, BitVec.ofNat 64 16, 0x008000010000, 0, 0x008000020000, 0, 0x008000030000, 0]
  addr := 0x008000000400
  ring := 1
  maskBase := 0
  va := 0
  vb := 0
  vd := 0
  rm := 0
  dispatched := false

/-- Ridge 0 is placed, and thread 0 has queued `e`. -/
def queued (e : QEntry) : State := placed (withThread 0 { running 0x008000000000 with dq := [e] })


/-- Its stream after dispatch into slot 0 of ridge 0, unchained. -/
def stream (first : BitVec 64) : Stream := Stream.start 0 0 (entry first) none 0 0

/-- Ridge 0 runs `ms`. -/
def streaming (ms : List Stream) : State := (queued (entry 0x4000000)).setRidge 0 { Ridge.reset with streams := ms }

/-- CHID 5 is routed over ridge 0 alone with one member. -/
def chained (ms : List Stream) : State :=
  ((streaming ms).setReg (rgBlk 0) 0x1128 (1 * 2 ^ 4 + 1 * 2 ^ 16)).setChain 5 { ChainInst.reset with active := true }

/-- ORDER = 1 (bit 26), IADD of 8-bit elements; OP 0x7FF is not defined. -/
theorem witness_StreamsLaunchDispatchAndRun :
    let s := coreAt 0x008000000400
    let late : State := { s with matrix := { s.matrix with flight := [txn (.core 0) 0 (.write [0])] } }
    let dq (n : Nat) (x : Thread) : Thread := { x with dq := List.replicate n (entry 0) }
    let parked (n : Nat) := withThread 0 (dq n { running 0x008000000000 with st := .parked, park := some (.queue 31 (entry 0)) })
    let q := queued (entry 0x4000000)
    let bad := queued (entry 0x7FF)
    let r := streaming [stream 0x4000000]
    let m : Stream := { stream 0x4000000 with chid := some 5 }
    s.Issues 0 (.slaunch 0 31 0) ∧ s.dataFault 0 .read 0x008000000400 64 = none ∧ (s.thread 0).dq.length < 32
      ∧ 32 ≤ ((withThread 0 (dq 32 (s.thread 0))).thread 0).dq.length
      ∧ ((parked 31).thread 0).park = some (.queue 31 (entry 0)) ∧ ((parked 31).thread 0).dq.length < 32
      ∧ 32 ≤ ((parked 32).thread 0).dq.length
      ∧ q.sequencerRuns 0 = true ∧ (q.ridge 0).draining = false ∧ q.nextDispatch 0 = some (0, entry 0x4000000) ∧ q.freeSlot 0 = some 0
      ∧ (entry 0x4000000).member = false ∧ launchCheck (q.ridge 0) (entry 0x4000000) (q.chainPlace 0 0 0) [] = 0
      ∧ (q.launchReads 0 (stream 0x4000000)).1.waits = false
      ∧ bad.nextDispatch 0 = some (0, entry 0x7FF) ∧ launchCheck (bad.ridge 0) (entry 0x7FF) (bad.chainPlace 0 0 0) [] = 1
      ∧ (r.ridge 0).swap = none ∧ r.nextGroup 0 = some (stream 0x4000000) ∧ q.nextGroup 0 = none
      ∧ (stream 0x4000000).e.op < 0x800 ∧ r.microBusy 0 [stream 0x4000000] = false ∧ (stream 0x4000000).first ≤ (stream 0x4000000).next
      ∧ (q.ridge 0).readFails 0 0 = none ∧ s.launchWaits 0 0x008000000400 = false ∧ late.launchWaits 0 0x1000 = true
      ∧ ((chained [m]).chain 5).active = true ∧ ((chained [m]).chain 5).closed = false ∧ (chained [m]).gathered 5 = true
      ∧ (∀ x ∈ (chained [m]).instanceMembers 5, x.2.launchBad = false)
      ∧ (∃ x ∈ (chained [{ m with launchBad := true }]).instanceMembers 5, x.2.launchBad = true)
      ∧ (chained [m]).membersOn 0 5 ≠ [] := by
  unfold State.Issues
  decide

theorem witness_SlaunchFields : (0x4C000001 : BitVec 32).extractLsb' 26 6 = 0x13#6 ∧ (0x4C000001 : BitVec 32).extractLsb' 0 17 ≠ 0 := by
  decide

theorem test_slaunchDisp : decode 0 0x4C000001 = none ∧ decode 0 0x4C620000 = some (.slaunch 0 3 1) := by decide

/-- The row of 16 elements meets no busy window. -/
theorem witness_StreamsRunARow :
    ∀ x ∈ ((streaming [stream 0x4000000]).groupTurn 0 [stream 0x4000000] (stream 0x4000000).rowElems).ms, x.waits = false := by decide

/-- No CHID has a row to send, whichever way the port leads. -/
theorem witness_StreamsSendNoRow (dir last : Nat) :
    (streaming [stream 0x4000000]).nextSender 0 dir last = none ∧ (queued (entry 0x4000000)).nextSender 0 dir last = none := by
  have h (s : State) (hs : ∀ c : Fin 16, (s.port 0 c).outRows = []) : s.nextSender 0 dir last = none := by simp [State.nextSender, hs]
  exact ⟨h _ (by decide), h _ (by decide)⟩

theorem witness_StreamsPassRowsAndCredits :
    let s := run.setPort 0 15 { ChainPort.reset with inFlight := [[]], creditsBack := 1 }
    (s.port 0 15).inFlight = [[]] ∧ 0 < (s.port 0 15).creditsBack := by decide

theorem witness_CompletedStreamsReport :
    let m : Stream := { stream 0x4000000 with finished := some ⟨0, 16, 0⟩ }
    let s := streaming [m]
    (s.ridge 0).stream 0 = some m ∧ m.chid = none ∧ s.ridgeRuns 0 = true ∧ s.delivering 0 0 = false ∧ (m.once false 0).scalar = none
      ∧ (m.once false 0).vbytes = [] ∧ m.custom = false ∧ s.statOffset 0 m + 32 ≤ s.bulkSize 0 := by decide

theorem witness_RegisterAccessesFollowTheAccessCodes :
    run.cfgReach .smc 0x04 = true ∧ run.blockOf 0x04 = 0x04 ∧ regAccessOk 4 8 = false ∧ regDesc 0x04 0xFFF8 = none
      ∧ (regDesc 0x04 0x20).map (fun r => r.lathOnly) = some true
      ∧ (regDesc 0x04 0x300).map (fun r => r.lathOnly) = some false ∧ (regDesc 0x0B 0x10).map (fun r => r.lathOnly) = some false
      ∧ run.cfgReach .smc 0x0B = true ∧ run.blockOf 0x0B = 0x0B ∧ (regDesc 0xDF 0x1300).isSome = true ∧ run.cfgReach .smc 0xDF = true
      ∧ run.blockOf 0xDF = 0xDF ∧ 0x304 % 4 = 0 ∧ 0x304 / 8 * 8 = 0x300 := by decide

theorem witness_EveryStepKeepsCanonicalForms :
    State.reset.wf = true ∧ step State.reset = .next State.reset := ⟨by decide, rfl⟩


/-! ### Hypotheses of the statements about the deep store and the links are met -/

/-- Interface 0 is trained. -/
def trained : State := run.setFlagOf (dsBlk 0) 0x08 1 true

theorem witness_DeepStoreLinksTrainAndRefresh :
    let now (s : State) : State := { s with dram := { s.dram with retrained := [(0, 1, 0)] } }
    let going : State := { run with dram := { run.dram with retraining := [(0, 1)] } }
    let owing (n : Nat) := run.setOwed 1023 n
    let rested : State := { trained with dram := { trained.dram with refreshed := [(0, 1)] } }
    let under : State := { trained with dram := { trained.dram with recentring := [(0, 1)] } }
    run.dieOn = true ∧ run.trained 31 = false ∧ run.lostIf 31 = false ∧ trained.trained 0 = true
      ∧ trained.dram.retraining.contains (0, 1) = false ∧ trained.retrainedLately 0 1 = false
      ∧ (now trained).retrainedLately 0 1 = true ∧ (now trained).trained 0 = true ∧ going.dram.retraining.contains (0, 1) = true
      ∧ trained.lostIf (ifaceOf 0) = false ∧ trained.bulkGrantRuns (ifaceOf 0) = false ∧ rested.mayRecentre 0 1 = true
      ∧ under.dram.recentring.contains (0, 1) = true ∧ under.trained 0 = true
      ∧ 0 < (owing 7).owedBy 1023 ∧ (owing 7).bankAsked 1023 = false ∧ run.cfgReach .smc 0x10 = true ∧ (6 : BitVec 3).toNat ≤ run.maxRate := by
  decide

/-- DS_WIN15 from 64 KiB on with 64 KiB, BASE 1 and SIZE 1. -/
def winValue : Nat := 1 + 2 ^ 24 + 2 ^ 48

theorem witness_DeepStoreWindowsMigrateAndRepair :
    let open_ (busy : Nat) := run.setReg 0x10 0x178 (winValue + busy * 2 ^ 50)
    let moving (fence : Nat) := run.setReg 0x10 0x50 (1 + 5 * 2 ^ 8 + defaultBank 6 * 2 ^ 20 + fence * 2 ^ 32)
    let out (k : Nat) : State := { run with dram := { run.dram with outage := k } }
    let ringed := (out 2).setReg (lgBlk 15) 0x220 (2 ^ 5)
    let used : State := { run with sram := { run.sram with replaced := [.bulk 0 1] } }
    let ready : State := { run with sram := { run.sram with scaffoldPassed := [.ledge 0] } }
    run.dieOn = true ∧ run.cfgReach .smc 0x10 = true ∧ run.window 15 = none ∧ field winValue 50 14 = 0 ∧ field winValue 21 3 = 0
      ∧ field winValue 45 3 = 0 ∧ field winValue 24 21 ≤ 2091008 ∧ winValue.testBit 48 = true ∧ run.windowMayOpen 15 winValue = true
      ∧ run.windowMayOpen 15 (2 ^ 48) = false ∧ (2 ^ 48 : Nat).testBit 48 = true
      ∧ (open_ 1).flagOf 0x10 0x178 50 = true ∧ (open_ 1).window 15 = some (65536, 65536) ∧ run.dram.outage ≠ 1
      ∧ (moving 65534).migrating = true ∧ (moving 65535).migrating = true ∧ (moving 65534).fence < 65535 ∧ (moving 65535).fence = 65535
      ∧ (moving 65535).fieldOf 0x10 0x50 8 10 = 5
      ∧ (out 1).dram.outage = 1 ∧ (out 1).deepDrained = true ∧ ringed.ringOn 15 = true ∧ ringed.dram.outage = 2
      ∧ run.sram.lost.contains (.bulk 0 1) = false ∧ run.rowsUsed (.bulk 0 1) < 4 ∧ scaffoldFor (.bulk 0 0) = some (.ledge 0)
      ∧ ready.scaffoldUsed (.ledge 0) = false ∧ ready.scaffoldReady (.ledge 0) = true ∧ ready.sram.borrow = none
      ∧ used.scaffoldUsed (.ledge 0) = true ∧ used.sram.replaced.contains (.bulk 0 0) = false := by decide

/-- Entry 6 of the bank map holds the target of the migration above. -/
theorem witness_DeepStoreMigrationEnds :
    (run.setReg 0x10 0x50 (1 + 5 * 2 ^ 8 + defaultBank 6 * 2 ^ 20 + 65535 * 2 ^ 32)).entryOf (defaultBank 6) = some 6 := by decide

/-- A migration starts for a bank in the queue while a tested scaffold bank is there. -/
theorem witness_DeepStoreMigrationStarts :
    let s : State := { run with dram := { run.dram with migQueue := [(defaultBank 5, 1)], passed := [defaultBank 1023] } }
    s.migrating = false ∧ s.dram.outage = 0 ∧ s.inRun = true ∧ s.entryOf (defaultBank 5) = some 5 ∧ 5 < s.slots
      ∧ s.spareBanks true = [1023] := by decide

theorem witness_DeepStoreGrantServes :
    let x : Txn := { txn .sweep 0 (.read 8) with place := some (.raw 0) }
    let s : State := { trained with matrix := { trained.matrix with flight := [x] } }
    (serveGrant (s.dsGrant 0) (s.reg (dsBlk 0) 0x10) (s.deepReady 0)).map (fun r => r.1) = some x
      ∧ s.matrix.waiting = [] ∧ s.dram.outage = 0 ∧ (∀ k : Fin 16, s.window k = none) ∧ s.txnPlace x = .raw 0 ∧ x.aux = none := by decide

/-- LG_LINK7 of group 15 with RXMODE `rx`, SADDLE 2, PAYLEN 2,048 words, and the link locked. -/
def linked (cfg : Nat) : State := (run.setReg (lgBlk 15) 0x138 cfg).setReg (lgBlk 15) 0x1B8 1

/-- A frame of `n` words of zeros. -/
def frame (n : Nat) : Frame := ⟨0, 0, 0, 0, List.replicate n 0, true, false⟩

/-- Every interface of the deep store is trained. -/
def deepTrained (s : State) : State := (List.finRange 32).foldl (fun s i => s.setFlagOf (dsBlk i) 0x08 1 true) s

/-- Rings of group 15: enabled, the smallest. -/
def ringed (s : State) : State := s.setReg (lgBlk 15) 0x220 (2 ^ 5)

theorem witness_LinksReceiveFrames :
    let flp := linked 1
    let leg8 := linked 3
    let eth := deepTrained (ringed (linked (2 + 2 ^ 38)))
    let ring := deepTrained (ringed (linked (1 + 2 ^ 38)))
    let saddle := linked (1 + 2 * 2 ^ 39 + 2 * 2 ^ 41)
    let pend := run.setGroup 15 { (run.group 15) with ringPend := [⟨3, []⟩] }
    let held := ((run.setReg 0x10 0x178 (winValue + 2 ^ 50)).setGroup 15 { (run.group 15) with ringPend := [⟨3, [(65536, [0])]⟩] })
    let full := (run.setFlagOf (lgBlk 15) 0x208 27 true).setFlagOf (lgBlk 15) 0x208 28 true
    let here : State := { saddle with repair := { saddle.repair with siteOf := saddle.repair.siteOf.set 31 (some 0) } }
    run.inRun = true ∧ rxMode (flp.linkCfg 127) ≠ 0 ∧ flp.linkLocked 127 = true ∧ rxMode (flp.linkCfg 127) ≠ 2
      ∧ flp.receives 127 1 = true ∧ leg8.receives 127 3 = true ∧ bitOf (flp.linkCfg 127) 38 = false ∧ saddleRoute (flp.linkCfg 127) = 0
      ∧ ring.receives 127 1 = true ∧ bitOf (ring.linkCfg 127) 38 = true ∧ saddleRoute (ring.linkCfg 127) = 0
      ∧ ring.deepHeld (ring.ringBase 15) 32 = false ∧ eth.deepHeld (eth.ringBase 15) 96 = false
      ∧ ring.ringOn 15 = true ∧ ring.dram.outage = 0 ∧ (∀ i : Fin 16, ring.window i = none)
      ∧ ringPlace (ring.ringUnits 15) (ring.group 15).ringW (ring.fieldOf (lgBlk 15) 0x230 0 32) (1 + (0 + 31) / 32) = some (0, 1)
      ∧ ring.allDeep (ring.ringBase 15) 32 = true
      ∧ eth.receives 127 2 = true ∧ beNat (slice (List.replicate 64 (0 : Byte)) 12 2) ≠ 0x8808 ∧ bitOf (eth.linkCfg 127) 38 = true
      ∧ ringPlace (eth.ringUnits 15) (eth.group 15).ringW (eth.fieldOf (lgBlk 15) 0x230 0 32) (1 + (64 + 31) / 32) = some (0, 3)
      ∧ eth.allDeep (eth.ringBase 15) 96 = true
      ∧ here.receives 127 1 = true ∧ saddleRoute (here.linkCfg 127) = 2 ∧ here.saddleThere 31 = true
      ∧ here.saddleFree 15 1 (here.saddleCur 15 1) = true ∧ here.fieldOf (lgBlk 15) 0x208 31 10 + (payLen (here.linkCfg 127) * 8 + 127) / 128 ≤ 512
      ∧ (pend.group 15).ringPend = [⟨3, []⟩] ∧ (held.group 15).ringPend = [⟨3, [(65536, [0])]⟩]
      ∧ held.ringHeld [(65536, [0])] = true ∧ run.cfgReach .smc (lgBlk 15) = true ∧ full.saddleFull 15 1 1 = true
      ∧ full.saddleLost (saddleRidge 15 1) 1 = false
      ∧ run.ringOn 15 = false ∧ (2 ^ 5 + 24 : Nat).testBit 5 = true ∧ field (2 ^ 5 + 24) 6 6 = 0 ∧ run.ringAbove (2 ^ 5 + 24) = false := by
  decide +kernel

/-- An FLP frame without payload, whole and cut short, and a LEG8 frame with the same header. -/
def flpBlocks : List Block66 := [⟨2, 0x78⟩, ⟨2, BitVec.ofNat 64 (0xCC + crc32c (List.replicate 7 0) * 2 ^ 8)⟩]
def legGroups : List CodeGroup :=
  .control 0xFB :: (List.replicate 7 (0 : Byte) ++ leBytes 4 (crc32c (List.replicate 7 0))).map CodeGroup.data ++ [.control 0xFD]

theorem witness_LinksDecodeFrames :
    locksOn 0 (List.replicate 64 true) = true ∧ rxLocks (.blocks (List.replicate 64 ⟨1, 0⟩)) = true ∧ rxLocks (.groups [.control 0xBC]) = true
      ∧ rxLocks (.blocks (List.replicate 63 ⟨1, 0⟩)) = false ∧ rxFits (.blocks (List.replicate 64 ⟨1, 0⟩)) 1 = true ∧ rxFits (.groups [.invalid]) 3 = true
      ∧ losesLock 0 0 (rxValid (.groups (List.replicate 16 .invalid))) = true
      ∧ losesLock 0 0 (rxValid (.blocks (List.replicate 16 ⟨0, 0⟩))) = true ∧ losesLock 0 0 (rxValid (.blocks (List.replicate 15 ⟨3, 0⟩))) = false
      ∧ rxOpenFrame (.blocks []) = none ∧ rxOpenFrame (.blocks [⟨2, 0x78⟩, ⟨1, 5⟩]) = some ⟨0, 0, 0, 0, [5], false, false⟩
      ∧ flpDeframe flpBlocks = some (⟨0, 0, 0, 0, [], true, false⟩, true)
      ∧ leg8Deframe legGroups = some (⟨0, 0, 0, 0, [], true, false⟩, true) := by decide +kernel

/-- Bytes put into the memories of ridges at `a`. -/
def holding (s : State) (a : Nat) (bs : List Byte) : State := { s with sram := s.sram.setBytes a bs }

/-- The first address of ridge 30's ledge. -/
def bulk30 : Nat := ledgeBase + 30 * 0x400000

/-- The egress engine of group 15: a region of 4,096 bytes at the start of ridge 30's ledge, one entry in it for link 7. -/
def egressing (len : Nat) : State :=
  let s := (run.setReg (lgBlk 15) 0x240 (bulk30 + 16)).setReg (lgBlk 15) 0x248 (1 + 2 ^ 32)
  let s := (s.setReg (lgBlk 15) 0x138 16).setReg 0x04 0x20 (2 ^ 30)
  holding s (bulk30 + 1024) (leBytes 8 bulk30 ++ leBytes 4 len ++ [7, 15])

/-- The entry as the engine holds it. -/
def taken (len sent : Nat) : Egress := ⟨0, 7, BitVec.ofNat 48 bulk30, len, List.replicate 64 0, false, 0, 0, sent, 0⟩

theorem witness_LinksFailAndTransmit :
    let up := linked 1
    let failed := up.setReg (lgBlk 15) 0x1B8 3
    let due := (run.setReg (lgBlk 15) 0x178 (2097151 + 2 ^ 21)).setSide 127 { run.side 127 with deadDue := true }
    let tx := linked (1 * 2 ^ 3 + 3 * 2 ^ 25)
    let clocked : State := { tx with timer := { tx.timer with presentA := true } }
    let clocked := clocked.setFlagOf 0x07 0x08 4 false
    let moving : State := { clocked with col := { clocked.col with waitMarker := false, hasSection := true } }
    let full := moving.setSide 127 { moving.side 127 with unsent := [(0xFFFFFFFFFFFFFFFF, 255)] }
    let again := moving.setSide 127 { moving.side 127 with last := some (7, 255) }
    up.inRun = true ∧ rxMode (up.linkCfg 127) ≠ 0 ∧ up.linkFailed 127 = false ∧ failed.linkFailed 127 = true ∧ failed.linkLocked 127 = true
      ∧ (due.side 127).deadDue = true ∧ due.dieOn = true ∧ due.flip (ctBase + 8 * 2097151) = 0
      ∧ field (due.reg (lgBlk 15) 0x178) 0 21 = 2097151 ∧ field (due.reg (lgBlk 15) 0x178) 21 22 = 1
      ∧ lockedTx (clocked.linkCfg 127) = true ∧ (clocked.side 127).electricalIdle = false ∧ clocked.noClock = false
      ∧ clocked.colQuiet = true ∧ full.colQuiet = false ∧ (full.side 127).unsent = [(0xFFFFFFFFFFFFFFFF, 255)] ∧ lockedTx (full.linkCfg 127) = true
      ∧ (again.side 127).unsent = [] ∧ (again.side 127).last = some (7, 255) ∧ again.colQuiet = false ∧ full.inRun = true
      ∧ full.noClock = false ∧ again.noClock = false ∧ (again.side 127).electricalIdle = false := by decide +kernel

/-- The egress clauses: a good entry at the longest length, one that is a byte too long, a datagram in the middle and the last. -/
theorem witness_LinksTransmitEgress :
    let s := egressing 16777216
    let bad := egressing 16777217
    let sending (x : Egress) := s.setGroup 15 { (s.group 15) with eg := [x] }
    let a := s.egEntryAddr 15 0
    let wrong (s : State) : Bool :=
      let e := (s.memRead .other a 32).bytes
      let ta := s.egBase 15 + 64 * (leAt e 13 1 % 16)
      let tm := (s.memRead .other a 32).st.memRead .other ta 64
      (!tm.st.egReach 15 ta 64) || tm.st.egInvalid 15 e tm.bytes
    s.inRun = true ∧ s.flagOf (lgBlk 15) 0x240 4 = true ∧ (s.group 15).egNext % s.egCount 15 = 0 ∧ s.fieldOf (lgBlk 15) 0x248 0 16 = 1
      ∧ s.deepHeld a 32 = false ∧ s.deepHeld (s.egBase 15 + 64 * 15) 64 = false ∧ bad.deepHeld (a + 0x0F) 1 = false
      ∧ s.deepHeld bulk30 32 = false ∧ s.deepHeld (bulk30 + 32) 1 = false ∧ deepEnd ≤ bulk30
      ∧ s.egReach 15 a 32 = true ∧ wrong s = false ∧ leAt (s.memRead .other a 32).bytes 0 8 = bulk30 ∧ (s.group 15).eg = []
      ∧ bad.egReach 15 a 32 = true ∧ wrong bad = true ∧ (bad.group 15).eg = [] ∧ bad.flagOf (lgBlk 15) 0x240 4 = true
      ∧ bad.fieldOf (lgBlk 15) 0x248 0 16 = 1 ∧ 32 * s.fieldOf (lgBlk 15) 0x248 32 9 = 32
      ∧ (((sending (taken 33 0)).group 15).eg.find? fun z => z.link == 7 && z.status == 0) = some (taken 33 0)
      ∧ (sending (taken 33 0)).egReach 15 bulk30 32 = true
      ∧ (((sending (taken 33 32)).group 15).eg.find? fun z => z.link == 7 && z.status == 0) = some (taken 33 32)
      ∧ (sending (taken 33 32)).egReach 15 (bulk30 + 32) 1 = true := by decide +kernel


/-! ### Hypotheses of the statements about the col path, alignment and time are met -/

/-- The col path and the queues run: the image has a col section, the clock is there, BXC is `b`. -/
def beating (b : Nat) : State :=
  let s := run.setReg 0x07 0x20 b
  let s := (s.setFlagOf 0x07 0x08 4 false).setFlagOf 0x07 0x08 5 true
  { s with
    timer := { s.timer with presentA := true, presentB := true, zeroNext := false, orblen := 3564 }
    col := { s.col with hasSection := true, waitMarker := false, next := 100 } }

/-- Queue 15 enabled with L = 8,191, dense or sparse, live from crossing 0, a result for `c` on its way. -/
def dueQueue (dense : Bool) (b : Nat) (c : Word) : State :=
  let s := (beating b).setReg 0x09 0x178 (1 + 8 * b2n dense + 16 * 8191)
  s.setAlnQueue 15 { (s.alnQueue 15) with live := some 0, entering := [⟨some c, 7, 0, 0⟩] }

theorem witness_CrossingsAreEvaluatedAndReleased :
    let now := beating 100
    let locked := (now.setReg 0x08 0x40 1).setReg (lgBlk 0) 0x180 1
    let missed := locked.setReg 0x07 0x20 (100 + locked.fieldOf 0x08 0x10 0 8)
    let late (d : Bool) := dueQueue d 8201 10
    let held := (late true).setAlnQueue 15 { ((late true).alnQueue 15) with results := [(10, 7)] }
    let r := BitVec.ofNat 64 (wrapNat 64 ((8201 : Int) - 8191))
    now.inRun = true ∧ now.colQuiet = false ∧ 0 ≤ crossingDiff now.bxc (100 : Word).toNat ∧ now.crossingComplete 100 = true
      ∧ missed.colQuiet = false ∧ deviceLinks.any missed.takesPart = true ∧ missed.crossingComplete missed.col.next = false
      ∧ (missed.fieldOf 0x08 0x10 0 8 : Int) ≤ crossingDiff missed.bxc missed.col.next.toNat
      ∧ (dueQueue true 10 10).alnTakes 15 10 = true ∧ crossingDiff (10 + alnL ((dueQueue true 10 10).alnCfg 15)) (dueQueue true 10 10).bxc = 8191
      ∧ ((dueQueue true 10 10).alnQueue 15).seen.contains 10 = false ∧ (dueQueue true 10 10).releasePassed 15 10 = false
      ∧ (late true).releasePassed 15 10 = true ∧ (late false).releasePassed 15 10 = true ∧ alnDense ((late true).alnCfg 15) = true
      ∧ alnDense ((late false).alnCfg 15) = false ∧ (late false).alnTakes 15 10 = true ∧ ((late false).alnQueue 15).waiting.length < 4
      ∧ (late true).alnTakes 15 (2 ^ 64 - 1) = false
      ∧ (dueQueue true 8199 10).releasePassed 15 10 = false ∧ crossingDiff (10 + 8191) 8199 ≤ 2
      ∧ alnOn (held.alnCfg 15) = true ∧ held.noClock = false ∧ (held.alnQueue 15).live = some 0 ∧ (held.alnQueue 15).released = none
      ∧ ((held.alnQueue 15).results.find? fun z => z.1 == r) = some (r, 7) ∧ ((late true).alnQueue 15).results = []
      ∧ 0 ≤ crossingDiff r.toNat (0 : Word).toNat ∧ now.dieOn = true ∧ now.flagOf 0x09 0x08 1 = false
      ∧ (223 + 32 < 256 * (now.setReg 0x09 0x10 1).fieldOf 0x09 0x10 0 10) := by decide +kernel

theorem witness_BunchClockCountsAndFailsOver :
    let now (b : Nat) := beating b
    let auto := (now 0).setFlagOf 0x07 0x10 1 true
    let manual := (now 0).setFlagOf 0x07 0x10 1 false
    let going : State := { auto with timer := { auto.timer with failing := true } }
    let none_ := run.setFlagOf 0x07 0x08 4 true
    let onB := (now 0).setFlagOf 0x07 0x08 1 true
    let zero : State := { (now 5) with timer := { (now 5).timer with zeroNext := true } }
    let pend : State := { (now 5) with timer := { (now 5).timer with resync := true } }
    let good : TimeCode := ⟨true, 0x59, 0x59, 0x23, 0x366, some 0x99⟩
    let locked := (now 0).setReg (lgBlk 0) 0x100 8
    let edged : State := { (now 9) with timer := { (now 9).timer with onTime := [7] } }
    let refd : State := { run with power := { run.power with refext := true } }
    (now 0).dieOn = true ∧ (now (2 ^ 64 - 1)).noClock = false ∧ (now (2 ^ 64 - 1)).bxc = 2 ^ 64 - 1 ∧ auto.timer.failing = false
      ∧ auto.flagOf 0x07 0x10 1 = true ∧ auto.inputPresent (!auto.activeB) = true ∧ (manual.flagOf 0x07 0x10 1 && manual.inputPresent (!manual.activeB)) = false ∧ manual.timer.failing = false
      ∧ lockedTx (locked.linkCfg 0) = true ∧ zero.timer.zeroNext = true ∧ (now 3564).timer.zeroNext = false
      ∧ (now 0).flagOf 0x07 0x10 3 = false ∧ (now 3564).bxc % (now 3564).timer.orblen.toNat = 0
      ∧ (now 1).bxc % (now 1).timer.orblen.toNat ≠ 0 ∧ (now 1).flagOf 0x07 0x10 2 = false ∧ (now 1).timer.resync = false
      ∧ pend.timer.resync = true ∧ pend.bxc % pend.timer.orblen.toNat ≠ 0 ∧ going.timer.failing = true
      ∧ none_.inputPresent true = false ∧ none_.noClock = true ∧ none_.inputPresent false = false
      ∧ (run.setFlagOf 0x07 0x08 4 false).inputPresent true = false ∧ (run.setFlagOf 0x07 0x08 4 false).noClock = false
      ∧ onB.inputPresent false = true ∧ false ≠ onB.activeB ∧ going.inputPresent true = true ∧ true ≠ going.activeB
      ∧ run.cfgReach .smc 0x07 = true ∧ good.timingOk = true ∧ timeDigitsOk good = true
      ∧ timeDigitsOk { good with sec := 0x60 } = timeDigitsOk { good with sec := 0x59 }
      ∧ timeDigitsOk { good with sec := 0x0A } = false ∧ edged.timer.onTime = [7] ∧ refd.on = true ∧ refd.power.refext = true := by decide +kernel

theorem witness_TimerChannelsTickMatchAndCapture :
    let ch (cfg tb cmp : Nat) := ((run.setReg 0x07 (chOff 7 0) cfg).setReg 0x07 (chOff 7 0x10) tb).setReg 0x07 (chOff 7 0x18) cmp
    let counting := ch (2 ^ 5 + 2 ^ 6 + 2 ^ 8 + 2 ^ 9 + 256 * 2 ^ 20 + 1) (2 ^ 32 - 1 + 2 ^ 32) 0
    let captures := ch (2 ^ 7) 5 0
    let rose := captures.setTimerCh 7 { (captures.timerCh 7) with rise := some 3 }
    let v : BitVec 64 := 2 ^ 5 + 256 * 2 ^ 20 + 7
    counting.dieOn = true ∧ bitOf (counting.reg 0x07 (chOff 7 0)) 5 = true ∧ field (counting.reg 0x07 (chOff 7 0)) 0 3 ≠ 0
      ∧ (counting.timerCh 7).acc + 0x10000 < (ch 33 0 0 |>.setReg 0x07 (chOff 7 0x08) 0x20000).fieldOf 0x07 (chOff 7 0x08) 0 32
      ∧ counting.fieldOf 0x07 (chOff 7 0x08) 0 32 ≤ (counting.timerCh 7).acc + 0x10000
      ∧ (counting.timeBase 7 + 1) % 2 ^ 32 = counting.fieldOf 0x07 (chOff 7 0x18) 0 32 ∧ counting.fieldOf 0x07 (chOff 7 0x10) 32 32 = 1
      ∧ (beating 0).noClock = false ∧ run.cfgReach .smc 0x07 = true ∧ v.toNat.testBit 5 = true ∧ v.toNat.testBit 6 = false
      ∧ field v.toNat 0 3 ≠ 3 ∧ field v.toNat 20 9 ≤ 256 ∧ field v.toNat 11 1 = 0 ∧ field v.toNat 29 3 = 0 ∧ field v.toNat 32 32 = 0
      ∧ bitOf (run.reg 0x07 (chOff 7 0)) 5 = false ∧ bitOf (run.reg 0x07 (chOff 7 0)) 6 = false
      ∧ run.timeBase 7 = run.fieldOf 0x07 (chOff 7 0x18) 0 32 ∧ captures.timeBase 7 ≠ captures.fieldOf 0x07 (chOff 7 0x18) 0 32
      ∧ (64 : BitVec 64).toNat.testBit 6 = true ∧ (64 : BitVec 64).toNat.testBit 5 = bitOf (captures.reg 0x07 (chOff 7 0)) 5
      ∧ bitOf ((ch 64 5 0).reg 0x07 (chOff 7 0)) 6 = true ∧ field (5 : BitVec 64).toNat 0 32 = (ch 64 5 0).timeBase 7
      ∧ (ch 64 5 0).fieldOf 0x07 (chOff 7 0x18) 0 32 ≠ (ch 64 5 0).timeBase 7
      ∧ bitOf (captures.reg 0x07 (chOff 7 0)) 7 = true ∧ (rose.timerCh 7).rise = some 3 := by decide +kernel


/-! ### Hypotheses of the statements about the chain, identity and the life cycle are met -/

/-- Firmware runs, both ports are up, and the module has address 7. -/
def serving : State :=
  let s := ((run.setFlagOf 0x0A 0x08 2 true).setFlagOf 0x0A 0x08 3 true).setMgtAddr 7
  { s with smc := { s.smc with running := true } }

/-- A request with command code `cmd`, for which flash works. -/
def request (cmd : Byte) (payload : List Byte) : Request := ⟨cmd, 9, 0, 0, false, false, payload⟩

/-- `r` is the only request in the queue. -/
def asked (s : State) (r : Request) : State := { s with mgt := { s.mgt with queue := [r] } }

/-- Request `r`, alone in the queue, may be executed as command `cmd`. -/
def one (s : State) (r : Request) (cmd : Nat) : Bool :=
  s.mgtOn && s.mgt.queue == [r] && s.mgt.waiting == none && r.cmd.toNat == cmd && s.mayExecute cmd && !r.bcast && r.status == 0
    && s.portUp true

/-- A request `cmd` with payload `bs` to a serving module may be executed, whether flash works or fails. -/
def oneOf (cmd : Nat) (bs : List Byte) : Bool :=
  [false, true].all fun fails =>
    let r := { request (BitVec.ofNat 8 cmd) bs with flashFails := fails }
    one (asked serving r) r cmd

theorem witness_EmptyQueueOnlySendsUpstream :
    let ready (own passed : List (List Byte)) : State := { serving with mgt := { serving.mgt with upOwn := own, upPassed := passed } }
    State.reset.pending = [] ∧ State.reset.mgtOn = false ∧ (serving.setFlagOf 0x0A 0x08 2 false).portUp true = false
      ∧ serving.pending = [] ∧ serving.mgtOn = true ∧ serving.portUp true = true ∧ serving.mgt.upPassed = [] ∧ serving.mgt.upOwn = []
      ∧ (ready [[1]] [[2]]).mgt.upPassed = [2] :: [] ∧ (ready [[1]] []).mgt.upPassed = [] ∧ (ready [[1]] []).mgt.upOwn = [1] :: [] := by
  decide +kernel

theorem witness_ChainPacketsArePassedOrQueued :
    let down := (serving.setFlagOf 0x0A 0x08 2 false).setFlagOf 0x0A 0x08 3 false
    let head : State := { serving with power := { serving.power with head := true } }
    let enum (a : Byte) : State := { serving with mgt := { serving.mgt with enums := [(false, a)] } }
    let alone (a : Byte) := (enum a).setFlagOf 0x0A 0x08 3 false
    let response := packet 3 0x82 1 0 []
    let other := packet 250 0x02 1 0 (List.replicate 8 0)
    let own := packet 7 0x02 1 0 []
    let odd := packet 7 0x7F 1 0 []
    let enumIn := packet 9 0x01 0 0 [3]
    let enumBad := packet 9 0x01 0 0 [3, 4]
    serving.mgtOn = true ∧ down.portUp true = false ∧ down.portUp false = false ∧ down.mgtOn = true
      ∧ packetOk (response.take 7) = false ∧ packetOk response = true ∧ nth 0 response 1 ≠ 0x81 ∧ serving.portUp true = true
      ∧ serving.portUp false = true ∧ packetOk other = true ∧ (requestOf other false).cmd ≠ 0x01 ∧ (nth 0 other 0).toNat ≠ 0
      ∧ (nth 0 other 0).toNat ≠ serving.mgtAddr ∧ (serving.setMgtAddr 0xFF).mgtAddr = 0xFF ∧ packetOk own = true ∧ (requestOf own false).cmd ≠ 0x01
      ∧ serving.mgtAddr = 7 ∧ (nth 0 own 0).toNat = 7 ∧ serving.mgt.queue = [] ∧ serving.mgt.waiting = none ∧ serving.smc.eraseFirst = false
      ∧ serving.remembered (requestOf own false) = none ∧ serving.endsAtOnce (requestOf own false) = none ∧ serving.smc.recovery = false
      ∧ packetOk odd = true ∧ (requestOf odd false).cmd.toNat ∉ commandCodes ∧ serving.remembered (requestOf odd false) = none ∧ serving.portUp true = true
      ∧ packetOk enumBad = true ∧ (requestOf enumBad false).cmd = 0x01 ∧ (requestOf enumBad false).shaped 1 = false ∧ (nth 0 enumBad 0).toNat ≠ 0
      ∧ packetOk enumIn = true ∧ (requestOf enumIn false).cmd = 0x01 ∧ (requestOf enumIn false).shaped 1 = true
      ∧ head.power.head = true ∧ head.portUp false = true ∧ (enum 249).mgt.enums = [(false, 249)] ∧ (enum 249).power.head = false
      ∧ (249 : Byte).toNat < 250 ∧ (enum 249).portUp false = true ∧ (alone 249).portUp false = false ∧ (alone 249).portUp true = true := by
  decide +kernel

theorem witness_ChainRequestsAreExecutedAndAnswered :
    let a := mbxBase
    let there := leBytes 8 a ++ leBytes 2 1 ++ List.replicate 6 0
    let open_ (t : Target) (len : Nat) (data : List Host.Cell) : State :=
      { serving with mgt := { serving.mgt with session := some ⟨t, len, data⟩ } }
    let x : Session := ⟨.staging, 320, [(0, 7)]⟩
    let whole : Session := ⟨.staging, 1, [(0, 7)]⟩
    let flash : Session := ⟨.slotA, 320, []⟩
    let idle : State := { serving with power := { serving.power with st := .idle } }
    oneOf 0x02 [] = true ∧ serving.dieOn = true ∧ a % 8 = 0 ∧ a < 2 ^ 48 ∧ serving.baseRegion a = .mailbox 0 ∧ serving.flip a = 0
      ∧ oneOf 0x10 there = true ∧ oneOf 0x11 (there ++ List.replicate 8 255) = true ∧ oneOf 0x20 [0x0B] = true ∧ (0x0B : Byte).toNat < 0x0C
      ∧ serving.on = true ∧ openTarget 1 0x03000000 = some .slotA ∧ oneOf 0x30 ([1, 0, 0, 0] ++ leBytes 4 0x03000000) = true
      ∧ serving.mgt.session = none ∧ lathSlot .slotA = some false ∧ serving.busy = false ∧ serving.smc.image = none
      ∧ openTarget 4 0x140 = some .staging ∧ lathSlot .staging = none ∧ oneOf 0x78 (leBytes 4 0x00800000) = true
      ∧ (open_ .staging 320 [(0, 7)]).mgt.session = some x ∧ (open_ .staging 320 [(0, 7)]).sessionBusy = none
      ∧ oneOf 0x31 (leBytes 4 319 ++ [5]) = true ∧ x.agrees 319 [5] = true ∧ flash.target ≠ .staging
      ∧ (open_ .slotA 320 []).mgt.session = some flash ∧ (open_ .slotA 320 []).sessionBusy = none ∧ flash.agrees 319 [5] = true ∧ oneOf 0x32 [] = true ∧ whole.len ≤ firstGap whole.data 0
      ∧ firstGap x.data 0 < x.len ∧ oneOf 0x34 [2] = true ∧ oneOf 0x40 (leBytes 4 0 ++ [16, 0, 0, 0]) = true
      ∧ powerTarget 1 = some .standby ∧ powerTarget 2 = some .idle ∧ oneOf 0x50 [1] = true ∧ serving.power.cool = true ∧ serving.smc.image = none
      ∧ idle.power.st = .idle ∧ serving.power.st ≠ .idle ∧ oneOf 0x51 [] = true := by
  decide +kernel

/-- The bytes of a public key. -/
def keyBytes (x y : Nat) : List Byte := beBytes 48 x ++ beBytes 48 y

/-- The identity key of the module with the fuses of reset. -/
def ownKey : List Byte := keyBytes
  0x241cdaa0c875a986c82349d49f9f9a9b6a90b664ac8b860d17929ff35a5141a9fde661cc5ffe484471b8ab0d5db68779
  0xf0c905f1346d518901754be1a74482f24467dcbe7bff53fc6d57d0d214cbab5c630ace8bc518b92f9b567b9a5b438c3d

/-- A DER certificate that holds the public key `pub`. -/
def certificate (pub : List Byte) : List Byte :=
  [0x30, 0x81, 0x8B, 0x30, 0x81, 0x88, 0xA0, 0x03, 0x02, 0x01, 0x02, 0x02, 0x01, 0x01, 0x30, 0x00, 0x30, 0x00, 0x30, 0x00, 0x30, 0x00]
    ++ [0x30, 0x76, 0x30, 0x10] ++ ecAlgorithm ++ [0x03, 0x62, 0x00, 0x04] ++ pub

/-- The certificate of the module with the fuses of reset. -/
def ownCertificate : List Byte := certificate ownKey

theorem ownScalar : State.reset.fuses.identity
    = 20210492497946898195626295016743732806399282421597396000289909181026777777378217818818918936588107574678231250069042 := by
  decide +kernel

theorem ownKey_scalar : publicKey 20210492497946898195626295016743732806399282421597396000289909181026777777378217818818918936588107574678231250069042 = ownKey := by
  decide +kernel

theorem ownKey_public : publicKey State.reset.fuses.identity = ownKey := by rw [ownScalar]; exact ownKey_scalar

theorem ownCertificate_accepted : certAccepted ownKey ownCertificate = true := by decide +kernel
theorem witness_certificate : certAccepted (publicKey State.reset.fuses.identity) ownCertificate = true := by
  rw [ownKey_public]; exact ownCertificate_accepted

/-- The life-cycle counter of `s` is `n`; slots 0 and 3 of every generation and the vendor's hold the hash `h`. -/
def atLife (n : Nat) (h : BitVec 384) (s : State) : State :=
  let k : KeySlot := ⟨h, true, false⟩
  let blank : KeySlot := ⟨0, false, false⟩
  { s with fuses := { s.fuses with
    count := n
    vendorHash := h
    slots := #v[k, blank, blank, k, k, blank, blank, k, k, blank, blank, k, k, blank, blank, k] } }

theorem witness_IdentityRequestsAreAnswered :
    let held : State := { serving with smc := { serving.smc with cert := some [7], image := some (List.replicate 8 0) } }
    oneOf 0x70 [] = true ∧ oneOf 0x73 [] = true ∧ oneOf 0x74 [] = true ∧ held.smc.cert = some [7] ∧ serving.smc.cert = none
      ∧ oneOf 0x75 ownCertificate = true ∧ ownCertificate.length ≤ 4096 ∧ (atLife 1 0 serving).life = .blank ∧ (atLife 2 0 serving).life ≠ .blank
      ∧ (atLife 1 0 serving).fuses.secret = State.reset.fuses.secret
      ∧ (atLife 1 0 serving).fuses.uid = State.reset.fuses.uid ∧ (atLife 1 0 serving).fuses.rcount = State.reset.fuses.rcount
      ∧ oneOf 0x76 (leBytes 4 7 ++ leBytes 2 1 ++ [0, 0]) = true ∧ held.smc.image = some (List.replicate 8 0) ∧ mayReadLath (atLife 0 0 held).life = true
      ∧ mayReadLath (atLife 2 0 held).life = false ∧ 7 + 1 ≤ (List.replicate 8 (0 : Byte)).length
      ∧ oneOf 0x77 [] = true ∧ (let s := atLife 2 0 serving; { s with smc := { s.smc with debug := true } }).life = .ownedDebug
      ∧ oneOf 0x72 (List.replicate 48 0) = true := by
  decide +kernel

/-- An AUTH request for `action` over the nonce `n`, with the public key (x, y) and the signature (e, e). -/
def auth (action slot arg : Nat) (extra : List Byte) (n x y e : Nat) : Request :=
  request 0x71 (leBytes 1 action ++ leBytes 1 slot ++ [0, 0] ++ leBytes 4 arg ++ List.replicate 8 0 ++ beBytes 48 n ++ keyBytes x y
    ++ keyBytes e e ++ extra)

/-- The module in state `n` of the life cycle with `r` in its queue, the key of `r` in the slots, and the challenge about to expire. -/
def authState (n : Nat) (r : Request) : State :=
  let s := asked (atLife n (hashOf (sha384 (slice r.payload 0x40 96))) serving) r
  { s with
    smc := { s.smc with
      challenge := some (hashOf (slice r.payload 0x10 48), 0)
      image := some (List.replicate 20 0 ++ leBytes 4 128)
      fwSvn := 64
      cert := some [] }
    power := { s.power with uptimeMs := 60000 } }

/-- The request passes checks 2 to 5 and is alone in the queue. -/
def authGood (c action slot arg : Nat) (extra : List Byte) (who : LifeState → Option Signer) (n x y e : Nat) : Bool :=
  let r := auth action slot arg extra n x y e
  let s := authState c r
  one s r 0x71 && r.action == some action && r.authShape extra.length (arg != 0) && s.authReason r ⟨true, who s.life, 0⟩ == 0

theorem witness_openDebug : authGood 2 0x01 0x03 0 [] (onlyIn · .owned .owner) 0
    0xede82be4812f8072188d49722761a9bf655d9b1d8b4ad4b173ec0d36c76de62d590e65ad2331dac05511235fbc63399a
    0xde8fccea1a98a8dc84cf3597dfc428af705d87e3b9ac75f07f87ba513d43a973804704f559ff277a2bedbc8bb266e644
    0x4a04c113f905101f471f2504af4965c5ea79d1ec4be3e019a0ddcc9a791db2961deaf07785bd6e4b07ec627cea470e91 = true := by decide +kernel
theorem witness_lathSvn : authGood 2 0x03 0x00 128 [] ownerOnly 0
    0xb560297ce77655875f94932888f6cc805d0f5adf2292c30e5e45c776737ef54a4c1886e0eb789804e7faf4df652e7100
    0xe477fae655f392acc1dc105f54efac038d8e0a148a8aa37f8ddb694094a06e0a013d650193a5f1f13a21f0021c3fd016
    0xa8159d38378a1e39d1ff34c8335db1a3210d29c687437e4b86eaacf93e2039983f8f37dfbed8b9c205bc453f6ba85051 = true := by decide +kernel
theorem witness_fwSvn : authGood 1 0x04 0xF0 64 [] lathSigner 0
    0x5b1c146564d2d16b8ecf757ae4039552cff1bc0418beb9411330c69c10177f8f97efca6efa19f9c598f1e146f75e9dd9
    0xa3c24c66d86cae33409519e4f713b4ad24e69e96bddf4178c5129398e3ce7781f99c5d1937878c2b07ab8c1277179a74
    0xa0e9da9447323b1ebffa0a8aac357f5b0cab2ed4b8a8f2b88e5fc28aecb16229512b8456c2a5c3a24d7e2d8564a03ac6 = true := by decide +kernel
theorem witness_revoke : authGood 2 0x05 0x00 3 [] ownerOnly 2
    0x7e0772cffbe2468cefc9216cb9644c6149b19ca1ce8d7df0c0f2ed96742f10d2561697fa617e6bdf87c88df10f5aa08a
    0xac9c506664b3894f48c5c8b1f358f666081496598ffe997edd2195bce7b9128d9825065d56197e2b56e2c877f7584c95
    0x15d81bbae8739e68b36a078da6244644e29b5f74ff0f3870403baf99aa31b43a9c1fab984cf03346abc5282f1e793a4f = true := by decide +kernel
theorem witness_cert : authGood 2 0x06 0x00 0 ownCertificate ownerOnly 2
    0x44cb7ec8ff187875c9f572a72ba111357e647aa773709d421fd2b8da593a66b76cb065e344227656ca7a0cf7da48b71c
    0x041edfc02bd7a79f513146220ac931574f6a722095401fbb249c943be9e733512e4a00bfdf2bd4cb793ff57560750d34
    0xed54a497f493e389559d257e2eba3686378e3235fc9c27a3ce3c0feb1396baca77bcc84d8e147be92c8d5863b4a69348 = true := by decide +kernel
theorem witness_addkey : authGood 2 0x08 0x00 2 (List.replicate 48 255) ownerOnly 2
    0xe3f2482678eb936e5c7922485b9084d566f4ad13b843d371bf742437d4be405371c1ed4f7e926a73db2edcecf00166c2
    0xe0cfdbf4f1a1d55daa9a81079f6088fd26882e316ac62dad8aea7d8d0c0c2797934f8ffa1616ed1a25ad261b5bbd0e04
    0xe494f4b0980361fff7d4625396ace208c2a6be485cbc6660bff85393472353ee3c4001cfc0e640f6904c2c6968f66223 = true := by decide +kernel
theorem witness_toBlank : authGood 0 0x10 0xF0 0 [] (onlyIn · .test .vendor) 1
    0x1c1e35a621a55654628442c79b105cb37bd34b6315fdf610e1af6433933a10b25a6cff0e5f15adab049e56ad5b09262e
    0x992c84d6f08cd86778da41c8cb3aa4abd63c1b3cb68cdfe3dc4a45553104e2ca8dbdd67f5bfa838f5089bb0e43bd9239
    0x13cf64bfa67a1d2dd6304ef2053cf65736d1cde5cad27757abdb559e865fd5cd6846224d59296025ce9e3ddf0e79dfd6 = true := by decide +kernel
theorem witness_reblank : authGood 6 0x12 0xF0 0 [] (onlyIn · .ret .vendor) 1
    0xd39ee4ba7b2f2d05d76d3702adad7b804e6e5fae0328b7bdc2e4dc91cd6607a057a5d444a7947877e5c425dca22dcdb4
    0xfff1a4b0a1d889452d26d810e79a6e5a072eed2c07211fe34fe6b3c9969b6ffc659a032cb171b6b55abbcc48017f7ec2
    0xdf189983fd855319e0b0fe90357ab6d646e22b3a8c433b6a732cbfd3fa8dad94f1a3b42cd4f8f4fd2d08755ad2d40fb9 = true := by decide +kernel
theorem witness_returnAction : authGood 2 0x02 0x00 0 [] ownerOnly 0
    0xbf577443408b0f0e3a2d0866447a0ea6cafbf2cb2b75682483c5ccb410ec8059ea3b1f503fbb139c70a578c029c6ef84
    0xe40b3e72cc011a6018aa3e062611217d5f750bb65d2ee6c460b1a88f031fa1eda298bccefa3361e7bb7c04fd16727399
    0x8f47a61c62e23e5e70e00b62d17a510a702afb402a5be3c73b23f3a250f39312f35dafdd92d104f339aecab9fb807dcc = true := by decide +kernel
theorem witness_scrap : authGood 5 0x07 0x03 0 [] lathSigner 1
    0xa0268f63f554bb947c06333bc99237b5ae3b623dc79bf11ad0f6a8a2924ae01d5f47e0a38da50668b3420ab5b5815161
    0x16915c0167b4bb234b2e1624ee9a06aeeb75ef632accb76a3cd42dd93ef2dc0a76f9b8d9c2ca23bb3e80e3777507f94a
    0x69acfb00c45d47d255024a3cdf83adcdebe4f33acb381eea0d4746cfdcb8bb694888ac0fbfff992aa18f017d96ad62ba = true := by decide +kernel
theorem witness_provision : authGood 1 0x11 0xF0 8 (List.replicate 48 255) (onlyIn · .blank .vendor) 1
    0x2f6c897913b5800ffddd0f0a9f546dbb2e69e3594a8ab6a8a136cbeaad11b8521b266f0f1002ce37916fac6ff3808da8
    0x19d68e779ca4cad79e177da2cdc04a51b15c01fe687b53807666ecc98fc02dd064a0d68cce68e4ef01f9e247b56f1e67
    0x326fe19733317f55795ffed089c059da06b83563cec08e7781759350b99be06fcafe451e12c36d09bd870bc1b24baea3 = true := by decide +kernel

theorem witness_AuthorisedActionsBlowFuses :
    let s := authState 2 (auth 0x01 3 0 [] 0 0 0 0)
    let blank := authState 1 (auth 0x01 3 0 [] 0 0 0 0)
    let x := s.fuses.slot 2
    let erasing : State := { serving with smc := { serving.smc with erasing := true }, power := { serving.power with st := .idle } }
    (auth 0x01 3 0 [] 0 0 0 0).authShape 0 false = true ∧ blank.authReason (auth 0x01 3 0 [] 0 0 0 0) ⟨true, onlyIn blank.life .owned .owner, 0⟩ = 4
      ∧ s.fuses.lathSvnMin ≤ 128 ∧ s.smc.image ≠ none ∧ 128 ≤ s.smc.lathSvn ∧ s.fuses.fwSvnMin ≤ 64 ∧ 64 ≤ s.smc.fwSvn
      ∧ (keySlots.any fun j => j != 3 && (s.fuses.slot j).usable) = true ∧ (auth 0x06 0 0 ownCertificate 0 0 0 0).payload.length ≤ 4352
      ∧ x.programmed = false ∧ x.hash = 0 ∧ x.positions (hashOf (List.replicate 48 255)) = 385 ∧ (authState 6 (auth 0x12 0xF0 0 [] 0 0 0 0)).fuses.rcount < 3
      ∧ s.smc.erasing = false ∧ s.busy = false ∧ s.smc.cert ≠ none ∧ 1 ≤ (blank.fuses.provision (maskSlots 8) (List.replicate 48 255) 386).2
      ∧ erasing.smc.erasing = true ∧ erasing.mgtOn = true ∧ erasing.inRun = false ∧ erasing.power.target = none ∧ erasing.dieOn = true
      ∧ erasing.mgt.queue = [] := by decide +kernel


/-! ### Hypotheses of the statements about power, the rate servo, laths, the sweep and repair are met -/

/-- A firmware copy of the shortest length, signed with the key of scalar 1. -/
def firmware : List Byte :=
  leBytes 8 0x46434D5354535548 ++ leBytes 2 1 ++ leBytes 2 0x8128 ++ leBytes 2 0x0241 ++ leBytes 2 0 ++ leBytes 4 0x140
    ++ List.replicate 44 0 ++ [0xF0] ++ List.replicate 15 0 ++ keyBytes g384.1 g384.2
    ++ keyBytes g384.1 0x68f459f1e46f831bea86913e630b7e93d8a4f9e017410616816995446bd5f93f24d10811d750f4361c61f7f962f1501c ++ List.replicate 48 0

/-- STANDBY with that copy in half 1 and the hash of its key in the vendor fuses. -/
def standby : State :=
  { run with
    power := { run.power with st := .standby }
    smc := { run.smc with fw1 := (List.range 320).zip firmware }
    fuses := { run.fuses with vendorHash := 0xa19d4db171b582eb8052b0cfe555e17894aa22d1c8a9770950697dd8f796d2fa4bf0a56ad80006b7ea08e1191f814b65 } }

theorem witness_firmware : standby.fwPasses true = true := by decide +kernel
theorem witness_noFirmware : standby.fwPasses false = false := by decide +kernel
theorem witness_fwChoice : standby.fwChoice = some true := by
  simp only [State.fwChoice, witness_firmware, witness_noFirmware]

theorem witness_PowerStatesFollowTheTransitions :
    let pins : Pins := ⟨4400, true, true, false, false, true⟩
    let at_ (st : PowerState) (t : PowerState) : State :=
      { run with smc := { run.smc with running := true }, power := { run.power with st := st, target := some t } }
    let drained (d : Bool) : State := { run with power := { run.power with pfail := some .level, drained := d } }
    State.reset.power.st = .off ∧ 4400 ≤ pins.vin ∧ pins.vin ≤ 18000 ∧ pins.mrstN = true
      ∧ standby.power.st = .standby ∧ standby.smc.running = false ∧ standby.smc.recovery = false ∧ standby.power.pfail = none
      ∧ State.reset.fwChoice = none ∧ (at_ .standby .idle).power.st = .standby ∧ (at_ .standby .idle).smc.running = true
      ∧ (at_ .standby .idle).power.target = some .idle ∧ (at_ .run .idle).repairing = false ∧ (at_ .run .idle).busy = false
      ∧ (at_ .run .idle).power.st = .run ∧ (at_ .idle .standby).repairing = false ∧ (at_ .idle .run).busy = false
      ∧ run.on = true ∧ run.mgt.waiting = none ∧ (105 : Int) ≤ 105 ∧ run.power.pfail = none
      ∧ (drained false).power.pfail = some .level ∧ (drained false).power.drained = false
      ∧ (drained true).power.pfail.isSome = true ∧ (drained true).power.drained = true := by decide +kernel

/-- Both monitors of every domain read `a` and `b`. -/
def readings (a b : Nat) : List RateReading := List.replicate 35 ⟨a, b, 40⟩

theorem witness_RateServoStepsTheCode :
    let mode (m : Nat) := run.setFieldOf 0x03 0x10 0 2 m
    let target := 10 * run.fieldOf 0x03 0x10 4 8
    let manual := (mode 2).setFieldOf 0x03 0x100 8 7 120
    let moving : State := { run with repair := { run.repair with move := some (5, 33) } }
    run.inRun = true ∧ run.holdExit (readings 1549 1549) = false ∧ (mode 1).holdExit (readings 1550 1550) = false
      ∧ run.domainOn 0 = true ∧ run.domainOn 34 = true ∧ run.domainOn 33 = false ∧ (readings 1549 1549)[(34 : Fin 35).val]? = some ⟨1549, 1549, 40⟩
      ∧ (∀ k : Fin 35, run.domainOn k = true → run.flagOf 0x03 (domReg k) 38 = false) ∧ moving.repair.move ≠ none ∧ moving.smc.op = none
      ∧ moving.domainOn 0 = true ∧ moving.ridgeAt 0 = some 0 ∧ moving.siteOf 0 ≠ none
      ∧ monitorsDisagree 1600 1700 = true ∧ monitorsDisagree 1549 1549 = false ∧ bitOf (run.reg 0x03 (domReg 0)) 38 = false
      ∧ (mode 1).fieldOf 0x03 0x10 0 2 = 1 ∧ run.fieldOf 0x03 0x10 0 2 = 0 ∧ manual.fieldOf 0x03 0x10 0 2 = 2
      ∧ field (manual.reg 0x03 (domReg 0)) 8 7 ≠ 0 ∧ bitOf (manual.reg 0x03 (domReg 0)) 38 = false ∧ manual.holdExit (readings 1 1) = false
      ∧ 1550 < target ∧ target ≤ target ∧ target * 100 ≤ target * 102 ∧ target * 102 < (target * 102 / 100 + 1) * 100 := by
  decide +kernel

/-- A lath operation in RUN. -/
def lathOp (src : LathSource) (phase : LathPhase) (retry : Bool) : State :=
  { serving with smc := { serving.smc with op := some ⟨src, phase, retry, false, 5, []⟩ } }

theorem witness_LathImagesAreCheckedAndApplied :
    let boot : State := { serving with smc := { serving.smc with bootLoad := true }, power := { serving.power with st := .idle } }
    let staged : State := { serving with mgt := { serving.mgt with staged := some [] } }
    let checking := lathOp .slotA .checking false
    let failing : State := (lathOp .push .testing false).setRidge 5 { Ridge.reset with relath := true }
    let ready : State := { failing with repair := { failing.repair with
      sites := failing.repair.sites.set 32 { failing.site 32 with st := 1, passed := 0x3FFFF } } }
    boot.smc.bootLoad = true ∧ boot.smc.running = true ∧ boot.power.st = .idle ∧ boot.power.target = none ∧ boot.smc.op = none
      ∧ boot.smc.eraseFirst = false ∧ oneOf 0x35 [2] = true ∧ serving.lathTurnedAway = false ∧ serving.mgt.session = none
      ∧ serving.power.thermal = false ∧ checking.lathTurnedAway = true ∧ oneOf 0x36 [] = true ∧ staged.mgt.staged = some []
      ∧ staged.lathTurnedAway = false ∧ checking.smc.op = some ⟨.slotA, .checking, false, false, 5, []⟩ ∧ checking.dieOn = true
      ∧ checking.repair.moveQueue = [] ∧ checking.mgt.waiting = none ∧ (lathOp .push .draining false).smc.op.isSome = true
      ∧ (failing.ridge 5).moving = false ∧ failing.repair.moveQueue = [] ∧ failing.repair.swapQueue = [] ∧ checking.repair.swapQueue = [] ∧ failing.mgt.waiting = none
      ∧ ready.repair.move = none ∧ ready.inRun = true ∧ (ready.siteOf 5).isSome = true ∧ (ready.ridge 5).swap = none
      ∧ (ready.ridge 5).offline = false ∧ ready.sram.borrow = none ∧ (ready.freeSites true).head? = some 32 := by
  decide +kernel


/-- The sweep is enabled, with lane rotation. -/
def sweeping : State := run.setReg 0x0B 0x10 3

/-- Site `st` as given. -/
def siteOf (s : State) (st : SiteId) (x : Site) : State := s.setSite st x

theorem witness_SweepTestsResources :
    let ready := siteOf sweeping 33 { (sweeping.site 33) with passed := 0x3FFFF }
    let spare := siteOf sweeping 31 { (sweeping.site 31) with passed := 0x20000 }
    let clear : State := { sweeping with sram := { sweeping.sram with scaffoldPassed := [.ledge 31], lost := [] } }
    let busy (x : Item) : State := { sweeping with repair := { sweeping.repair with items := [x] } }
    let borrowed (n : Nat) : State := { sweeping with sram := { sweeping.sram with
      borrow := some ⟨.bulk 31 31, true⟩, rows := List.replicate n (.bulk 31 31, 0) } }
    let bank : State := { sweeping with dram := { sweeping.dram with testing := [1023] } }
    sweeping.sweeping = true ∧ sweeping.ridgeAt 33 = none ∧ sweeping.siteRetired 33 = false ∧ sweeping.repair.items.contains (.site 33) = false
      ∧ sweeping.repair.move = none ∧ (sweeping.spareSlots 31).contains 17 = true ∧ sweeping.repair.items.contains (.slot 31 17) = false
      ∧ sweeping.itemAvailable (.slot 31 17) = true ∧ sweeping.flagOf 0x0B 0x10 1 = true ∧ spare.ridgeAt 31 = some 31
      ∧ spare.leastTested 31 = some (0, 0) ∧ (spare.ridge 31).swap = none ∧ spare.itemAvailable (.slot 31 (slotOfNat 0)) = true
      ∧ (spare.repair.items.any (slotItemOf 31)) = false ∧ spare.busy = false ∧ spare.readySlots 31 = [17] ∧ spare.ridgeRuns 31 = true
      ∧ scaffoldFor (.bulk 31 31) = some (.ledge 31) ∧ clear.sram.borrow = none ∧ clear.sram.lost.contains (.bulk 31 31) = false
      ∧ clear.scaffoldReady (.ledge 31) = true ∧ clear.itemAvailable (.sram (.bulk 31 31)) = true ∧ clear.sweeping = true
      ∧ sweeping.scaffoldUsed .channelTable = false ∧ sweeping.sram.borrow = none ∧ sweeping.ridgeAvailable 31 = true
      ∧ sweeping.deepUp = true ∧ sweeping.dram.testing.contains (1023 : Fin 1024).val = false
      ∧ ((sweeping.spareBanks false).any fun j => (sweeping.mapEntry j).pb.toNat == 1023) = true
      ∧ (busy (.site 33)).repair.items.contains (.site 33) = true ∧ ready.repair.moveQueue = [] ∧ ready.repair.swapQueue = [] ∧ ready.smc.op = none
      ∧ ((busy (.site 33)).site 33).st ≠ 3
      ∧ (busy (.slot 31 17)).repair.items.contains (.slot 31 17) = true ∧ (busy (.slot 31 17)).repair.moveQueue = []
      ∧ (borrowed 3).sram.borrow = some ⟨.bulk 31 31, true⟩ ∧ (borrowed 3).rowsUsed (.bulk 31 31) < 4
      ∧ 4 ≤ (borrowed 4).rowsUsed (.bulk 31 31) ∧ bank.dram.testing.contains (1023 : Fin 1024).val = true
      ∧ bank.entryOf 1023 = some 1023 ∧ sweeping.inRun = true := by decide +kernel

/-- Window 0 is the first 64 KiB of the deep store, and they are zero. -/
def zeroedWindow : State :=
  let s := sweeping.setReg 0x10 0x100 (2 ^ 24 + 2 ^ 48)
  { s with dram := { s.dram with zeros := [(0, 65536)] } }

theorem zeroedWindow_byte (a : Nat) (h : a < 65536) : zeroedWindow.dram.byte a = 0 := by
  show Sparse.get (zeroedWindow.dram.default a) [] a = 0
  have hz : zeroedWindow.dram.zeroed a = true := by
    show ([(0, 65536)] : List (Nat × Nat)).any _ = true
    simp [h]
  simp [Sparse.get, Dram.default, hz]

theorem zeroedWindow_clean (raw check : Nat) (hr : raw + 8 ≤ 65536) (hc : check < 65536) : zeroedWindow.deepClass raw check = .clean := by
  have h8 : zeroedWindow.deepBytes raw 8 = List.replicate 8 0 := by
    simp only [State.deepBytes, List.range_succ_eq_map]
    have h (i : Nat) (hi : i < 8) := zeroedWindow_byte (raw + i) (by omega)
    have h0 := h 0 (by omega)
    simp only [Nat.add_zero] at h0
    simp [h, h0, List.replicate]
  simp only [State.deepClass, h8, zeroedWindow_byte check hc]
  decide

theorem zeroedWindow_window : zeroedWindow.window 0 = some (0, 65536) := by decide +kernel

theorem witness_WindowScrub : zeroedWindow.deepUp = true ∧ zeroedWindow.flagOf 0x10 (0x100 + 8 * (0 : Fin 16).val) 50 = false ∧ zeroedWindow.window (0 : Fin 16).val = some (0, 65536)
    ∧ ∀ j raw check m, j < 65536 / 8 → zeroedWindow.deepPlace (0 + 8 * j) = .windowed m raw check →
      zeroedWindow.deepClass raw check = .clean := by
  refine ⟨by decide +kernel, by decide +kernel, zeroedWindow_window, fun j raw check m hj h => ?_⟩
  have hf : ((List.range 16).find? fun n =>
      match zeroedWindow.window n with
      | some (b, z) => decide (b ≤ 0 + 8 * j ∧ 0 + 8 * j < b + z)
      | none => false) = some 0 := by
    show (0 :: _).find? _ = _
    rw [List.find?_cons_of_pos]
    simp only [zeroedWindow_window]
    simp; omega
  have hp : zeroedWindow.deepPlace (0 + 8 * j) = if 0 + 8 * j < 0 + 65536 / 8 * 7 then
      .windowed 0 (((0 / 32 + (0 + 8 * j - 0) / 32 / 7 * 8 + (0 + 8 * j - 0) / 32 % 7) * 32 + (0 + 8 * j) % 32))
        ((0 / 32 + (0 + 8 * j - 0) / 32 / 7 * 8 + 7) * 32 + 4 * ((0 + 8 * j - 0) / 32 % 7) + (0 + 8 * j) % 32 / 8)
      else .checkRange := by
    unfold State.deepPlace
    dsimp only
    generalize List.find? _ (List.range 16) = x at hf ⊢
    subst hf
    have hw := zeroedWindow_window
    generalize zeroedWindow.window 0 = y at hw ⊢
    subst hw
    rfl
  rw [hp] at h
  split at h
  · simp only [DeepPlace.windowed.injEq] at h
    exact zeroedWindow_clean raw check (by omega) (by omega)
  · cases h

theorem witness_RidgesMoveAndRecordsCommit :
    let spare := siteOf run 31 { (run.site 31) with passed := 0x20000 }
    let swapping : State := spare.setRidge 31 { (spare.ridge 31) with swap := some 15 }
    let free := siteOf run 33 { (run.site 33) with st := 1, passed := 0x3FFFF }
    let moving : State := { free with repair := { free.repair with moveQueue := [(31, 0)], move := some (31, 33) } }
    let rewriting : State := run.setRidge 31 { (run.ridge 31) with rewrite := [(true, 1023)] }
    let retiring := free.setRidge 31 { (free.ridge 31) with rewrite := [(true, 1023)] }
    let tested : State := { swapping with repair := { swapping.repair with items := [.slot 31 15] } }
    let r : Record := run.newRecord 0x0008 [] []
    let queued : State := { run with cairn := { run.cairn with queue := [r] } }
    let compacting : State := { run with cairn := { run.cairn with compacting := true } }
    let v : BitVec 64 := 0x3FF20 + 220 * 2 ^ 48
    run.siteOf 31 = some 31 ∧ spare.repair.moveQueue = [] ∧ spare.ridgeRuns 31 = true ∧ spare.smc.op = none ∧ (spare.ridge 31).swap = none
      ∧ spare.readySlots 31 ≠ [] ∧ (swapping.ridge 31).swap = some 15 ∧ swapping.readySlots 31 = [17] ∧ swapping.repair.moveQueue = []
      ∧ swapping.siteOf 31 = some 31 ∧ free.inRun = true ∧ free.repair.move = none ∧ free.sram.borrow = none ∧ free.freeSites true = [33]
      ∧ (free.ridge 31).streams = [] ∧ moving.repair.moveQueue = [(31, 0)] ∧ moving.repair.move = some (31, 33) ∧ moving.siteOf 31 = some 31
      ∧ moving.smc.op = none ∧ moving.repair.swapQueue = [] ∧ (rewriting.ridge 31).rewrite = (true, 1023) :: [] ∧ (rewriting.ridge 31).siteFaulty = false
      ∧ rewriting.inRun = true ∧ retiring.freeSites true = [33] ∧ (retiring.ridge 31).rewrite = (true, 1023) :: []
      ∧ serving.repair.swapQueue = [] ∧ (lathOp .push .testing false).smc.op.isSome = true
      ∧ swapping.repair.items = [] ∧ bitOf (swapping.site 31).retired.toNat (slotOfNat (swapping.laneSlot 31 15)).val = false
      ∧ { swapping.site 31 with retired := (swapping.site 31).retired ||| BitVec.ofNat 18 (2 ^ (slotOfNat (swapping.laneSlot 31 15)).val) }.retiredSlots ≤ 2
      ∧ .slot 31 (slotOfNat (swapping.laneSlot 31 15)) ∈ tested.repair.items ∧ queued.flashOn = true ∧ queued.cairn.queue = r :: []
      ∧ queued.cairn.waiting = [] ∧ queued.cairn.segment.length < 49151 ∧ compacting.cairn.compacting = true ∧ compacting.on = true
      ∧ run.cfgReach .smc 0x0C = true ∧ field v.toNat 0 18 = 0x3FF20 ∧ field v.toNat 48 8 = 220 ∧ run.cairn.queue.length < 8 ∧ run.logStop = false
      ∧ ∀ a ∈ wordsOf (mbxBase + 0x3FF20) 220, run.flip a = 0 := by decide +kernel

end Sys2Proof.Tests
end

/-! ### Register accesses (R9 to R14) -/

namespace Sys2Proof.Machine

/-! #### Fields of numbers -/

/-- Putting back a field's own value changes nothing. -/
theorem setField_field_self (v lo w : Nat) : setField v lo w (field v lo w) = v := by
  have hle : field v lo w * 2 ^ lo ≤ v :=
    Nat.le_trans (Nat.mul_le_mul_right _ (Nat.mod_le _ _)) (Nat.div_mul_le_self v (2 ^ lo))
  rw [setField, field, Nat.mod_mod, ← field, Nat.sub_add_cancel hle]

/-- A 64-bit value stays one when a field inside it is set. -/
theorem setField_lt (v lo w x : Nat) (hv : v < 2 ^ 64) (h : lo + w ≤ 64) : setField v lo w x < 2 ^ 64 := by
  apply Nat.lt_pow_two_of_testBit
  intro n hn
  rw [testBit_setField, if_neg (by omega)]
  exact Nat.testBit_lt_two_pow (Nat.lt_of_lt_of_le hv (Nat.pow_le_pow_right (by omega) hn))

theorem field_lt (v lo w : Nat) : field v lo w < 2 ^ w := Nat.mod_lt _ (Nat.two_pow_pos w)

/-- Every field of all ones is all ones. -/
theorem field_allOnes (lo w : Nat) (h : lo + w ≤ 64) : field (2 ^ 64 - 1) lo w = 2 ^ w - 1 := by
  apply Nat.eq_of_testBit_eq
  intro n
  rw [testBit_field, Nat.testBit_two_pow_sub_one, Nat.testBit_two_pow_sub_one]
  by_cases hn : n < w
  · simp [hn, show lo + n < 64 by omega]
  · simp [hn]

/-- The low bytes of a number are those of its remainder. -/
theorem leBytes_mod (n v : Nat) : leBytes n (v % 2 ^ (8 * n)) = leBytes n v := by
  induction n generalizing v with
  | zero => rfl
  | succ n ih =>
    have hp : 2 ^ (8 * (n + 1)) = 256 * 2 ^ (8 * n) := by rw [Nat.mul_add, Nat.pow_add, Nat.mul_comm]
    have hlow : BitVec.ofNat 8 (v % (256 * 2 ^ (8 * n))) = BitVec.ofNat 8 v := by
      apply BitVec.eq_of_toNat_eq
      rw [BitVec.toNat_ofNat, BitVec.toNat_ofNat]
      exact Nat.mod_mul_right_mod v 256 _
    rw [leBytes, leBytes, hp, hlow, Nat.mod_mul_right_div_self, ih]

/-- The bits that a field holds, in place. -/
theorem and_fieldMask (f : Field) (v : Nat) : v &&& f.mask = field v f.lo f.width * 2 ^ f.lo := by
  apply Nat.eq_of_testBit_eq
  intro n
  rw [Field.mask, Nat.testBit_and, Nat.testBit_mul_two_pow, Nat.testBit_mul_two_pow, Nat.testBit_two_pow_sub_one,
    testBit_field]
  by_cases hn : f.lo ≤ n
  · rw [Nat.add_sub_cancel' hn]
    simp [hn, Bool.and_comm]
  · simp [hn]

/-! #### Registers laid out field by field -/

/-- The fields of a register stand in rising order, apart from each other, in its 64 bits. -/
structure FieldsLaid (fs : List Field) : Prop where
  ordered : fs.Pairwise fun f g => f.hi < g.lo
  inside : ∀ f ∈ fs, f.lo ≤ f.hi ∧ f.hi < 64

theorem FieldsLaid.tail {f : Field} {fs : List Field} (h : FieldsLaid (f :: fs)) : FieldsLaid fs :=
  ⟨h.ordered.of_cons, fun g hg => h.inside g (.tail _ hg)⟩

/-- A field inside a register ends at or below its 64th bit. -/
theorem FieldsLaid.width_le {fs : List Field} (h : FieldsLaid fs) {f : Field} (hf : f ∈ fs) :
    0 < f.width ∧ f.lo + f.width ≤ 64 := by
  have := h.inside f hf
  simp only [Field.width]
  omega

/-- The first field and a later one share no bit. -/
theorem FieldsLaid.head_below {f g : Field} {fs : List Field} (h : FieldsLaid (f :: fs)) (hg : g ∈ fs) :
    f.lo + f.width ≤ g.lo := by
  have hlt := List.rel_of_pairwise_cons h.ordered hg
  have := h.inside f (.head _)
  simp only [Field.width]
  omega

/-- In the content that `view` shows, what `step` does for field `f` changes the bits of `f` only. -/
def ChangesOnly {α : Type} (view : α → Nat) (step : α → Field → α) (f : Field) : Prop :=
  ∀ a, ∃ x, view (step a f) = setField (view a) f.lo f.width x

section Fold
variable {α : Type} {view : α → Nat} {step : α → Field → α}

/-- Steps for fields inside 64 bits keep a 64-bit content. -/
theorem foldl_view_lt {fs : List Field} (hl : FieldsLaid fs) (hs : ∀ f ∈ fs, ChangesOnly view step f) (a : α)
    (ha : view a < 2 ^ 64) : view (fs.foldl step a) < 2 ^ 64 := by
  refine foldl_keeps (fun a => view a < 2 ^ 64) step fs a ha fun a f hf ha => ?_
  obtain ⟨x, hx⟩ := hs f hf a
  rw [hx]
  exact setField_lt _ _ _ _ ha (hl.width_le hf).2

/-- Steps for other fields keep a field. -/
theorem field_foldl_disjoint {fs : List Field} (hs : ∀ f ∈ fs, ChangesOnly view step f) (a : α) (lo w : Nat)
    (hd : ∀ f ∈ fs, lo + w ≤ f.lo) : field (view (fs.foldl step a)) lo w = field (view a) lo w := by
  refine foldl_keeps (fun b => field (view b) lo w = field (view a) lo w) step fs a rfl fun b f hf hb => ?_
  obtain ⟨x, hx⟩ := hs f hf b
  rw [hx, field_setField_disjoint _ _ _ _ _ _ (.inl (hd f hf)), hb]

/-- After the steps of all fields a field holds what its own step makes of its old value. -/
theorem field_foldl_own {fs : List Field} (hl : FieldsLaid fs) (hs : ∀ f ∈ fs, ChangesOnly view step f) (a : α)
    {f : Field} (hf : f ∈ fs) :
    ∃ b, field (view b) f.lo f.width = field (view a) f.lo f.width
      ∧ field (view (fs.foldl step a)) f.lo f.width = field (view (step b f)) f.lo f.width := by
  induction fs generalizing a with
  | nil => cases hf
  | cons g gs ih =>
    have hgs : ∀ f ∈ gs, ChangesOnly view step f := fun f hf => hs f (.tail _ hf)
    cases hf with
    | head => exact ⟨a, rfl, field_foldl_disjoint hgs (step a f) _ _ fun k hk => hl.head_below hk⟩
    | tail _ hf =>
      obtain ⟨b, hb, hr⟩ := ih hl.tail hgs (step a g) hf
      obtain ⟨x, hx⟩ := hs g (.head _) a
      refine ⟨b, ?_, hr⟩
      rw [hb, hx, field_setField_disjoint _ _ _ _ _ _ (.inr (hl.head_below hf))]

end Fold

/-! #### A write, field by field -/

/-- A write's step for one field changes that field only. -/
theorem Field.write_changesOnly (whole : Bool) (v mask : Nat) (f : Field) :
    ChangesOnly WriteResult.new (fun acc f => f.write whole v mask acc) f := by
  intro a
  have hself : ∃ x, a.new = setField a.new f.lo f.width x := ⟨_, (setField_field_self _ _ _).symm⟩
  simp only [Field.write]
  split
  · split
    · exact hself
    · split
      · exact ⟨_, rfl⟩
      · exact hself
  · split
    · exact hself
    · split <;> exact hself
  · exact ⟨_, rfl⟩
  · exact ⟨_, rfl⟩
  · exact hself
  · exact hself

/-- An error noted stays noted. -/
theorem Field.write_err_mono (f : Field) (whole : Bool) (v mask : Nat) (a : WriteResult) (h : a.err = true) :
    (f.write whole v mask a).err = true := by
  simp only [Field.write]
  split
  · split
    · exact h
    · split
      · exact h
      · rfl
  · split
    · exact h
    · split
      · exact h
      · rfl
  all_goals exact h

theorem foldl_write_err_mono (fs : List Field) (whole : Bool) (v mask : Nat) (a : WriteResult) (h : a.err = true) :
    (fs.foldl (fun acc f => f.write whole v mask acc) a).err = true :=
  foldl_keeps (fun a => a.err = true) _ fs a h fun a f _ ha => f.write_err_mono whole v mask a ha

/-- An error of one field's step is an error of the whole write. -/
theorem foldl_write_err (fs : List Field) (whole : Bool) (v mask : Nat) (a : WriteResult) {f : Field} (hf : f ∈ fs)
    (h : ∀ b, (f.write whole v mask b).err = true) :
    (fs.foldl (fun acc f => f.write whole v mask acc) a).err = true := by
  induction fs generalizing a with
  | nil => cases hf
  | cons g gs ih =>
    cases hf with
    | head => exact foldl_write_err_mono gs whole v mask _ (h a)
    | tail _ hf => exact ih _ hf

/-- R10, R13: a write of all 64 bits replaces an RW field by its defined value and refuses a reserved encoding. -/
theorem Field.write_rw_full (f : Field) (v : Nat) (a : WriteResult) (hacc : f.acc = .rw) (hw : 0 < f.width)
    (hin : f.lo + f.width ≤ 64) :
    f.write false v (2 ^ 64 - 1) a
      = if f.ok (field v f.lo f.width) then { a with new := setField a.new f.lo f.width (field v f.lo f.width) }
        else { a with err := true } := by
  have hm : 2 ^ f.width - 1 ≠ 0 := by
    have := Nat.one_lt_two_pow (Nat.ne_of_gt hw)
    omega
  simp only [Field.write, hacc, field_allOnes f.lo f.width hin, if_neg hm, Bool.false_and, Bool.false_eq_true, if_false,
    Nat.and_two_pow_sub_one_of_lt_two_pow (field_lt _ _ _), Nat.sub_self, Nat.zero_add]

/-- R10: a write leaves a field read-only by its code as it is. -/
theorem Field.write_readOnly (f : Field) (v mask : Nat) (a : WriteResult) (hacc : f.acc = .ro ∨ f.acc = .rc) :
    f.write false v mask a = a := by
  rcases hacc with h | h <;> simp [Field.write, h]

/-- R10: a zero written to a W1C field has no effect. -/
theorem Field.write_w1c_zero (f : Field) (v mask : Nat) (a : WriteResult) (hacc : f.acc = .w1c)
    (h0 : field v f.lo f.width = 0) : f.write false v mask a = a := by
  simp [Field.write, hacc, h0, setField_field_self]

/-- R10: ones written to a W1C field clear it. -/
theorem Field.write_w1c_ones (f : Field) (v : Nat) (a : WriteResult) (hacc : f.acc = .w1c) (hin : f.lo + f.width ≤ 64)
    (h1 : field v f.lo f.width = 2 ^ f.width - 1) :
    f.write false v (2 ^ 64 - 1) a = { a with new := setField a.new f.lo f.width 0 } := by
  simp only [Field.write, hacc, Bool.false_and, Bool.false_eq_true, if_false, field_allOnes f.lo f.width hin, h1,
    Nat.and_two_pow_sub_one_of_lt_two_pow (field_lt _ _ _), Nat.sub_self]

/-- A register without reserved combinations: a write is the steps of its fields in turn. -/
theorem Reg.write_of_keep_nil (r : Reg) (old v mask : Nat) (hlath : r.lathOnly = false)
    (hkeep : ∀ o n, r.keep o n = []) :
    r.write false old v mask
      = r.fields.foldl (fun acc f => f.write false v mask acc) ⟨old, 0, (v &&& mask &&& r.reserved) != 0⟩ := by
  simp [Reg.write, hlath, hkeep]

/-! #### A read, field by field -/

/-- What a read of all 64 bits leaves of one field. -/
theorem afterRead_step (f : Field) (acc : Nat) (hin : f.lo + f.width ≤ 64) :
    (if f.acc == .rc then acc - (acc &&& f.mask &&& (2 ^ 64 - 1)) else acc)
      = setField acc f.lo f.width (if f.acc = .rc then 0 else field acc f.lo f.width) := by
  by_cases h : f.acc = .rc
  · have hlt : field acc f.lo f.width * 2 ^ f.lo < 2 ^ 64 :=
      calc field acc f.lo f.width * 2 ^ f.lo
        _ < 2 ^ f.width * 2 ^ f.lo := Nat.mul_lt_mul_of_pos_right (field_lt _ _ _) (Nat.two_pow_pos _)
        _ = 2 ^ (f.lo + f.width) := by rw [Nat.mul_comm, Nat.pow_add]
        _ ≤ 2 ^ 64 := Nat.pow_le_pow_right (by omega) hin
    simp only [h, beq_self_eq_true, if_true, and_fieldMask, Nat.and_two_pow_sub_one_of_lt_two_pow hlt, setField,
      Nat.zero_mod, Nat.zero_mul, Nat.add_zero]
  · simp [h, setField_field_self]

/-- A read never adds to a register. -/
theorem Reg.afterRead_le (r : Reg) (old mask : Nat) : r.afterRead old mask ≤ old := by
  refine foldl_keeps (· ≤ old) _ r.fields old (Nat.le_refl old) fun acc f _ h => ?_
  split
  · exact Nat.le_trans (Nat.sub_le _ _) h
  · exact h

/-- R10: a read of all 64 bits clears the RC fields and keeps the others. -/
theorem Reg.field_afterRead (r : Reg) (old : Nat) (hl : FieldsLaid r.fields) {f : Field} (hf : f ∈ r.fields) :
    field (r.afterRead old (2 ^ 64 - 1)) f.lo f.width = if f.acc = .rc then 0 else field old f.lo f.width := by
  have hs : ∀ f ∈ r.fields, ChangesOnly id
      (fun acc f => if f.acc == .rc then acc - (acc &&& f.mask &&& (2 ^ 64 - 1)) else acc) f :=
    fun f hf acc => ⟨_, afterRead_step f acc (hl.width_le hf).2⟩
  obtain ⟨b, hb, hr⟩ := field_foldl_own hl hs old hf
  simp only [id_eq, afterRead_step f b (hl.width_le hf).2, field_setField] at hb hr
  rw [Reg.afterRead, hr, hb]
  split
  · exact Nat.zero_mod _
  · exact Nat.mod_eq_of_lt (field_lt _ _ _)

/-! #### Registers of the plain blocks: RSV, SM, CT and SWP -/

/-- The blocks whose registers do nothing beyond the access codes of their fields. -/
def PlainBlock (b : Nat) : Prop := b = 0x03 ∨ b = 0x04 ∨ b = 0x05 ∨ b = 0x0B

/-- The fields of a status register: CFGERR, then fields that a write only clears or ignores (R14). -/
def StatusFields (fs : List Field) : Prop :=
  ∃ rest, fs = fld 0 0 .w1c :: rest ∧ ∀ f ∈ rest, f.acc = .w1c ∨ f.acc = .ro ∨ f.acc = .rc

/-- What the register at `off` of a plain block looks like. -/
structure Reg.PlainAt (r : Reg) (off : Nat) : Prop where
  laid : FieldsLaid r.fields
  keepsNone : r.lathOnly = false → ∀ old new, r.keep old new = []
  data : off ≠ 8 → r.lathOnly = false → ∀ f ∈ r.fields, f.acc = .rw ∨ f.acc = .ro ∨ f.acc = .rc
  status : off = 8 → r.lathOnly = false ∧ r.reserved.testBit 0 = false ∧ StatusFields r.fields

/-- A status register without reserved combinations. -/
theorem Reg.plainAt_status (reset : Nat) {fs : List Field} (hl : FieldsLaid fs) (hs : StatusFields fs)
    (hr : (Reg.mk reset fs false fun _ _ => []).reserved.testBit 0 = false) :
    (Reg.mk reset fs false fun _ _ => []).PlainAt 8 :=
  ⟨hl, fun _ _ _ => rfl, fun h => absurd rfl h, fun _ => ⟨rfl, hr, hs⟩⟩

/-- A register that software writes, without reserved combinations. -/
theorem Reg.plainAt_data (reset : Nat) {off : Nat} {fs : List Field} (ho : off ≠ 8) (hl : FieldsLaid fs)
    (hd : ∀ f ∈ fs, f.acc = .rw ∨ f.acc = .ro ∨ f.acc = .rc) :
    (Reg.mk reset fs false fun _ _ => []).PlainAt off :=
  ⟨hl, fun _ _ _ => rfl, fun _ _ => hd, fun h => absurd h ho⟩

/-- A register that only lath records write. -/
theorem Reg.plainAt_lathOnly (reset : Nat) {off : Nat} {fs : List Field} (keep : Nat → Nat → List (Nat × Nat)) (ho : off ≠ 8)
    (hl : FieldsLaid fs) : (Reg.mk reset fs true keep).PlainAt off :=
  ⟨hl, nofun, nofun, fun h => absurd h ho⟩

theorem cfgerrOnly_plainAt : cfgerrOnly.PlainAt 8 :=
  Reg.plainAt_status 0 ⟨by decide, by decide⟩ ⟨[], rfl, by decide⟩ (by decide)

theorem rsvReg_plainAt {off : Nat} {r : Reg} (h : rsvReg off = some r) : r.PlainAt off := by
  unfold rsvReg at h
  split at h
  · next h8 =>
    cases h
    exact h8 ▸ Reg.plainAt_status _ ⟨by decide, by decide⟩ ⟨_, rfl, by decide⟩ (by decide)
  next h8 =>
  split at h
  · cases h
    exact Reg.plainAt_data _ h8 ⟨by decide, by decide⟩ (by decide)
  split at h
  · cases h
    exact Reg.plainAt_data _ h8 ⟨by decide, by decide⟩ (by decide)
  split at h
  · cases h
    exact Reg.plainAt_data _ h8 ⟨by decide, by decide⟩ (by decide)
  · cases h

theorem smReg_plainAt {off : Nat} {r : Reg} (h : smReg off = some r) : r.PlainAt off := by
  unfold smReg at h
  split at h
  · next h8 =>
    cases h
    exact h8 ▸ cfgerrOnly_plainAt
  next h8 =>
  split at h
  · cases h
    exact Reg.plainAt_data _ h8 ⟨by decide, by decide⟩ (by decide)
  split at h
  · cases h
    exact Reg.plainAt_lathOnly _ _ h8 ⟨by decide, by decide⟩
  split at h
  · cases h
    exact Reg.plainAt_lathOnly _ _ h8 ⟨by decide, by decide⟩
  · cases h
    exact Reg.plainAt_data _ h8 ⟨by decide, by decide⟩ (by decide)
  · split at h
    · cases h
      exact Reg.plainAt_data _ h8 ⟨by decide, by decide⟩ (by decide)
    · cases h
  · cases h

theorem ctReg_plainAt {off : Nat} {r : Reg} (h : ctReg off = some r) : r.PlainAt off := by
  unfold ctReg at h
  split at h
  · next h8 =>
    cases h
    exact h8 ▸ cfgerrOnly_plainAt
  next h8 =>
  split at h
  · cases h
    exact Reg.plainAt_data _ h8 ⟨by decide, by decide⟩ (by decide)
  · cases h

theorem swpReg_plainAt {off : Nat} {r : Reg} (h : swpReg off = some r) : r.PlainAt off := by
  unfold swpReg at h
  split at h
  · next h8 =>
    cases h
    exact h8 ▸ Reg.plainAt_status _ ⟨by decide, by decide⟩ ⟨_, rfl, by decide⟩ (by decide)
  next h8 =>
  split at h
  · cases h
    exact Reg.plainAt_data _ h8 ⟨by decide, by decide⟩ (by decide)
  · cases h

theorem regDesc_plainAt {b off : Nat} {r : Reg} (hb : PlainBlock b) (h : regDesc b off = some r) : r.PlainAt off := by
  by_cases ho : off % 8 ≠ 0
  · rw [regDesc, if_pos ho] at h
    cases h
  · rw [regDesc, if_neg ho] at h
    rcases hb with rfl | rfl | rfl | rfl
    · exact rsvReg_plainAt h
    · exact smReg_plainAt h
    · exact ctReg_plainAt h
    · exact swpReg_plainAt h

/-- Every plain block has a status register. -/
theorem regDesc_plain_status {b : Nat} (hb : PlainBlock b) : ∃ r, regDesc b 8 = some r := by
  rcases hb with rfl | rfl | rfl | rfl <;> exact ⟨_, rfl⟩

section PlainWrite
variable {r : Reg} {off : Nat} (hr : r.PlainAt off) (hlath : r.lathOnly = false) (old v : Nat)
include hr hlath

/-- A write of a register leaves a 64-bit value. -/
theorem Reg.PlainAt.write_new_lt (mask : Nat) (hold : old < 2 ^ 64) : (r.write false old v mask).new < 2 ^ 64 := by
  rw [r.write_of_keep_nil old v mask hlath (hr.keepsNone hlath)]
  exact foldl_view_lt hr.laid (fun f _ => f.write_changesOnly false v mask) _ hold

/-- R12: a nonzero value for reserved bits is an error. -/
theorem Reg.PlainAt.write_err_of_reserved (hv : v < 2 ^ 64) (h : v &&& r.reserved ≠ 0) :
    (r.write false old v (2 ^ 64 - 1)).err = true := by
  rw [r.write_of_keep_nil old v _ hlath (hr.keepsNone hlath)]
  refine foldl_write_err_mono _ _ _ _ _ ?_
  rw [Nat.and_two_pow_sub_one_of_lt_two_pow hv]
  exact bne_iff_ne.2 h

/-- R13: a reserved encoding of an RW field is an error. -/
theorem Reg.PlainAt.write_err_of_encoding {f : Field} (hf : f ∈ r.fields) (hacc : f.acc = .rw)
    (hok : f.ok (field v f.lo f.width) = false) : (r.write false old v (2 ^ 64 - 1)).err = true := by
  obtain ⟨hpos, hin⟩ := hr.laid.width_le hf
  rw [r.write_of_keep_nil old v _ hlath (hr.keepsNone hlath)]
  refine foldl_write_err _ _ _ _ _ hf fun b => ?_
  rw [f.write_rw_full v b hacc hpos hin, hok]
  rfl

/-- R10, R13: every field after a write of all 64 bits. -/
theorem Reg.PlainAt.field_write (ho : off ≠ 8) {f : Field} (hf : f ∈ r.fields) :
    field (r.write false old v (2 ^ 64 - 1)).new f.lo f.width
      = if f.acc = .rw ∧ f.ok (field v f.lo f.width) = true then field v f.lo f.width else field old f.lo f.width := by
  obtain ⟨hpos, hin⟩ := hr.laid.width_le hf
  rw [r.write_of_keep_nil old v _ hlath (hr.keepsNone hlath)]
  obtain ⟨b, hb, hres⟩ := field_foldl_own hr.laid (fun f _ => f.write_changesOnly false v (2 ^ 64 - 1))
    ⟨old, 0, (v &&& (2 ^ 64 - 1) &&& r.reserved) != 0⟩ hf
  refine hres.trans ?_
  rcases hr.data ho hlath f hf with hacc | hacc
  · rw [f.write_rw_full v b hacc hpos hin]
    by_cases hok : f.ok (field v f.lo f.width) = true
    · rw [if_pos hok, if_pos ⟨hacc, hok⟩, field_setField, Nat.mod_eq_of_lt (field_lt _ _ _)]
    · rw [if_neg hok, if_neg fun h => hok h.2]
      exact hb
  · rw [f.write_readOnly v _ b hacc, if_neg fun h => by simp [h.1] at hacc]
    exact hb

end PlainWrite

/-- R14: a write of 1 to a status register clears CFGERR, does nothing else and is no error. -/
theorem Reg.PlainAt.write_status_one {r : Reg} (hr : r.PlainAt 8) (old : Nat) :
    r.write false old 1 (2 ^ 64 - 1) = ⟨setField old 0 1 0, 0, false⟩ := by
  obtain ⟨hlath, hres, rest, hfs, hrest⟩ := hr.status rfl
  have herr : (1 &&& (2 ^ 64 - 1) &&& r.reserved) = 0 := by
    rw [show 1 &&& (2 ^ 64 - 1) = 1 from rfl, Nat.one_and_eq_mod_two, Nat.mod_two_eq_zero_iff_testBit_zero]
    exact hres
  have hhead (a : WriteResult) :
      (fld 0 0 .w1c).write false 1 (2 ^ 64 - 1) a = { a with new := setField a.new 0 1 0 } :=
    Field.write_w1c_ones _ 1 a rfl (by decide) rfl
  have htail (a : WriteResult) : rest.foldl (fun acc f => f.write false 1 (2 ^ 64 - 1) acc) a = a := by
    refine foldl_keeps (· = a) _ rest a rfl fun b f hf hb => ?_
    subst hb
    rcases hrest f hf with hacc | hacc
    · refine f.write_w1c_zero _ _ b hacc ?_
      have hlo : 0 + 1 ≤ f.lo := (hfs ▸ hr.laid).head_below hf
      rw [field, Nat.div_eq_of_lt (Nat.one_lt_two_pow (by omega)), Nat.zero_mod]
    · exact f.write_readOnly _ _ b hacc
  rw [r.write_of_keep_nil old 1 _ hlath (hr.keepsNone hlath), herr, hfs, List.foldl_cons, hhead, htail]
  rfl

/-! #### What an access does to the state -/

/-- The state with a register at `v`; a register that holds `v` is not written. -/
def State.storeReg (s : State) (b o v : Nat) : State := if v = s.reg b o then s else s.setReg b o v

section StoreReg
variable (s : State) (b o v : Nat)

theorem State.storeReg_frame : s.storeReg b o v = { s with regs := (s.storeReg b o v).regs } := by
  unfold State.storeReg
  split <;> rfl

theorem State.reg_storeReg (hv : v < 2 ^ 64) : (s.storeReg b o v).reg b o = v := by
  unfold State.storeReg
  split
  · next h => exact h.symm
  · rw [State.reg_setReg, Nat.mod_eq_of_lt hv]

theorem State.reg_storeReg_ne (b' o' : Nat) (h : regKey b' o' ≠ regKey b o) :
    (s.storeReg b o v).reg b' o' = s.reg b' o' := by
  unfold State.storeReg
  split
  · rfl
  · exact s.reg_setReg_ne b o v b' o' h

theorem State.storeReg_onlyRegs : s.OnlyRegs (s.storeReg b o v) [(b, o)] :=
  fun b' o' h => s.reg_storeReg_ne b o v b' o' (h (b, o) (.head _))

end StoreReg

/-- Offsets of one block tell its registers apart. -/
theorem regKey_ne_of_off {o o' : Nat} (b : Nat) (h : o ≠ o') : regKey b o ≠ regKey b o' :=
  fun he => h (Nat.add_left_cancel he)

section WritePlain
variable (s : State) (b o : Nat) (w : WriteResult)

theorem State.writePlain_eq :
    s.writePlain b o w = if w.err then (s.storeReg b o w.new).cfgerr b else s.storeReg b o w.new := rfl

theorem State.writePlain_frame : s.writePlain b o w = { s with regs := (s.writePlain b o w).regs } := by
  have h := s.storeReg_frame b o w.new
  rw [State.writePlain_eq]
  split
  · exact congrArg (fun t : State => { t with regs := ((s.storeReg b o w.new).cfgerr b).regs }) h
  · exact h

theorem State.writePlain_onlyRegs : s.OnlyRegs (s.writePlain b o w) [(b, o), (b, 0x08)] := by
  intro b' o' h
  have hs := s.reg_storeReg_ne b o w.new b' o' (h (b, o) (.head _))
  rw [State.writePlain_eq]
  split
  · rw [State.cfgerr_reg_ne _ _ _ _ (h (b, 0x08) (.tail _ (.head _))), hs]
  · exact hs

theorem State.reg_writePlain (ho : o ≠ 8) (hw : w.new < 2 ^ 64) : (s.writePlain b o w).reg b o = w.new := by
  rw [State.writePlain_eq]
  split
  · rw [State.cfgerr_reg_ne _ _ _ _ (regKey_ne_of_off b ho), s.reg_storeReg b o _ hw]
  · exact s.reg_storeReg b o _ hw

/-- CFGERR after a plain write: as before, or set by an error. -/
theorem State.writePlain_cfgerr (ho : o ≠ 8) :
    (s.writePlain b o w).flagOf b 0x08 0 = (s.flagOf b 0x08 0 || w.err) := by
  rw [State.writePlain_eq]
  cases w.err with
  | true => rw [if_pos rfl, State.cfgerr_flagOf, Bool.or_true]
  | false =>
    rw [if_neg Bool.false_ne_true, Bool.or_false, State.flagOf, State.flagOf,
      s.reg_storeReg_ne b o _ b 8 (regKey_ne_of_off b ho.symm)]

end WritePlain

/-- An access of 8 bytes at an aligned offset covers the register at that offset, every bit of it in place. -/
theorem wholeAccess {o : Nat} (ho : o % 8 = 0) :
    regAccessOk o 8 = true ∧ o / 8 * 8 = o ∧ accessMask o 8 = 2 ^ 64 - 1
      ∧ ∀ v < 2 ^ 64, v % 2 ^ (8 * 8) * 2 ^ (8 * (o % 8)) = v :=
  ⟨by simp [regAccessOk, ho], Nat.div_mul_cancel (Nat.dvd_of_mod_eq_zero ho), by simp [accessMask, ho],
    fun v hv => by rw [ho, Nat.mod_eq_of_lt hv, Nat.mul_zero, Nat.pow_zero, Nat.mul_one]⟩

section Access
variable {s : State} {b : Nat} (hblk : s.blockOf b = b)
include hblk

/-- R9: a write of another size or alignment sets CFGERR. -/
theorem State.cfgWrite_badAccess (o size v : Nat) (h : regAccessOk o size = false) :
    s.cfgWrite false b o size v = s.cfgerr b := by
  simp [State.cfgWrite, hblk, h]

/-- R9: a read of another size or alignment answers zero and sets CFGERR. -/
theorem State.cfgRead_badAccess (o size : Nat) (h : regAccessOk o size = false) :
    s.cfgRead b o size = (0, s.cfgerr b) := by
  simp [State.cfgRead, hblk, h]

/-- R12: a write to an offset without a register. -/
theorem State.cfgWrite_undefined (o v : Nat) (ho : o % 8 = 0) (hv : v < 2 ^ 64) (h : regDesc b o = none) :
    s.cfgWrite false b o 8 v = if v = 0 then s else s.cfgerr b := by
  obtain ⟨hok, hk, -, hval⟩ := wholeAccess ho
  simp only [State.cfgWrite, hblk, hok, hk, h, hval v hv]
  rfl

/-- R12: a read of an offset without a register. -/
theorem State.cfgRead_undefined (o : Nat) (ho : o % 8 = 0) (h : regDesc b o = none) : s.cfgRead b o 8 = (0, s) := by
  have hbxc : ¬(b = 0x07 ∧ o = 0x20) := by
    rintro ⟨rfl, rfl⟩
    cases h
  obtain ⟨hok, hk, -⟩ := wholeAccess ho
  simp only [State.cfgRead, hblk, hok, hk, h, and_true, if_neg hbxc]
  rfl

/-- R30: software's write of a register that only lath records write sets CFGERR. -/
theorem State.cfgWrite_lathOnly (o v : Nat) {r : Reg} (ho : o % 8 = 0) (h : regDesc b o = some r) (hlath : r.lathOnly = true) :
    s.cfgWrite false b o 8 v = s.cfgerr b := by
  obtain ⟨hok, hk, -⟩ := wholeAccess ho
  simp only [State.cfgWrite, hblk, hok, hk, h, hlath]
  rfl

/-- A write in a plain block does what the access codes of the register's fields say, to the bits it covers. -/
theorem State.cfgWrite_plain (o size v : Nat) {r : Reg} (hb : PlainBlock b) (hok : regAccessOk o size = true)
    (h : regDesc b (o / 8 * 8) = some r) (hlath : r.lathOnly = false) :
    s.cfgWrite false b o size v
      = s.writePlain b (o / 8 * 8)
          (r.write false (s.reg b (o / 8 * 8)) (v % 2 ^ (8 * size) * 2 ^ (8 * (o % 8))) (accessMask o size)) := by
  simp only [State.cfgWrite, hblk, hok, h, hlath]
  rcases hb with rfl | rfl | rfl | rfl <;> rfl

/-- A write of a whole register of a plain block. -/
theorem State.cfgWrite_plain_whole (o v : Nat) {r : Reg} (hb : PlainBlock b) (ho : o % 8 = 0) (hv : v < 2 ^ 64)
    (h : regDesc b o = some r) (hlath : r.lathOnly = false) :
    s.cfgWrite false b o 8 v = s.writePlain b o (r.write false (s.reg b o) v (2 ^ 64 - 1)) := by
  obtain ⟨hok, hk, hmask, hval⟩ := wholeAccess ho
  rw [State.cfgWrite_plain hblk o 8 v hb hok (hk.symm ▸ h) hlath, hk, hmask, hval v hv]

/-- A read outside the timer block returns the bits it covers as they stand and clears RC fields among them. -/
theorem State.cfgRead_defined (o size : Nat) {r : Reg} (hb : b ≠ 0x07) (hok : regAccessOk o size = true)
    (h : regDesc b (o / 8 * 8) = some r) :
    s.cfgRead b o size
      = (field (s.regView b (o / 8 * 8)) (8 * (o % 8)) (8 * size),
          s.storeReg b (o / 8 * 8) (r.afterRead (s.reg b (o / 8 * 8)) (accessMask o size))) := by
  simp only [State.cfgRead, hblk, hok, h, hb, false_and, if_false, State.storeReg]
  rfl

end Access

/-! #### The two commands -/

section Commands
variable {s : State} {m : Master} {blk : BitVec 8} (hreach : s.cfgReach m blk.toNat = true)
include hreach

theorem exec_registerWrite (off : BitVec 16) (size : Nat) (v : BitVec 64) :
    exec (.registerWrite m blk off size v) s = .next (s.cfgWrite false blk.toNat off.toNat size v.toNat) := by
  show Host.Outcome.next (s.cfgStore m blk.toNat off.toNat size v.toNat) = _
  rw [State.cfgStore, if_pos hreach]

theorem exec_readClear (off : BitVec 16) (size : Nat) :
    exec (.readClear m blk off size) s
      = .next { (s.cfgRead blk.toNat off.toNat size).2 with
          readData := leBytes size (s.cfgRead blk.toNat off.toNat size).1 } := by
  show (if s.cfgReach m blk.toNat then _ else _) = _
  rw [if_pos hreach]

variable (hblk : s.blockOf blk.toNat = blk.toNat)
include hblk

/-- A read of a register outside the timer block: the answer, the register's content, and that nothing else changes. -/
theorem readClear_answers (off : BitVec 16) (size : Nat) {r : Reg} (hb : blk.toNat ≠ 0x07)
    (hok : regAccessOk off.toNat size = true) {k : Nat} (hk : k = off.toNat / 8 * 8) (h : regDesc blk.toNat k = some r) :
    Answers (.readClear m blk off size) s fun s' =>
      s'.readData = leBytes size (field (s.regView blk.toNat k) (8 * (off.toNat % 8)) (8 * size))
      ∧ s'.reg blk.toNat k = r.afterRead (s.reg blk.toNat k) (accessMask off.toNat size)
      ∧ s.OnlyRegs s' [(blk.toNat, k)]
      ∧ s' = { s with regs := s'.regs, readData := s'.readData } := by
  subst hk
  refine ⟨_, exec_readClear hreach off size, ?_⟩
  rw [State.cfgRead_defined hblk off.toNat size hb hok h]
  refine ⟨rfl, s.reg_storeReg _ _ _ (Nat.lt_of_le_of_lt (r.afterRead_le _ _) (s.reg_lt _ _)), s.storeReg_onlyRegs _ _ _, ?_⟩
  exact congrArg (fun t : State => { t with
    readData := leBytes size (field (s.regView blk.toNat (off.toNat / 8 * 8)) (8 * (off.toNat % 8)) (8 * size)) })
    (s.storeReg_frame _ _ _)

/-- A write of a register of a plain block other than STATUS: the register's content, CFGERR, and that nothing else
changes. -/
theorem registerWrite_answers (off : BitVec 16) (size : Nat) (v : BitVec 64) {r : Reg} (hb : PlainBlock blk.toNat)
    (hok : regAccessOk off.toNat size = true) {k : Nat} (hk : k = off.toNat / 8 * 8) (h : regDesc blk.toNat k = some r)
    (hlath : r.lathOnly = false) (h8 : k ≠ 8) {w : WriteResult}
    (hw : w = r.write false (s.reg blk.toNat k) (v.toNat % 2 ^ (8 * size) * 2 ^ (8 * (off.toNat % 8)))
      (accessMask off.toNat size)) :
    Answers (.registerWrite m blk off size v) s fun s' =>
      s'.reg blk.toNat k = w.new
      ∧ s'.flagOf blk.toNat 0x08 0 = (s.flagOf blk.toNat 0x08 0 || w.err)
      ∧ s.OnlyRegs s' [(blk.toNat, k), (blk.toNat, 0x08)] ∧ s' = { s with regs := s'.regs } := by
  subst hk hw
  refine ⟨_, exec_registerWrite hreach off size v, ?_⟩
  rw [State.cfgWrite_plain hblk off.toNat size v.toNat hb hok h hlath]
  have hlt := (regDesc_plainAt hb h).write_new_lt hlath (s.reg blk.toNat (off.toNat / 8 * 8))
    (v.toNat % 2 ^ (8 * size) * 2 ^ (8 * (off.toNat % 8))) (accessMask off.toNat size) (s.reg_lt _ _)
  exact ⟨s.reg_writePlain _ _ _ h8 hlt, s.writePlain_cfgerr _ _ _ h8, s.writePlain_onlyRegs _ _ _, s.writePlain_frame _ _ _⟩

/-- R14: CFGERR of a plain block is cleared by writing one, and nothing else changes. -/
theorem registerWrite_clears_cfgerr (off : BitVec 16) (hb : PlainBlock blk.toNat) (ho : off.toNat = 8) :
    Answers (.registerWrite m blk off 8 1) s fun s' =>
      s'.reg blk.toNat 8 = setField (s.reg blk.toNat 8) 0 1 0
      ∧ s.OnlyRegs s' [(blk.toNat, 8)] ∧ s' = { s with regs := s'.regs } := by
  obtain ⟨r, h⟩ := regDesc_plain_status hb
  have hr := regDesc_plainAt hb h
  have hwrite : s.cfgWrite false blk.toNat 8 8 1 = s.storeReg blk.toNat 8 (setField (s.reg blk.toNat 8) 0 1 0) :=
    calc s.cfgWrite false blk.toNat 8 8 1
      _ = s.writePlain blk.toNat 8 (r.write false (s.reg blk.toNat 8) 1 (2 ^ 64 - 1)) :=
        State.cfgWrite_plain_whole hblk 8 1 hb rfl (by decide) h (hr.status rfl).1
      _ = _ := by rw [hr.write_status_one, State.writePlain_eq, if_neg Bool.false_ne_true]
  have hexec := exec_registerWrite hreach off 8 1
  rw [ho, show (1 : BitVec 64).toNat = 1 from rfl, hwrite] at hexec
  have hlt := setField_lt (s.reg blk.toNat 8) 0 1 0 (s.reg_lt _ _) (by omega)
  exact ⟨_, hexec, s.reg_storeReg _ _ _ hlt, s.storeReg_onlyRegs _ _ _, s.storeReg_frame _ _ _⟩

end Commands

/-- Settles O57: each clause is what `cfgWrite` or `cfgRead` does on its branch; the field clauses follow from
the registers' fields standing apart from each other. -/
theorem registerAccessesFollowTheAccessCodes : Obligations.RegisterAccessesFollowTheAccessCodes := by
  unfold Obligations.RegisterAccessesFollowTheAccessCodes
  intro s m blk off size v r b o old res plain hreach hblk
  refine ⟨fun hbad => ⟨?_, ?_⟩, fun ho hnone => ⟨?_, fun hv => ?_, ?_⟩, ?_, fun ho hdesc hlath => ?_, ?_,
    registerWrite_clears_cfgerr hreach hblk off, ?_⟩
  · rw [exec_registerWrite hreach, State.cfgWrite_badAccess hblk _ _ _ hbad]
  · rw [exec_readClear hreach, State.cfgRead_badAccess hblk _ _ hbad]
  · rw [exec_registerWrite hreach, State.cfgWrite_undefined hblk _ _ ho (BitVec.isLt _) hnone]
    rfl
  · have hv : v.toNat ≠ 0 := fun h => hv (BitVec.eq_of_toNat_eq h)
    rw [exec_registerWrite hreach, State.cfgWrite_undefined hblk _ _ ho v.isLt hnone, if_neg hv]
  · rw [exec_readClear hreach, State.cfgRead_undefined hblk _ ho hnone]
  · intro k half hk hhalf ho hdesc
    have hok : regAccessOk o 4 = true := by simp [regAccessOk, ho]
    subst hhalf
    refine ⟨fun hb => readClear_answers hreach hblk off 4 hb hok hk hdesc, fun hlath hb h8 => ?_⟩
    obtain ⟨s', hexec, hreg, -, honly, hframe⟩ := registerWrite_answers hreach hblk off 4 v hb hok hk hdesc hlath h8 rfl
    exact ⟨s', hexec, hreg, honly, hframe⟩
  · rw [exec_registerWrite hreach, State.cfgWrite_lathOnly hblk _ _ ho hdesc hlath]
  · intro ho hdesc hlath hb h8
    obtain ⟨hok, hk, hmask, hval⟩ := wholeAccess ho
    have hr := regDesc_plainAt hb hdesc
    have hres : res = r.write false (s.reg b o) (v.toNat % 2 ^ (8 * 8) * 2 ^ (8 * (o % 8))) (accessMask o 8) := by
      rw [hmask, hval v.toNat v.isLt]
    obtain ⟨s', hexec, hreg, herr, honly, hframe⟩ :=
      registerWrite_answers hreach hblk off 8 v hb hok hk.symm hdesc hlath h8 hres
    refine ⟨s', hexec, hreg, herr, honly, hframe, hr.write_err_of_reserved hlath old v.toNat v.isLt, fun f hf => ⟨?_, ?_⟩⟩
    · rw [hreg]
      exact hr.field_write hlath old v.toNat h8 hf
    · exact hr.write_err_of_encoding hlath old v.toNat hf
  · intro ho hdesc hb
    obtain ⟨hok, hk, hmask, -⟩ := wholeAccess ho
    obtain ⟨s', hexec, hdata, hreg, honly, hframe⟩ := readClear_answers hreach hblk off 8 hb hok hk.symm hdesc
    rw [hmask] at hreg
    refine ⟨s', hexec, ?_, hreg, honly, hframe, fun hplain f hf => ?_⟩
    · rw [hdata, ho, field, Nat.mul_zero, Nat.pow_zero, Nat.div_one, leBytes_mod]
    · rw [hreg]
      exact r.field_afterRead old (regDesc_plainAt hplain hdesc).laid hf

end Sys2Proof.Machine

/-! ### Doorbells and semaphores (R261 to R265) -/

namespace Sys2Proof.Machine

/-! #### Doorbells -/

/-- An event set after event `v` was posted: `v` beside what it held before. -/
theorem getLsbD_setEvent (m : BitVec 256) (v e : Nat) (he : e < 256) :
    (setEvent m v).getLsbD e = (decide (e = v) || m.getLsbD e) := by
  rw [setEvent, BitVec.getLsbD_or, BitVec.getLsbD_ofNat, Nat.testBit_two_pow, decide_eq_true he, Bool.true_and,
    Bool.or_comm]
  simp only [eq_comm]

/-- Nothing keeps events from the threads of ridge `g` (R262). -/
def State.RidgeHears (s : State) (g : RidgeId) : Prop :=
  (s.ridge g).offline = false ∧ (s.ridge g).draining = false ∧ (s.ridge g).relath = false ∧ (s.ridge g).moving = false
    ∧ s.retained g = false

/-- R262: an event below 256 to the thread of a ridge that hears it joins the thread's event set. -/
theorem State.postEvent_thread (s : State) (t : ThreadId) (e : Nat) (ht : isSmcThread t = false)
    (hg : s.RidgeHears (ridgeOf t)) (he : e < 256) :
    s.postEvent t.val e = s.setThread t { s.thread t with events := setEvent (s.thread t).events e } := by
  have hlt : t.val < 256 := Nat.lt_of_not_le (of_decide_eq_false ht)
  obtain ⟨hoff, hdrain, hrelath, hmove, hret⟩ := hg
  simp [State.postEvent, hlt, Nat.ne_of_lt hlt, hoff, hdrain, hrelath, hmove, hret, Nat.mod_eq_of_lt he]

/-- R262: an event below 256 to the SMC joins its event set. -/
theorem State.postEvent_smc (s : State) (e : Nat) (he : e < 256) :
    s.postEvent 256 e = { s with smc := { s.smc with events := setEvent s.smc.events e } } := by
  rw [State.postEvent, if_pos rfl, Nat.mod_eq_of_lt he]

/-- R262: a doorbell write by a master that may ring: an event number is posted, any other value sets DBERR. -/
theorem exec_doorbellWrite {s : State} {m : Master} (hon : s.dieOn = true) (hm : mayRing m = true) (tag : Fin 257)
    (v : BitVec 64) :
    exec (.doorbellWrite m tag v) s
      = .next (if v.toNat < 256 then s.postEvent tag.val v.toNat else s.setFlagOf 0x06 0x08 2 true) := by
  show (if s.dieOn && mayRing m then Host.Outcome.next (s.ringDoorbell tag.val v.toNat) else .next s) = _
  rw [hon, hm]
  rfl

/-! #### Semaphores -/

/-- R263: a free semaphore goes to the reader, who learns of a break once. -/
theorem Sem.acquire_free {x : Sem} (owner : Fin 257) (h : x.holder = none) :
    x.acquire owner = ((if x.broken then 2 else 0) + owner.val * 256, ⟨some owner, false, x.breaking⟩) := by
  rw [Sem.acquire, h]
  cases x.broken <;> rfl

/-- R263: a held semaphore stays as it is, and the reader learns whose it is. -/
theorem Sem.acquire_held {x : Sem} (owner : Fin 257) {h : Fin 257} (hx : x.holder = some h) :
    x.acquire owner = ((if h = owner then 3 else 1) + h.val * 256, x) := by
  rw [Sem.acquire, hx]

/-- R265: a break served frees a held semaphore and marks it. -/
theorem Sem.break_held {x : Sem} {h : Fin 257} (hx : x.holder = some h) : x.break = ⟨none, true, false⟩ := by
  rw [Sem.break, hx]
  rfl

/-- R265: a release that came before the break leaves nothing to break. -/
theorem Sem.break_free {x : Sem} (hx : x.holder = none) : x.break = ⟨none, x.broken, false⟩ := by
  rw [Sem.break, hx]
  rfl

section Semaphore
variable {s : State} (owner : Fin 257) (n : Fin 256)

/-- R263: a read for an owner that no dust sheet covers answers what the acquire yields. -/
theorem exec_semaphoreAcquire (hon : s.dieOn = true) (hcov : s.ownerCovered owner = false) {v : Nat} {y : Sem}
    (hx : (s.sem n).acquire owner = (v, y)) :
    exec (.semaphoreAcquire owner n) s = .next { s.setSem n y with readData := leBytes 8 v } := by
  show execSemaphoreAcquire owner n s = _
  simp only [execSemaphoreAcquire, State.semAcquire, hx, hon, if_true, hcov, Bool.false_and, Bool.false_eq_true, if_false]

/-- R263: a write of a semaphore, which the holder alone releases. -/
theorem exec_semaphoreRelease (hon : s.dieOn = true) :
    exec (.semaphoreRelease owner n) s
      = .next (if (s.sem n).holder = some owner then s.setSem n ⟨none, (s.sem n).broken, false⟩
          else s.setFlagOf 0x06 0x08 1 true) := by
  show (if s.dieOn then Host.Outcome.next (s.semRelease owner n) else .next s) = _
  rw [hon]
  rfl

/-- R265: a break on its way is served. -/
theorem exec_semaphoreBreak (h : (s.sem n).breaking = true) :
    exec (.semaphoreBreak n) s = .next (s.setSem n (s.sem n).break) := by
  show (if (s.sem n).breaking then Host.Outcome.next (s.setSem n (s.sem n).break) else .next s) = _
  rw [if_pos h]

/-! #### MBX_SEMFORCE -/

/-- MBX_SEMFORCE: a write-only semaphore number. -/
def semForceReg : Reg := { fields := [fld 0 7 .wo] }

theorem regDesc_semForce : regDesc 0x06 0x18 = some semForceReg := rfl

/-- The reserved bits of MBX_SEMFORCE stand above the semaphore's number. -/
theorem and_semForce_reserved (v : Nat) (hv : v < 2 ^ 8) : v &&& semForceReg.reserved = 0 := by
  have hres : semForceReg.reserved = (2 ^ 56 - 1) * 2 ^ 8 := by decide
  apply Nat.eq_of_testBit_eq
  intro i
  rw [hres, Nat.testBit_and, Nat.testBit_mul_two_pow, Nat.zero_testBit]
  by_cases hi : 8 ≤ i
  · rw [Nat.testBit_lt_two_pow (Nat.lt_of_lt_of_le hv (Nat.pow_le_pow_right (by decide) hi)), Bool.false_and]
  · simp [hi]

/-- A write-only field without reserved encodings takes any value without an error. -/
theorem Field.write_wo_err (lo hi : Nat) (v mask : Nat) (a : WriteResult) :
    ((fld lo hi .wo).write false v mask a).err = a.err := by
  simp only [Field.write, fld, Bool.false_and, Bool.false_eq_true, if_false, if_true]
  split <;> rfl

/-- R12: a semaphore's number written to MBX_SEMFORCE is no error. -/
theorem semForceReg_write_err (old v : Nat) (hv : v < 2 ^ 8) :
    (semForceReg.write false old v (2 ^ 64 - 1)).err = false := by
  rw [semForceReg.write_of_keep_nil old v _ rfl fun _ _ => rfl,
    Nat.and_two_pow_sub_one_of_lt_two_pow (Nat.lt_trans hv (by decide)), and_semForce_reserved v hv]
  exact Field.write_wo_err 0 7 v _ _

/-- R265: what an accepted write of MBX_SEMFORCE does. -/
theorem State.writeEffect_semForce (s : State) (v : Nat) {w : WriteResult} (herr : w.err = false) :
    s.writeEffect false 0x06 0x18 v (2 ^ 64 - 1) w = s.forceBreak (field v 0 8) := by
  show (if w.err then (s.forceBreak (field v 0 8)).cfgerr 0x06 else s.forceBreak (field v 0 8)) = _
  rw [herr, if_neg Bool.false_ne_true]

/-- R265: a semaphore's number written to MBX_SEMFORCE forces the break of that semaphore and does nothing else. -/
theorem State.cfgWrite_semForce (s : State) (v : Nat) (hv : v < 2 ^ 8) :
    s.cfgWrite false 0x06 0x18 8 v = s.forceBreak v := by
  obtain ⟨hok, hk, hmask, hval⟩ := wholeAccess (o := 0x18) rfl
  calc s.cfgWrite false 0x06 0x18 8 v
    _ = s.writeEffect false 0x06 0x18 v (2 ^ 64 - 1)
          (semForceReg.write false (s.writeBase 0x06 0x18) v (2 ^ 64 - 1)) := by
      simp only [State.cfgWrite, show s.blockOf 0x06 = 0x06 from rfl, hok, hk, regDesc_semForce, hmask,
        hval v (Nat.lt_trans hv (by decide))]
      rfl
    _ = s.forceBreak (field v 0 8) := s.writeEffect_semForce v (semForceReg_write_err _ v hv)
    _ = s.forceBreak v := by rw [field, Nat.pow_zero, Nat.div_one, Nat.mod_eq_of_lt hv]

/-- R265: the forced break of a held semaphore is served at once (log entry 59). -/
theorem State.forceBreak_held {h : Fin 257} (hx : (s.sem n).holder = some h) :
    s.forceBreak n.val = s.setSem n ⟨none, true, false⟩ := by
  simp only [State.forceBreak, Nat.mod_eq_of_lt n.isLt, Sem.break_held hx, hx, Option.isSome_some, if_true]

/-- R265: the forced break of a free semaphore has no effect. -/
theorem State.forceBreak_free (hx : (s.sem n).holder = none) : s.forceBreak n.val = s := by
  simp only [State.forceBreak, Nat.mod_eq_of_lt n.isLt, hx, Option.isSome_none, Bool.false_eq_true, if_false]

/-- R265: FORCED_BREAK by a master that reaches the mailbox's registers. -/
theorem exec_forcedBreak {m : Master} (hreach : s.cfgReach m 0x06 = true) :
    exec (.forcedBreak m n) s = .next (s.forceBreak n.val) := by
  show Host.Outcome.next (s.cfgStore m 0x06 0x18 8 n.val) = _
  rw [State.cfgStore, if_pos hreach, s.cfgWrite_semForce n.val n.isLt]

end Semaphore

/-- Settles O36: each clause is its command's equation, at the semaphore's holder or the doorbell's value. -/
theorem doorbellsAndSemaphores : Obligations.DoorbellsAndSemaphores := by
  unfold Obligations.DoorbellsAndSemaphores
  constructor
  · intro s m tag v t hon hm
    refine ⟨fun hv htag hoff hrelath hdrain hmove hret ht => ?_, fun hv htag => ?_, fun hv => ?_⟩
    · refine ⟨_, exec_doorbellWrite hon hm tag v, ?_⟩
      rw [if_pos hv, htag, s.postEvent_thread t _ ht ⟨hoff, hdrain, hrelath, hmove, hret⟩ hv, thread_setThread]
      exact ⟨rfl, rfl, getLsbD_setEvent _ _⟩
    · refine ⟨_, exec_doorbellWrite hon hm tag v, ?_⟩
      rw [if_pos hv, htag, show (256 : Fin 257).val = 256 from rfl, s.postEvent_smc _ hv]
      exact ⟨rfl, getLsbD_setEvent _ _⟩
    · refine ⟨_, exec_doorbellWrite hon hm tag v, ?_⟩
      rw [if_neg (Nat.not_lt.2 hv)]
      exact ⟨s.setFlagOf_flagOf _ _ _ _ (by decide), rfl, rfl⟩
  · intro s m owner h n x reads hon hcov
    refine ⟨fun hx => exec_semaphoreAcquire owner n hon hcov (Sem.acquire_free owner hx),
      fun hx => exec_semaphoreAcquire owner n hon hcov (Sem.acquire_held owner hx),
      fun hx => ?_, fun hx => ?_, fun hb hx => ?_, fun hb hx => ?_, fun hx hreach => ?_, fun hx hreach => ?_⟩
    · rw [exec_semaphoreRelease owner n hon, if_pos hx]
    · refine ⟨_, exec_semaphoreRelease owner n hon, ?_⟩
      rw [if_neg hx]
      exact ⟨s.setFlagOf_flagOf _ _ _ _ (by decide), rfl, rfl⟩
    · rw [exec_semaphoreBreak n hb, Sem.break_held hx]
    · rw [exec_semaphoreBreak n hb, Sem.break_free hx]
    · rw [exec_forcedBreak n hreach, State.forceBreak_held n hx]
    · rw [exec_forcedBreak n hreach, State.forceBreak_free n hx]

end Sys2Proof.Machine

/-! ### FENCE (R332) -/

namespace Sys2Proof.Machine

/-- R332: what `storesDone` finds: nothing buffered, and no write of the thread itself in the matrix. -/
theorem State.storesDone_iff (s : State) (t : ThreadId) :
    s.storesDone t = true ↔ (s.thread t).stores = []
      ∧ ∀ x ∈ s.matrix.waiting ++ s.matrix.flight, x.m = .core t → x.aux = none → x.isRead = true := by
  rw [State.storesDone, Bool.and_eq_true, List.isEmpty_iff, Bool.not_eq_true', List.any_eq_false]
  refine and_congr_right fun _ => forall_congr' fun x => forall_congr' fun _ => ?_
  cases x.isRead <;> simp

/-- An instruction that issues and parks leaves the thread waiting and nothing else changed. -/
theorem issue_park {s : State} {t : ThreadId} {i : Instr} {act : State → Thread → Act} (p : Park) (hi : s.Issues t i)
    (ha : act s (s.thread t) = parkAct t p s (s.thread t)) :
    s.issue t i act = s.setThread t { s.thread t with st := .parked, park := some p } :=
  issue_stay s _ t i act hi ha

/-- R332: FENCE_COMPLETE of a thread parked in FENCE. -/
theorem exec_fenceComplete {s : State} {t : ThreadId} (hst : (s.thread t).st = .parked)
    (hp : (s.thread t).park = some .fence) :
    exec (.fenceComplete t) s
      = .next (if s.storesDone t then s.setThread t ((s.thread t).retire [] 0 none) else s) := by
  show execFenceComplete t s = _
  simp only [execFenceComplete, hst, hp]
  split <;> rfl

/-- Settles O24: `storesDone` decides both commands. -/
theorem fenceWaitsForStores : Obligations.FenceWaitsForStores := by
  unfold Obligations.FenceWaitsForStores
  intro s t th done
  have hdone : s.storesDone t = true ↔ done := s.storesDone_iff t
  refine ⟨fun hi h => ?_, fun hi h => ?_, fun hst hp h => ?_, fun hst hp h => ?_⟩
  · have ha : fenceAct t s (s.thread t) = .complete s [] 0 none := if_pos (hdone.2 h)
    exact runs_of _ s t (fenceAct t) s [] 0 none rfl hi ha (noTrap_zero s t) .nil (by simp)
  · have ha : fenceAct t s (s.thread t) = parkAct t .fence s (s.thread t) := if_neg fun hd => h (hdone.1 hd)
    exact congrArg Host.Outcome.next (issue_park .fence hi ha)
  · exact ⟨_, by rw [exec_fenceComplete hst hp, if_pos (hdone.2 h)], completed_retire s t [] 0 none .nil (by simp)⟩
  · rw [exec_fenceComplete hst hp, if_neg fun hd => h (hdone.1 hd)]

end Sys2Proof.Machine

/-! ### What accesses to memory leave alone

The accesses of streams and threads count ECC events and raise machine checks besides moving bytes. None of that reaches the
stream engine's own state. -/

namespace Sys2Proof.Machine

/-- From `s` to `s'` nothing of the stream engine's state changed: ridges, chain instances, the threads' registers, and the
registers of the ridges' blocks below the ECC counters of offset 0x1410. -/
structure State.EngineKept (s s' : State) : Prop where
  ridges : s'.ridges = s.ridges
  chains : s'.chains = s.chains
  threadRegs : ∀ t, (s'.thread t).r = (s.thread t).r
  regs : ∀ (g : RidgeId) (off : Nat), off < 0x1410 → s'.reg (rgBlk g) off = s.reg (rgBlk g) off

/-- The register at `off` of block `b` is none of those that `EngineKept` speaks of. -/
def OutsideEngine (b off : Nat) : Prop := ∀ (g : RidgeId) (o : Nat), o < 0x1410 → regKey (rgBlk g) o ≠ regKey b off

theorem outsideEngine_ledgeEcc (g : RidgeId) : OutsideEngine (rgBlk g) 0x1410 := by
  intro h o ho
  simp only [regKey, rgBlk]
  omega

/-- Registers of the blocks below the ridges'. -/
theorem outsideEngine_lowBlock {b off : Nat} (hb : b < 0xC0) (ho : off < 0x10000) : OutsideEngine b off := by
  intro h o _
  simp only [regKey, rgBlk]
  omega

theorem dsBlk_lt (i : Fin 32) : dsBlk i < 0xC0 := by
  simp only [dsBlk]
  omega

namespace State.EngineKept
variable {s s' s'' : State}

theorem refl (s : State) : s.EngineKept s := ⟨rfl, rfl, fun _ => rfl, fun _ _ _ => rfl⟩

theorem trans (h : s.EngineKept s') (k : s'.EngineKept s'') : s.EngineKept s'' :=
  ⟨k.ridges.trans h.ridges, k.chains.trans h.chains, fun t => (k.threadRegs t).trans (h.threadRegs t),
    fun g o ho => (k.regs g o ho).trans (h.regs g o ho)⟩

theorem ridge (h : s.EngineKept s') (g : RidgeId) : s'.ridge g = s.ridge g :=
  congrArg (fun rs : Vector Ridge 32 => rs[g]) h.ridges

theorem chain (h : s.EngineKept s') (c : Fin 16) : s'.chain c = s.chain c :=
  congrArg (fun cs : Vector ChainInst 16 => cs[c]) h.chains

/-! #### Registers and machine checks -/

theorem setFieldOf (h : s.EngineKept s') {b off : Nat} (ho : OutsideEngine b off) (lo w x : Nat) :
    s.EngineKept (s'.setFieldOf b off lo w x) :=
  ⟨h.ridges, h.chains, h.threadRegs, fun g o hlt => (s'.setFieldOf_reg_ne b off lo w x _ _ (ho g o hlt)).trans (h.regs g o hlt)⟩

theorem setFlagOf (h : s.EngineKept s') {b off : Nat} (ho : OutsideEngine b off) (bit : Nat) (x : Bool) :
    s.EngineKept (s'.setFlagOf b off bit x) := h.setFieldOf ho bit 1 _

theorem countOf (h : s.EngineKept s') {b off : Nat} (ho : OutsideEngine b off) (lo w n : Nat) :
    s.EngineKept (s'.countOf b off lo w n) := h.setFieldOf ho lo w _

theorem setThread (h : s.EngineKept s') {t : ThreadId} {x : Thread} (hx : x.r = (s'.thread t).r) :
    s.EngineKept (s'.setThread t x) := by
  refine ⟨h.ridges, h.chains, fun u => Eq.trans ?_ (h.threadRegs u), h.regs⟩
  by_cases hu : u = t
  · rw [hu, thread_setThread, hx]
  · rw [thread_setThread_ne _ _ _ _ hu]

theorem machineCheck (h : s.EngineKept s') (who : Requester) (source addr : Nat) :
    s.EngineKept (s'.machineCheck who source addr) := by
  cases who with
  | thread t => exact h.setThread rfl
  | stream g n => exact h.setThread rfl
  | other => exact ⟨h.ridges, h.chains, h.threadRegs, h.regs⟩

/-! #### On-die memory -/

theorem noteWord (h : s.EngineKept s') (who : Requester) (w : Nat) (c : EccClass) : s.EngineKept (s'.noteWord who w c) := by
  have mailbox : OutsideEngine 0x06 0x10 := outsideEngine_lowBlock (by decide) (by decide)
  have table : OutsideEngine 0x05 0x10 := outsideEngine_lowBlock (by decide) (by decide)
  unfold State.noteWord
  dsimp only
  split
  · exact h
  · exact ((h.countOf (outsideEngine_ledgeEcc _) _ _ _).setFieldOf (outsideEngine_ledgeEcc _) _ _ _).machineCheck _ _ _
  · exact ((h.countOf mailbox _ _ _).setFieldOf mailbox _ _ _).machineCheck _ _ _
  · have counted (entry : Nat) := ((h.countOf table 16 16 1).setFieldOf table 32 21 entry).setFlagOf table 63 true
    split
    · exact counted _
    · exact (counted _).machineCheck _ _ _
  · exact h.machineCheck _ _ _
  · exact h.countOf (outsideEngine_ledgeEcc _) _ _ _
  · exact h.countOf mailbox _ _ _
  · exact h.countOf table _ _ _
  · exact h

theorem readWordEffects (h : s.EngineKept s') (who : Requester) (w : Nat) : s.EngineKept (s'.readWordEffects who w) := by
  have noted := h.noteWord who w (s'.wordClass w)
  unfold State.readWordEffects State.queueWriteback
  split
  · exact ⟨noted.ridges, noted.chains, noted.threadRegs, noted.regs⟩
  · exact noted

theorem sramRead (h : s.EngineKept s') (who : Requester) (a n : Nat) : s.EngineKept (s'.sramRead who a n).st :=
  foldl_keeps s.EngineKept _ _ _ h fun _ w _ hx => hx.readWordEffects who w

theorem storeWord (h : s.EngineKept s') (w : Nat) (bs : List Byte) : s.EngineKept (s'.storeWord w bs) :=
  ⟨h.ridges, h.chains, h.threadRegs, h.regs⟩

theorem mergeWord (h : s.EngineKept s') (who : Requester) (w : Nat) (f : List Byte → List Byte) :
    s.EngineKept (s'.mergeWord who w f) := by
  unfold State.mergeWord
  split
  · exact h.noteWord _ _ _
  · exact (h.noteWord _ _ _).storeWord _ _

theorem sramWrite (h : s.EngineKept s') (who : Requester) (a : Nat) (bs : List Byte) :
    s.EngineKept (s'.sramWrite who a bs) := by
  refine foldl_keeps s.EngineKept _ _ _ h fun x w _ hx => ?_
  split
  · exact hx.storeWord _ _
  · exact hx.mergeWord _ _ _

theorem sramAlias (h : s.EngineKept s') (who : Requester) (clear : Bool) (a : Nat) (bs : List Byte) :
    s.EngineKept (s'.sramAlias who clear a bs) :=
  foldl_keeps s.EngineKept _ _ _ h fun _ w _ hx => hx.mergeWord who w _

theorem clearTags (h : s.EngineKept s') (a n : Nat) : s.EngineKept (s'.clearTags a n) := by
  refine foldl_keeps s.EngineKept _ _ _ h fun x k _ hx => ?_
  dsimp only
  split
  · exact ⟨hx.ridges, hx.chains, hx.threadRegs, hx.regs⟩
  · exact hx

theorem wakeFor (h : s.EngineKept s') (a : Nat) : s.EngineKept (s'.wakeFor a) := by
  unfold State.wakeFor
  split
  · exact ⟨h.ridges, h.chains, h.threadRegs, h.regs⟩
  · exact h

/-! #### The deep store -/

/-- Changes of the deep store alone. -/
theorem setDram (h : s.EngineKept s') (d : Dram) : s.EngineKept { s' with dram := d } :=
  ⟨h.ridges, h.chains, h.threadRegs, h.regs⟩

theorem retireBank (h : s.EngineKept s') (pb cause : Nat) : s.EngineKept (s'.retireBank pb cause) := by
  unfold State.retireBank
  dsimp only
  split
  · exact h.setDram _
  · exact h

theorem noteCorrection (h : s.EngineKept s') (pb : Nat) : s.EngineKept (s'.noteCorrection pb) := by
  unfold State.noteCorrection
  dsimp only
  split
  · exact (h.setDram _).retireBank _ _
  · exact h.setDram _

theorem noteDeepWord (h : s.EngineKept s') (who : Requester) (a raw check : Nat) (c : EccClass) :
    s.EngineKept (s'.noteDeepWord who a raw check c) := by
  have counter (pb : Nat) : OutsideEngine (dsBlk (ifaceOf pb)) 0x18 := outsideEngine_lowBlock (dsBlk_lt _) (by decide)
  have place (pb : Nat) : OutsideEngine (dsBlk (ifaceOf pb)) 0x20 := outsideEngine_lowBlock (dsBlk_lt _) (by decide)
  cases c with
  | clean => exact h
  | uncorrectable =>
    have noted (pb : Nat) := ((((h.countOf (counter pb) 16 16 1).setFieldOf (place pb) 0 48 a).setFieldOf (place pb) 48 10
      pb).setFlagOf (place pb) 63 true).retireBank pb 2
    cases who with
    | thread t => exact (noted (s'.bankOf raw)).machineCheck (.thread t) 0x14 a
    | stream g n => exact noted (s'.bankOf raw)
    | other => exact noted (s'.bankOf raw)
  | corrected pos => exact (h.countOf (counter _) _ _ _).noteCorrection _
  | checkBit => exact (h.countOf (counter _) _ _ _).noteCorrection _

theorem deepReadWord (h : s.EngineKept s') (who : Requester) (p : DeepPlace) (w : Nat) :
    s.EngineKept (s'.deepReadWord who p w).st := by
  cases p with
  | windowed n raw check => exact h.noteDeepWord _ _ _ _ _
  | raw r => exact h
  | checkRange => exact h

theorem deepRead (h : s.EngineKept s') (who : Requester) (a n : Nat) : s.EngineKept (s'.deepRead who a n).st :=
  foldl_keeps (fun x : ReadResult => s.EngineKept x.st) _ _ _ h fun _ w _ hx => hx.deepReadWord who _ w

theorem deepStoreWord (h : s.EngineKept s') (p : DeepPlace) (bs : List Byte) : s.EngineKept (s'.deepStoreWord p bs) := by
  cases p with
  | windowed n raw check => exact h.setDram _
  | raw r => exact h.setDram _
  | checkRange => exact h

theorem noteGranule (h : s.EngineKept s') (who : Requester) (p : DeepPlace) (g : Nat) :
    s.EngineKept (s'.noteGranule who p g) :=
  foldl_keeps s.EngineKept _ _ _ h fun _ w _ hx => hx.deepReadWord who _ w

theorem storeGranule (h : s.EngineKept s') (p : DeepPlace) (g a : Nat) (bs : List Byte) :
    s.EngineKept (s'.storeGranule p g a bs) :=
  foldl_keeps s.EngineKept _ _ _ h fun _ _ _ hx => hx.deepStoreWord _ _

theorem deepWriteGranule (h : s.EngineKept s') (who : Requester) (p : DeepPlace) (g a : Nat) (bs : List Byte) :
    s.EngineKept (s'.deepWriteGranule who p g a bs).st := by
  have merged := (h.noteGranule who p g).storeGranule p g a bs
  unfold State.deepWriteGranule
  split
  · exact h.storeGranule _ _ _ _
  · cases p with
    | windowed n raw check =>
      dsimp only
      split
      · exact h.noteGranule _ _ _
      · exact merged
    | raw r => exact h.setDram _
    | checkRange => exact h

theorem deepWrite (h : s.EngineKept s') (who : Requester) (a : Nat) (bs : List Byte) :
    s.EngineKept (s'.deepWrite who a bs).st :=
  foldl_keeps (fun x : ReadResult => s.EngineKept x.st) _ _ _ h fun _ g _ hx => hx.deepWriteGranule who _ g a bs

/-! #### Any memory -/

theorem memRead (h : s.EngineKept s') (who : Requester) (a n : Nat) : s.EngineKept (s'.memRead who a n).st := by
  unfold State.memRead
  split
  · exact h.deepRead _ _ _
  · exact (h.wakeFor _).sramRead _ _ _

theorem memWrite (h : s.EngineKept s') (who : Requester) (a : Nat) (bs : List Byte) :
    s.EngineKept (s'.memWrite who a bs).st := by
  unfold State.memWrite
  split
  · exact h.deepWrite _ _ _
  · split
    · exact ((h.wakeFor _).sramAlias _ _ _ _).clearTags _ _
    · split
      · exact ((h.wakeFor _).sramAlias _ _ _ _).clearTags _ _
      · exact ((h.wakeFor _).sramWrite _ _ _).clearTags _ _

end State.EngineKept

end Sys2Proof.Machine

/-! ### What the reads and checks of a stream leave alone (R97 to R101, R154) -/

namespace Sys2Proof.Machine

namespace State.EngineKept
variable {s s' : State}

theorem fetch (h : s.EngineKept s') (w : Who) (a n : Nat) : s.EngineKept (s'.fetch w a n).st := by
  unfold State.fetch
  split
  · exact h
  · exact h.memRead _ _ _

theorem noteMerge (h : s.EngineKept s') (who : Requester) (a n : Nat) : s.EngineKept (s'.noteMerge who a n) := by
  unfold State.noteMerge
  split
  · exact foldl_keeps s.EngineKept _ _ _ h fun _ g _ hx => hx.noteGranule _ _ _
  · exact foldl_keeps s.EngineKept _ _ _ h fun _ w _ hx => hx.noteWord _ _ _

theorem destCheck (h : s.EngineKept s') (w : Who) (a n : Nat) : s.EngineKept (s'.destCheck w a n).2 := by
  unfold State.destCheck
  split
  · exact h
  · split
    · exact h.noteMerge _ _ _
    · exact h

/-! #### Operands of an element -/

theorem placeOf (h : s.EngineKept s') (w : Who) (e : QEntry) (p : Pos) (n i : Nat) :
    s.EngineKept (s'.placeOf w e p n i).st := by
  unfold State.placeOf
  dsimp only
  split
  · exact h.fetch _ _ _
  · split
    · exact h.fetch _ _ _
    · exact h

theorem source (h : s.EngineKept s') (w : Who) (e : QEntry) (p : Pos) (n i once : Nat) (ce : Option Elem) :
    s.EngineKept (s'.source w e p n i once ce).st := by
  have placed := h.placeOf w e p n i
  unfold State.source
  dsimp only
  split
  · exact h
  · split
    · exact h
    · split
      · cases ce with
        | none => exact h
        | some c => exact h
      · split
        · exact placed
        · exact placed.fetch _ _ _

theorem maskSource (h : s.EngineKept s') (w : Who) (e : QEntry) (i : Nat) (ce : Option Elem) :
    s.EngineKept (s'.maskSource w e i ce).st := by
  unfold State.maskSource
  dsimp only
  split
  · cases ce with
    | none => exact h
    | some c => exact h
  · exact h.fetch _ _ _

theorem channelEntries (h : s.EngineKept s') (w : Who) (cs : List Nat) : s.EngineKept (s'.channelEntries w cs).st := by
  induction cs generalizing s' with
  | nil => exact h
  | cons c rest ih =>
    unfold State.channelEntries
    dsimp only
    split
    · exact ih h
    · exact ih (h.fetch _ _ _)

theorem maskBit (h : s.EngineKept s') (w : Who) (e : QEntry) (i : Nat) : s.EngineKept (s'.maskBit w e i).2.2 := by
  unfold State.maskBit
  split
  · exact h.fetch _ _ _
  · exact h

theorem operands (h : s.EngineKept s') (w : Who) (e : QEntry) (sa sb i : Nat) (ce : Option Elem) (aUsed useBv : Bool) :
    s.EngineKept (s'.operands w e sa sb i ce aUsed useBv).2 := by
  have masked := h.maskBit w e i
  unfold State.operands
  extract_lets ty code m chainAct upstream chained
  split
  · exact masked
  · split
    · exact masked
    · next a b t d _ _ _ _ =>
      have keptA : s.EngineKept a.st := by
        unfold a
        split
        · exact masked
        · split
          · exact masked.maskSource _ _ _ _
          · exact masked.source _ _ _ _ _ _ _
      have keptB : s.EngineKept b.st := by
        unfold b
        split
        · exact keptA.source _ _ _ _ _ _ _
        · exact keptA
      have keptT : s.EngineKept t.st := by
        unfold t
        split
        · exact keptB.channelEntries _ _
        · exact keptB
      show s.EngineKept d.2.2
      unfold d
      split
      · next n _ =>
        have placed := keptT.placeOf w e .d n i
        dsimp only
        split
        · exact placed
        · exact placed.destCheck _ _ _
      · exact keptT

/-! #### Values read once, taps -/

theorem pairValues (h : s.EngineKept s') (w : Who) (e : QEntry) (n : Nat) : s.EngineKept (s'.pairValues w e n).1.st := by
  unfold State.pairValues
  split
  · show s.EngineKept s'
    exact h
  · exact (h.fetch w (e.base .b) n).fetch w (addr64 (e.base .b + n)) n

theorem onceValues (h : s.EngineKept s') (w : Who) (e : QEntry) (aUsed bUsed : Bool) :
    s.EngineKept (s'.onceValues w e aUsed bUsed).2.2.2.2 := by
  unfold State.onceValues
  extract_lets ty code a
  have keptA : s.EngineKept a.st := by
    unfold a
    split
    · exact h.fetch _ _ _
    · exact h
  split
  · exact keptA.pairValues _ _ _
  · split
    · split
      · split
        · exact keptA.fetch _ _ _
        · exact keptA
      · exact keptA
    · split
      · exact keptA.fetch _ _ _
      · exact keptA

theorem rowTaps (h : s.EngineKept s') (g : RidgeId) (m : Stream) : s.EngineKept (s'.rowTaps g m).2.2 := by
  unfold State.rowTaps
  split
  · exact foldl_keeps (fun x : List Nat × Option SFault × State => s.EngineKept x.2.2) _ _ _ h fun _ _ _ hx => hx.fetch _ _ _
  · exact h

/-! #### Destinations -/

theorem compactDest (h : s.EngineKept s') (w : Who) (e : QEntry) (n : Nat) (tag : Option Word) (j : Nat) (vs : List Nat) :
    s.EngineKept (s'.compactDest w e n tag j vs).st := by
  induction vs generalizing s' j with
  | nil => exact h
  | cons v rest ih =>
    have checked := h.destCheck w (addr64 (e.base .d + j * n)) n
    unfold State.compactDest
    dsimp only
    split
    · next hc =>
      rw [hc] at checked
      exact checked
    · next hc =>
      rw [hc] at checked
      exact ih checked _

theorem countDest (h : s.EngineKept s') (w : Who) (e : QEntry) (ps : List (Int × Int)) :
    s.EngineKept (s'.countDest w e ps).2.2 := by
  induction ps generalizing s' with
  | nil => exact h
  | cons p rest ih => exact ih (h.destCheck w (addr64 (e.base .d + p.1 * 4)) 4)

theorem destOf (h : s.EngineKept s') (w : Who) (m : Stream) (d : Decided) : s.EngineKept (s'.destOf w m d).st := by
  unfold State.destOf
  dsimp only
  split
  · exact h
  · split
    · exact h
    · have compacted := h.compactDest w m.e (dSize m.e.op m.e.ty) d.tag m.j (d.picks.map fun p => p.1.toNat)
      split
      · exact compacted
      · exact compacted
    · exact h.countDest _ _ _
    · split
      · exact h
      · next p _ _ =>
        have checked := h.destCheck w (addr64 (m.e.base .d + d.i / 8)) 1
        split
        · next hc =>
          rw [hc] at checked
          exact checked
        · next hc =>
          rw [hc] at checked
          exact checked
    · exact h

theorem noteDecided (h : s.EngineKept s') (g : RidgeId) (m : Stream) (d : Decided) :
    s.EngineKept (s'.noteDecided g m d).2 := by
  have dest := h.destOf (m.who g) m d
  unfold State.noteDecided
  dsimp only
  split
  · split
    · exact h
    · exact h
  · split
    · exact dest
    · exact dest

end State.EngineKept

end Sys2Proof.Machine

/-! ### Streams of a ridge: deciding and committing elements (R101, R102, R109) -/

namespace Sys2Proof.Machine

/-- The streams are one descriptor in one slot, neither ended otherwise than the other. -/
structure Stream.SameJob (m m' : Stream) : Prop where
  slot : m'.slot = m.slot
  e : m'.e = m.e
  chid : m'.chid = m.chid
  first : m'.first = m.first
  finished : m'.finished = m.finished

/-- Besides, they stand at the same element with the same checks passed and the same lowest fault. -/
structure Stream.SameProgress (m m' : Stream) : Prop extends m.SameJob m' where
  next : m'.next = m.next
  passed : m'.passed = m.passed
  fault : m'.fault = m.fault

namespace Stream
variable {m m' m'' : Stream}

theorem SameJob.refl (m : Stream) : m.SameJob m := ⟨rfl, rfl, rfl, rfl, rfl⟩

theorem SameJob.trans (h : m.SameJob m') (k : m'.SameJob m'') : m.SameJob m'' :=
  ⟨k.slot.trans h.slot, k.e.trans h.e, k.chid.trans h.chid, k.first.trans h.first, k.finished.trans h.finished⟩

theorem SameProgress.refl (m : Stream) : m.SameProgress m := ⟨.refl m, rfl, rfl, rfl⟩

theorem SameProgress.trans (h : m.SameProgress m') (k : m'.SameProgress m'') : m.SameProgress m'' :=
  ⟨h.toSameJob.trans k.toSameJob, k.next.trans h.next, k.passed.trans h.passed, k.fault.trans h.fault⟩

theorem noteFault_sameJob (m : Stream) (i : Nat) (f : SFault) : m.SameJob (m.noteFault i f) := ⟨rfl, rfl, rfl, rfl, rfl⟩

end Stream

/-- R101, R102: a member that takes note of an element stays at the element it has come to. -/
theorem State.noteDecided_stream (s : State) (g : RidgeId) (m : Stream) (d : Decided) :
    m.SameJob (s.noteDecided g m d).1 ∧ (s.noteDecided g m d).1.next = m.next := by
  unfold State.noteDecided
  dsimp only
  split
  · split
    · exact ⟨m.noteFault_sameJob _ _, rfl⟩
    · exact ⟨.refl m, rfl⟩
  · split
    · exact ⟨m.noteFault_sameJob _ _, rfl⟩
    · split
      · exact ⟨⟨rfl, rfl, rfl, rfl, rfl⟩, rfl⟩
      · exact ⟨⟨rfl, rfl, rfl, rfl, rfl⟩, rfl⟩

/-! #### Commits -/

/-- What a commit has left as it was, from state `s` with stream `m`. -/
def CommitKept (s : State) (m : Stream) (r : State × Stream) : Prop := s.EngineKept r.1 ∧ m.SameProgress r.2

theorem CommitKept.performAct {s : State} {m : Stream} {r : State × Stream} (h : CommitKept s m r) (g : RidgeId)
    (act : CommitAct) : CommitKept s m (r.1.performAct g r.2 act) := by
  obtain ⟨hs, hm⟩ := h
  have same {x : Stream} (hx : r.2.SameProgress x) : m.SameProgress x := hm.trans hx
  cases act with
  | mem a bs => exact ⟨hs.memWrite _ _ _, same ⟨⟨rfl, rfl, rfl, rfl, rfl⟩, rfl, rfl, rfl⟩⟩
  | queue q tag v => exact ⟨⟨hs.ridges, hs.chains, hs.threadRegs, hs.regs⟩, hm⟩
  | vreg off bs => exact ⟨hs, same ⟨⟨rfl, rfl, rfl, rfl, rfl⟩, rfl, rfl, rfl⟩⟩
  | count a wt sat => exact ⟨(hs.memRead _ _ _).memWrite _ _ _, same ⟨⟨rfl, rfl, rfl, rfl, rfl⟩, rfl, rfl, rfl⟩⟩
  | scalar bs => exact ⟨hs, same ⟨⟨rfl, rfl, rfl, rfl, rfl⟩, rfl, rfl, rfl⟩⟩

theorem CommitKept.commitOne {s : State} {m : Stream} {r : State × Stream} (h : CommitKept s m r) (g : RidgeId)
    (c : HeldCommit) : CommitKept s m (r.1.commitOne g r.2 c) := by
  have acts : CommitKept s m (c.acts.foldl (fun (acc : State × Stream) a => acc.1.performAct g acc.2 a) (r.1, r.2)) :=
    foldl_keeps (CommitKept s m) _ _ _ h fun _ a _ hx => hx.performAct g a
  exact ⟨acts.1, acts.2.trans ⟨⟨rfl, rfl, rfl, rfl, rfl⟩, rfl, rfl, rfl⟩⟩

/-- R102, R109: performing held commits moves bytes and replaces the stream by one at the same element. -/
theorem State.commitHeld_eq (s : State) (g : RidgeId) (m : Stream) (p : Nat → Bool) :
    ∃ s1 m1, s.commitHeld g m p = s1.putStream g m1 ∧ s.EngineKept s1 ∧ m.SameProgress m1 := by
  have start : CommitKept s m (s, { m with held := [] }) := ⟨.refl s, ⟨⟨rfl, rfl, rfl, rfl, rfl⟩, rfl, rfl, rfl⟩⟩
  have all := foldl_keeps (CommitKept s m) (fun (acc : State × Stream) (h : HeldCommit) =>
    if p h.i then acc.1.commitOne g acc.2 h else (acc.1, { acc.2 with held := acc.2.held ++ [h] })) m.held _ start
    fun r h _ hr => by
      split
      · exact hr.commitOne g h
      · exact ⟨hr.1, hr.2.trans ⟨⟨rfl, rfl, rfl, rfl, rfl⟩, rfl, rfl, rfl⟩⟩
  exact ⟨_, _, rfl, all⟩

/-! #### The stream in a slot -/

/-- A stream found in a slot stands in it. -/
theorem Ridge.slot_of_stream {r : Ridge} {k : Fin 16} {m : Stream} (h : r.stream k = some m) : m.slot = k := by
  simpa using List.find?_some h

/-- The slot that a replaced stream stands in shows the new one; every other slot shows what it showed. -/
theorem Ridge.stream_putStream (r : Ridge) (m : Stream) (k : Fin 16) :
    (r.putStream m).stream k = if k = m.slot then (r.stream k).map fun _ => m else r.stream k := by
  have slots : (fun x : Stream => x.slot == k) ∘ (fun x : Stream => if x.slot = m.slot then m else x)
      = fun x : Stream => x.slot == k := by
    funext x
    by_cases h : x.slot = m.slot <;> simp [h]
  show (r.streams.map fun x => if x.slot = m.slot then m else x).find? (fun x => x.slot == k) = _
  rw [List.find?_map, slots, show (r.streams.find? fun x => x.slot == k) = r.stream k from rfl]
  cases hf : r.stream k with
  | none => simp
  | some x =>
    have hx := Ridge.slot_of_stream hf
    by_cases h : k = m.slot <;> simp [hx, h]

/-- A stream of the ridge has a stream in its slot. -/
theorem Ridge.stream_isSome_of_mem {r : Ridge} {m : Stream} (h : m ∈ r.streams) : (r.stream m.slot).isSome = true :=
  List.find?_isSome.2 ⟨m, h, beq_self_eq_true _⟩

/-- A stream put into a slot that held one is found there. -/
theorem State.stream_putStream_self {s : State} {g : RidgeId} {m : Stream}
    (h : ((s.ridge g).stream m.slot).isSome = true) : ((s.putStream g m).ridge g).stream m.slot = some m := by
  obtain ⟨x, hx⟩ := Option.isSome_iff_exists.1 h
  rw [State.putStream, State.setRidge_ridge, Ridge.stream_putStream, if_pos rfl, hx]
  rfl

/-- Replacing a stream keeps every slot of every ridge taken that was. -/
theorem State.stream_putStream_isSome {s : State} {g h : RidgeId} {m : Stream} {k : Fin 16}
    (hs : ((s.ridge h).stream k).isSome = true) : (((s.putStream g m).ridge h).stream k).isSome = true := by
  by_cases hg : h = g
  · subst hg
    rw [State.putStream, State.setRidge_ridge, Ridge.stream_putStream]
    split
    · rwa [Option.isSome_map]
    · exact hs
  · rwa [State.putStream, State.setRidge_ridge_ne _ _ _ _ hg]

end Sys2Proof.Machine

/-! ### One row of a stream with a basic code (R118, R119) -/

namespace Sys2Proof.Machine

/-! #### The member -/

theorem MemberRun.element_engineKept {s : State} {r : MemberRun} (h : s.EngineKept r.st) (fr : Nat) (g : RidgeId) (x : Elem) :
    s.EngineKept (r.element fr g x).st := by
  unfold MemberRun.element
  dsimp only
  split
  · exact h
  · exact h.operands _ _ _ _ _ _ _ _

theorem MemberRun.element_sameJob (r : MemberRun) (fr : Nat) (g : RidgeId) (x : Elem) :
    r.m.SameJob (r.element fr g x).m := by
  unfold MemberRun.element
  dsimp only
  split
  · exact .refl r.m
  · exact ⟨rfl, rfl, rfl, rfl, rfl⟩

/-- An element from the stream's first one on is the last that the member has taken. -/
theorem MemberRun.element_next (r : MemberRun) (fr : Nat) (g : RidgeId) (x : Elem) (h : r.m.first ≤ x.i) :
    (r.element fr g x).m.next = x.i + 1 := by
  unfold MemberRun.element
  dsimp only
  rw [if_neg (Nat.not_lt.2 h)]

/-- A member with its accesses so far, from state `s` with stream `m`. -/
def MemberKept (s : State) (m : Stream) (r : MemberRun) : Prop := s.EngineKept r.st ∧ m.SameJob r.m

theorem MemberKept.element {s : State} {m : Stream} {r : MemberRun} (h : MemberKept s m r) (fr : Nat) (g : RidgeId) (x : Elem) :
    MemberKept s m (r.element fr g x) :=
  ⟨MemberRun.element_engineKept h.1 fr g x, h.2.trans (r.element_sameJob fr g x)⟩

/-- The member as the row's first element reaches it: its taps are read (R154). -/
def State.rowStart (s : State) (g : RidgeId) (m : Stream) : MemberRun :=
  ⟨{ m with os := { m.os with taps := (s.rowTaps g m).1 } }, (s.rowTaps g m).2.2, m.os.queue, (s.rowTaps g m).2.1, []⟩

/-- The member after the elements `xs`. -/
def State.rowTaken (s : State) (fr : Nat) (g : RidgeId) (m : Stream) (xs : List Elem) : MemberRun :=
  xs.foldl (fun (r : MemberRun) x => r.element fr g x) (s.rowStart g m)

theorem State.rowTaken_kept (s : State) (fr : Nat) (g : RidgeId) (m : Stream) (xs : List Elem) :
    MemberKept s m (s.rowTaken fr g m xs) :=
  foldl_keeps (MemberKept s m) _ _ _ ⟨(State.EngineKept.refl s).rowTaps g m, rfl, rfl, rfl, rfl, rfl⟩ fun _ x _ hx =>
    hx.element fr g x

/-- The last element of a row is the last that the member has taken. -/
theorem State.rowTaken_next (s : State) (fr : Nat) (g : RidgeId) (m : Stream) (xs : List Elem) (x : Elem)
    (h : m.first ≤ x.i) : (s.rowTaken fr g m (xs ++ [x])).m.next = x.i + 1 := by
  have hfirst : (s.rowTaken fr g m xs).m.first = m.first := (s.rowTaken_kept fr g m xs).2.first
  rw [State.rowTaken, List.foldl_append]
  exact MemberRun.element_next _ fr g x (hfirst.symm ▸ h)

/-- What deciding elements leaves, from state `s` with stream `m`. -/
def DecidedKept (s : State) (m : Stream) (r : Stream × State) : Prop :=
  s.EngineKept r.2 ∧ m.SameJob r.1 ∧ r.1.next = m.next

/-- A row of a member: nothing of the engine's state but the member changes, and the member stays what it is, behind the
elements it took. -/
theorem State.memberRow_kept (s : State) (fr : Nat) (g : RidgeId) (m : Stream) (xs : List Elem) :
    s.EngineKept (s.memberRow fr g m xs).st ∧ m.SameJob (s.memberRow fr g m xs).m
      ∧ (s.memberRow fr g m xs).m.next = (s.rowTaken fr g m xs).m.next := by
  obtain ⟨hst, hm⟩ := s.rowTaken_kept fr g m xs
  unfold State.memberRow
  extract_lets taps _ run row last rel _ _ queued z
  have decided : DecidedKept s queued z := by
    refine foldl_keeps (DecidedKept s queued) _ _ _ ⟨hst, .refl _, rfl⟩ fun r d _ hr => ?_
    obtain ⟨hs, hj, hn⟩ := hr
    obtain ⟨job, next⟩ := r.2.noteDecided_stream g r.1 d
    exact ⟨hs.noteDecided g r.1 d, hj.trans job, next.trans hn⟩
  obtain ⟨hs, hj, hn⟩ := decided
  have hq : m.SameJob queued := ⟨hm.slot, hm.e, hm.chid, hm.first, hm.finished⟩
  exact ⟨hs, hq.trans hj, hn⟩

/-! #### The elements of a row -/

/-- The elements of a row end with the one before `rowEnd`. -/
theorem Stream.rowElems_eq_append (m : Stream) (h : m.next < m.e.len) :
    ∃ ys x, m.rowElems = ys ++ [x] ∧ m.next ≤ x.i ∧ x.i + 1 = m.rowEnd := by
  obtain ⟨k, hk⟩ : ∃ k, m.rowEnd - m.next = k + 1 :=
    Nat.exists_eq_add_one.2 (by
      unfold Stream.rowEnd
      omega)
  refine ⟨(List.range k).map fun j => indexElem (m.next + j), indexElem (m.next + k), ?_, ?_, ?_⟩
  · rw [Stream.rowElems, hk, List.range_succ, List.map_append, List.map_singleton]
  · exact Nat.le_add_right _ _
  · show m.next + k + 1 = m.rowEnd
    omega

/-- R117: the elements of a row stand in one block of 16 lanes. -/
theorem Stream.rowElems_block (m : Stream) : ∀ x ∈ m.rowElems, x.i / 16 = m.next / 16 := by
  intro x hx
  obtain ⟨k, hk, rfl⟩ := List.mem_map.1 hx
  have hlt : k < m.rowEnd - m.next := List.mem_range.1 hk
  show (m.next + k) / 16 = m.next / 16
  unfold Stream.rowEnd at hlt
  omega

/-- Elements of one block join the row that is being queued. -/
theorem foldl_queueElem_block (b : Nat) (xs row : List Elem) (hrow : row ≠ []) (hr : ∀ x ∈ row, x.i / 16 = b)
    (hxs : ∀ x ∈ xs, x.i / 16 = b) : xs.foldl (queueElem 0) [row] = [row ++ xs] := by
  induction xs generalizing row with
  | nil => simp
  | cons x rest ih =>
    obtain ⟨hx, hrest⟩ := List.forall_mem_cons.1 hxs
    have hlast : (row.getLast hrow).i / 16 = x.i / 16 := (hr _ (List.getLast_mem hrow)).trans hx.symm
    have hstep : queueElem 0 [row] x = [row ++ [x]] := by
      simp [queueElem, List.getLast?_eq_some_getLast hrow, hlast]
    rw [List.foldl_cons, hstep, ih (row ++ [x]) (by simp) (by simpa [or_imp, forall_and] using ⟨hr, hx⟩) hrest]
    simp

/-- Elements of one block of 16 lanes are one row. -/
theorem splitRows_block (b : Nat) (xs : List Elem) (hne : xs ≠ []) (h : ∀ x ∈ xs, x.i / 16 = b) : splitRows xs = [xs] := by
  cases xs with
  | nil => exact absurd rfl hne
  | cons x rest =>
    obtain ⟨hx, hrest⟩ := List.forall_mem_cons.1 h
    exact foldl_queueElem_block b rest [x] (by simp) (by simpa using hx) hrest

/-! #### The turn of an unchained stream -/

/-- R118: the row of an unchained stream with a basic code as the member took it. -/
def State.soloRow (s : State) (g : RidgeId) (m : Stream) : MemberRow := s.memberRow s.fresh g m m.rowElems

/-- R118: a turn of such a stream is its row: nothing else runs in it. -/
theorem State.groupTurn_solo (s : State) (g : RidgeId) (m : Stream) (hop : m.e.op < 0x800) (h : m.next < m.e.len) :
    (s.groupTurn g [m] m.rowElems).st = (s.soloRow g m).st ∧ (s.groupTurn g [m] m.rowElems).ms = [(s.soloRow g m).m]
      ∧ (s.groupTurn g [m] m.rowElems).steps = 0 ∧ (s.groupTurn g [m] m.rowElems).parity = none := by
  have hcustom : m.custom = false := decide_eq_false (by omega)
  have hne : m.rowElems ≠ [] := by
    obtain ⟨ys, x, hys, -⟩ := m.rowElems_eq_append h
    simp [hys]
  have hempty : m.rowElems.isEmpty = false := by simpa using hne
  simp [State.groupTurn, hempty, hcustom, MicroRun.feed, splitRows_block _ _ hne m.rowElems_block, State.soloRow,
    MicroRun.spend]

/-- The stream after its row: the same descriptor in the same slot, not ended, behind the elements of the row. -/
theorem State.soloRow_kept (s : State) (g : RidgeId) (m : Stream) (h : m.next < m.e.len) (hfirst : m.first ≤ m.next) :
    s.EngineKept (s.soloRow g m).st ∧ m.SameJob (s.soloRow g m).m ∧ (s.soloRow g m).m.next = m.rowEnd := by
  obtain ⟨hst, hm, hnext⟩ := s.memberRow_kept s.fresh g m m.rowElems
  obtain ⟨ys, x, hys, hx, hend⟩ := m.rowElems_eq_append h
  refine ⟨hst, hm, hnext.trans ?_⟩
  rw [hys, s.rowTaken_next _ _ _ _ _ (Nat.le_trans hfirst hx), hend]

end Sys2Proof.Machine

/-! ### How streams settle (R102, R103, R109, R110) -/

namespace Sys2Proof.Machine

/-- From `s` to `s'` only streams and ridgeline ends changed, on the ridges `on`; registers of the ridges' blocks below the
ECC counters of offset 0x1410 stand. -/
structure State.SettledOn (on : RidgeId → Prop) (s s' : State) : Prop where
  inside : ∀ h, ∃ ms ps, s'.ridge h = { s.ridge h with streams := ms, ports := ps }
  outside : ∀ h, ¬ on h → s'.ridge h = s.ridge h
  regs : ∀ (g : RidgeId) (off : Nat), off < 0x1410 → s'.reg (rgBlk g) off = s.reg (rgBlk g) off

theorem State.EngineKept.settledOn {s s' : State} (h : s.EngineKept s') (on : RidgeId → Prop) : State.SettledOn on s s' :=
  ⟨fun g => ⟨_, _, h.ridge g⟩, fun g _ => h.ridge g, h.regs⟩

namespace State.SettledOn
variable {on : RidgeId → Prop} {s s' s'' : State}

theorem refl (on : RidgeId → Prop) (s : State) : SettledOn on s s := (EngineKept.refl s).settledOn on

theorem trans (h : SettledOn on s s') (k : SettledOn on s' s'') : SettledOn on s s'' := by
  refine ⟨fun g => ?_, fun g hg => (k.outside g hg).trans (h.outside g hg), fun g o ho => (k.regs g o ho).trans (h.regs g o ho)⟩
  obtain ⟨ms, ps, h1⟩ := h.inside g
  obtain ⟨ms', ps', k1⟩ := k.inside g
  exact ⟨ms', ps', by rw [k1, h1]⟩

theorem kept (h : SettledOn on s s') (k : s'.EngineKept s'') : SettledOn on s s'' := h.trans (k.settledOn on)

/-- One ridge's streams and ridgeline ends replaced. -/
theorem setRidge (h : SettledOn on s s') {g : RidgeId} (hg : on g) (ms : List Stream) (ps : Vector ChainPort 16) :
    SettledOn on s (s'.setRidge g { s'.ridge g with streams := ms, ports := ps }) := by
  refine h.trans ⟨fun k => ?_, fun k hk => ?_, fun _ _ _ => rfl⟩
  · by_cases hkg : k = g
    · exact ⟨ms, ps, by rw [hkg, State.setRidge_ridge]⟩
    · exact ⟨_, _, State.setRidge_ridge_ne _ _ _ _ hkg⟩
  · exact State.setRidge_ridge_ne _ _ _ _ fun e => hk (e ▸ hg)

theorem putStream (h : SettledOn on s s') {g : RidgeId} (hg : on g) (m : Stream) : SettledOn on s (s'.putStream g m) :=
  h.setRidge hg _ _

theorem setPort (h : SettledOn on s s') {g : RidgeId} (hg : on g) (c : Fin 16) (p : ChainPort) :
    SettledOn on s (s'.setPort g c p) := h.setRidge hg _ _

theorem setChain (h : SettledOn on s s') (c : Fin 16) (x : ChainInst) : SettledOn on s (s'.setChain c x) :=
  ⟨h.inside, h.outside, h.regs⟩

theorem bump (h : SettledOn on s s') : SettledOn on s s'.bump := ⟨h.inside, h.outside, h.regs⟩

theorem commitHeld (h : SettledOn on s s') {g : RidgeId} (hg : on g) (m : Stream) (p : Nat → Bool) :
    SettledOn on s (s'.commitHeld g m p) := by
  obtain ⟨s1, m1, heq, hs1, -⟩ := s'.commitHeld_eq g m p
  rw [heq]
  exact (h.kept hs1).putStream hg m1

theorem settleOrdered (h : SettledOn on s s') {g : RidgeId} (hg : on g) (m : Stream) :
    SettledOn on s (s'.settleOrdered g m) := by
  have committed := h.commitHeld hg m fun i => decide (i < min m.passed m.stopIndex)
  unfold State.settleOrdered
  dsimp only
  split
  · exact committed
  · split
    · split
      · exact committed.putStream hg _
      · exact committed
    · split
      · exact committed.putStream hg _
      · exact committed

theorem settleFree (h : SettledOn on s s') {g : RidgeId} (hg : on g) (m : Stream) (now : Bool) :
    SettledOn on s (s'.settleFree g m now) := by
  have committed := (h.commitHeld hg m fun i => (m.fault.isNone && decide (m.e.len ≤ m.passed))
    || Config.orderZeroCommits s'.fresh i).bump
  unfold State.settleFree
  dsimp only
  split
  · exact committed
  · split
    · split
      · exact committed.putStream hg _
      · exact committed
    · split
      · exact committed.putStream hg _
      · exact committed

theorem clearPorts (h : SettledOn on s s') (c : Fin 16) (hall : ∀ g, on g) : SettledOn on s (s'.clearPorts c) :=
  foldl_keeps (SettledOn on s) _ _ _ h fun _ g _ hx => hx.setPort (hall g) c _

theorem putMembers (h : SettledOn on s s') (ms : List (RidgeId × Stream)) (hall : ∀ g, on g) :
    SettledOn on s (s'.putMembers ms) :=
  foldl_keeps (SettledOn on s) _ _ _ h fun _ x _ hx => hx.putStream (hall x.1) x.2

theorem finishInstance (h : SettledOn on s s') (c : Fin 16) (hall : ∀ g, on g) : SettledOn on s (s'.finishInstance c) :=
  (h.putMembers _ hall).clearPorts c hall

theorem settleChain (h : SettledOn on s s') (c : Fin 16) (hall : ∀ g, on g) : SettledOn on s (s'.settleChain c) := by
  unfold State.settleChain
  extract_lets inst ms stop len safe limit s1 s2 done
  have committed : SettledOn on s s2 :=
    foldl_keeps (SettledOn on s) _ _ _ (h.setChain c _) fun _ x _ hx => hx.commitHeld (hall x.1) x.2 _
  split
  · exact h
  · split
    · exact committed.finishInstance c hall
    · exact committed

end State.SettledOn

/-- R102, R109: whoever settles after a row, an unchained stream or a whole chain, only streams and ridgeline ends
change. -/
theorem State.settle_settledOn (s : State) (g : RidgeId) (slot : Fin 16) (now : Bool) :
    State.SettledOn (fun _ => True) s (s.settle g slot now) := by
  unfold State.settle
  split
  · exact .refl _ s
  · split
    · exact .refl _ s
    · split
      · exact (State.SettledOn.refl _ s).settleChain _ fun _ => trivial
      · split
        · exact (State.SettledOn.refl _ s).settleOrdered trivial _
        · exact (State.SettledOn.refl _ s).settleFree trivial _ _

/-! #### An unchained stream settles -/

/-- R102: how an unchained stream of `len` elements with ORDER = 1 ends when its fault or its last element has been
passed. -/
def Stream.orderedEnd (m : Stream) (len : Nat) : Option StreamEnd :=
  match m.fault with
  | some f => if f.1 ≤ m.passed then some ⟨f.2.code, f.1, f.2.addr⟩ else none
  | none => if len ≤ m.passed then some ⟨0, len, 0⟩ else none

/-- What is found of stream `m` in its slot of ridge `g` once it has settled. -/
def State.HasSettled (s : State) (g : RidgeId) (m : Stream) : Prop :=
  ∃ x, (s.ridge g).stream m.slot = some x ∧ x.e = m.e ∧ x.next = m.next
    ∧ (m.e.order = true → x.finished = x.orderedEnd m.e.len)

/-- The stream found in a slot after the commits of the stream that stood there. -/
theorem State.stream_commitHeld {s : State} {g : RidgeId} {m : Stream} (hm : (s.ridge g).stream m.slot = some m)
    (p : Nat → Bool) : ∃ m1, ((s.commitHeld g m p).ridge g).stream m.slot = some m1 ∧ m.SameProgress m1 := by
  obtain ⟨s1, m1, heq, hs1, hm1⟩ := s.commitHeld_eq g m p
  have found : ((s1.ridge g).stream m1.slot).isSome = true := by
    rw [hs1.ridge g, hm1.slot, hm]
    rfl
  exact ⟨m1, by rw [heq, ← hm1.slot, State.stream_putStream_self found], hm1⟩

/-- The stream that settling ends takes its slot's place. -/
theorem State.hasSettled_putStream {s : State} {g : RidgeId} {m m1 : Stream} (h1 : (s.ridge g).stream m.slot = some m1)
    (hm : m.SameProgress m1) {code : Byte} {i : Nat} {addr : Addr}
    (hend : m.e.order = true → some (⟨code, i, addr⟩ : StreamEnd) = m1.orderedEnd m.e.len) :
    (s.putStream g (m1.finish code i addr)).HasSettled g m := by
  have found : ((s.ridge g).stream (m1.finish code i addr).slot).isSome = true := by
    rw [show (m1.finish code i addr).slot = m.slot from hm.slot, h1]
    rfl
  refine ⟨m1.finish code i addr, ?_, hm.e, hm.next, hend⟩
  rw [← hm.slot]
  exact State.stream_putStream_self found

/-- A stream that settling does not end stands as its commits left it. -/
theorem State.hasSettled_of_stream {s : State} {g : RidgeId} {m m1 : Stream} (h1 : (s.ridge g).stream m.slot = some m1)
    (hm : m.SameProgress m1) (hend : m.e.order = true → m1.finished = m1.orderedEnd m.e.len) : s.HasSettled g m :=
  ⟨m1, h1, hm.e, hm.next, hend⟩

theorem State.settleOrdered_hasSettled {s : State} {g : RidgeId} {m : Stream} (hm : (s.ridge g).stream m.slot = some m)
    (hfin : m.finished = none) : (s.settleOrdered g m).HasSettled g m := by
  obtain ⟨m1, h1, hm1⟩ := State.stream_commitHeld hm fun i => decide (i < min m.passed m.stopIndex)
  have hnone : m1.finished = none := hm1.finished.trans hfin
  unfold State.settleOrdered
  dsimp only
  rw [h1]
  dsimp only
  rw [hm1.e]
  split
  · next f hf =>
    split
    · next hle => exact State.hasSettled_putStream h1 hm1 fun _ => by simp [Stream.orderedEnd, hf, hle]
    · next hgt => exact State.hasSettled_of_stream h1 hm1 fun _ => by simp [Stream.orderedEnd, hf, hgt, hnone]
  · next hf =>
    split
    · next hle => exact State.hasSettled_putStream h1 hm1 fun _ => by simp [Stream.orderedEnd, hf, hle]
    · next hgt => exact State.hasSettled_of_stream h1 hm1 fun _ => by simp [Stream.orderedEnd, hf, hgt, hnone]

theorem State.settleFree_hasSettled {s : State} {g : RidgeId} {m : Stream} (hm : (s.ridge g).stream m.slot = some m)
    (horder : m.e.order = false) (now : Bool) : (s.settleFree g m now).HasSettled g m := by
  have vacuous {p : Prop} : m.e.order = true → p := fun h => absurd (horder.symm.trans h) Bool.false_ne_true
  obtain ⟨m1, h1, hm1⟩ := State.stream_commitHeld hm fun i => (m.fault.isNone && decide (m.e.len ≤ m.passed))
    || Config.orderZeroCommits s.fresh i
  unfold State.settleFree
  dsimp only
  rw [State.bump_ridge, h1]
  dsimp only
  split
  · split
    · exact State.hasSettled_putStream h1 hm1 vacuous
    · exact State.hasSettled_of_stream h1 hm1 vacuous
  · split
    · exact State.hasSettled_putStream h1 hm1 vacuous
    · exact State.hasSettled_of_stream h1 hm1 vacuous

/-- R102, R103: an unchained stream settles on its own ridge. -/
theorem State.settle_unchained {s : State} {g : RidgeId} {m : Stream} (hm : (s.ridge g).stream m.slot = some m)
    (hfin : m.finished = none) (hch : m.chid = none) :
    State.SettledOn (· = g) s (s.settle g m.slot) ∧ (s.settle g m.slot).HasSettled g m := by
  have hnot : m.finished.isSome = false := by rw [hfin]; rfl
  cases horder : m.e.order with
  | true =>
    have heq : s.settle g m.slot = s.settleOrdered g m := by simp [State.settle, hm, hnot, hch, horder]
    rw [heq]
    exact ⟨(State.SettledOn.refl (· = g) s).settleOrdered rfl m, State.settleOrdered_hasSettled hm hfin⟩
  | false =>
    have heq : s.settle g m.slot = s.settleFree g m false := by simp [State.settle, hm, hnot, hch, horder]
    rw [heq]
    exact ⟨(State.SettledOn.refl (· = g) s).settleFree rfl m false, State.settleFree_hasSettled hm horder false⟩

end Sys2Proof.Machine

/-! ### Steps of a ridge: LN_STEPS, the ridgeline, the row of a group (R119, R120, R131, R135) -/

namespace Sys2Proof.Machine

/-! #### LN_STEPS -/

theorem satAdd_zero (w v : Nat) (h : v < 2 ^ w) : satAdd w v 0 = v := if_pos h

/-- Counting changes registers only. -/
theorem State.countOf_frame (s : State) (b o lo w n : Nat) :
    s.countOf b o lo w n = { s with regs := (s.countOf b o lo w n).regs } := rfl

section CountSteps
variable (s : State) (g : RidgeId) (busy total : Nat)

theorem State.countSteps_frame : s.countSteps g busy total = { s with regs := (s.countSteps g busy total).regs } := by
  generalize hc : (s.countSteps g busy total).regs = rs
  rw [State.countSteps] at hc ⊢
  rw [State.countOf_frame, hc, State.countOf_frame]

@[simp] theorem State.countSteps_ridge (h : RidgeId) : (s.countSteps g busy total).ridge h = s.ridge h := by
  rw [State.countSteps, State.countOf_ridge, State.countOf_ridge]

/-- R135: BUSY. -/
theorem State.countSteps_busy : (s.countSteps g busy total).fieldOf (rgBlk g) 0x1200 0 32
    = satAdd 32 (s.fieldOf (rgBlk g) 0x1200 0 32) busy := by
  rw [State.countSteps, State.countOf, State.setFieldOf_fieldOf_disjoint _ _ _ _ _ _ _ _ (by decide) (by decide),
    State.countOf_fieldOf _ _ _ _ _ _ (by decide)]

/-- R135: TOTAL. -/
theorem State.countSteps_total : (s.countSteps g busy total).fieldOf (rgBlk g) 0x1200 32 32
    = satAdd 32 (s.fieldOf (rgBlk g) 0x1200 32 32) total := by
  rw [State.countSteps, State.countOf_fieldOf _ _ _ _ _ _ (by decide), State.countOf,
    State.setFieldOf_fieldOf_disjoint _ _ _ _ _ _ _ _ (by decide) (by decide)]

theorem State.countSteps_reg_ne (b o : Nat) (h : regKey b o ≠ regKey (rgBlk g) 0x1200) :
    (s.countSteps g busy total).reg b o = s.reg b o := by
  rw [State.countSteps, State.countOf_reg_ne _ _ _ _ _ _ _ _ h, State.countOf_reg_ne _ _ _ _ _ _ _ _ h]

theorem State.countSteps_onlyRegs : s.OnlyRegs (s.countSteps g busy total) [(rgBlk g, 0x1200)] :=
  fun b o h => s.countSteps_reg_ne g busy total b o (h (rgBlk g, 0x1200) (.head _))

end CountSteps

/-! #### The ridgeline -/

/-- Who sends next is a matter of the ridgeline ends and of SE_CHAINn. -/
theorem State.nextSender_congr {s s' : State} {g : RidgeId} (hports : (s'.ridge g).ports = (s.ridge g).ports)
    (hregs : ∀ c : Fin 16, s'.reg (rgBlk g) (0x1100 + 8 * c.val) = s.reg (rgBlk g) (0x1100 + 8 * c.val)) (dir last : Nat) :
    s'.nextSender g dir last = s.nextSender g dir last := by
  have hport (c : Fin 16) : s'.port g c = s.port g c := congrArg (fun ps : Vector ChainPort 16 => ps[c]) hports
  have hout (c : Fin 16) : s'.chainOut g c = s.chainOut g c := congrArg (fun v => field v 2 2) (hregs c)
  simp only [State.nextSender, hport, hout]

/-- No CHID has a row to send on ridge `g`. -/
def State.NoSender (s : State) (g : RidgeId) : Prop := ∀ dir last, s.nextSender g dir last = none

theorem State.sendRow_noSender {s : State} {g : RidgeId} (h : s.NoSender g) (dir : Nat) : s.sendRow g dir = s := by
  unfold State.sendRow
  dsimp only
  rw [h]

/-- R132: with nothing to send the ports of a ridge stay as they are. -/
theorem State.sendRows_noSender {s : State} {g : RidgeId} (h : s.NoSender g) (steps : Nat) : s.sendRows g steps = s := by
  refine foldl_keeps (· = s) _ _ s rfl fun x _ _ hx => ?_
  rw [hx, State.sendRow_noSender h, State.sendRow_noSender h]

/-! #### A step without a ready group -/

/-- R205: the idle microword as read: what a parity failure of it does. -/
def State.afterIdle (s : State) (g : RidgeId) : State :=
  match (s.ridge g).readFails 0 0 with
  | some pf => s.idleParity g pf
  | none => s

theorem State.idleStep_eq_afterIdle (s : State) (g : RidgeId) :
    s.idleStep g = ((s.countSteps g 0 1).sendRows g 1).afterIdle g := rfl

theorem State.afterIdle_eq_self {s : State} {g : RidgeId} (h : (s.ridge g).readFails 0 0 = none) : s.afterIdle g = s := by
  unfold State.afterIdle
  rw [h]

/-- R119, R135: the idle microword counts in TOTAL. -/
theorem State.idleStep_eq {s : State} {g : RidgeId} (hsend : s.NoSender g) (hidle : (s.ridge g).readFails 0 0 = none) :
    s.idleStep g = s.countSteps g 0 1 := by
  have hreg (c : Fin 16) : (s.countSteps g 0 1).reg (rgBlk g) (0x1100 + 8 * c.val) = s.reg (rgBlk g) (0x1100 + 8 * c.val) :=
    s.countSteps_reg_ne g 0 1 _ _ (regKey_ne_of_off _ (by omega))
  have quiet : (s.countSteps g 0 1).NoSender g := fun dir last =>
    (State.nextSender_congr (congrArg Ridge.ports (s.countSteps_ridge g 0 1 g)) hreg dir last).trans (hsend dir last)
  rw [State.idleStep_eq_afterIdle, State.sendRows_noSender quiet,
    State.afterIdle_eq_self (by rw [State.countSteps_ridge, hidle])]

/-! #### The row of an unchained stream -/

/-- The stream `m` of ridge `g` is a group of its own, runs a basic code and has no row in progress (R118, R196). -/
structure State.RunsAlone (s : State) (g : RidgeId) (m : Stream) : Prop where
  chid : m.chid = none
  basic : m.e.op < 0x800
  idle : s.microBusy g [m] = false

/-- R118, R120: the state after the row of such a stream, its `steps` steps counted. -/
def State.rowCounted (s : State) (g : RidgeId) (m : Stream) (steps : Nat) : State :=
  ((s.soloRow g m).st.putStream g (s.soloRow g m).m).bump.countSteps g steps steps

/-- R119: the state after the row, its turn noted, before the stream settles. -/
def State.rowServed (s : State) (g : RidgeId) (m : Stream) (steps : Nat) : State :=
  (s.rowCounted g m steps).setRidge g { (s.rowCounted g m steps).ridge g with rrSlot := m.slot.val }

theorem groupSlot_singleton (m : Stream) : groupSlot [m] = m.slot.val := by
  show min 15 m.slot.val = m.slot.val
  omega

section SoloRow
variable {s : State} {g : RidgeId} {m : Stream} (hlen : m.next < m.e.len) (hfirst : m.first ≤ m.next)
include hlen hfirst

/-- What the row leaves outside the ridge, and on it, before the stream settles. -/
theorem State.rowServed_kept (steps : Nat) :
    (∀ h, h ≠ g → (s.rowServed g m steps).ridge h = s.ridge h)
      ∧ (s.rowServed g m steps).ridge g
        = { (s.ridge g).putStream (s.soloRow g m).m with rrSlot := m.slot.val }
      ∧ (∀ off, off < 0x1410 → off ≠ 0x1200 → (s.rowServed g m steps).reg (rgBlk g) off = s.reg (rgBlk g) off)
      ∧ (s.rowServed g m steps).fieldOf (rgBlk g) 0x1200 0 32 = satAdd 32 (s.fieldOf (rgBlk g) 0x1200 0 32) steps
      ∧ (s.rowServed g m steps).fieldOf (rgBlk g) 0x1200 32 32 = satAdd 32 (s.fieldOf (rgBlk g) 0x1200 32 32) steps := by
  obtain ⟨hst, -, -⟩ := s.soloRow_kept g m hlen hfirst
  have hreg (off : Nat) (ho : off < 0x1410) :
      (((s.soloRow g m).st.putStream g (s.soloRow g m).m).bump).reg (rgBlk g) off = s.reg (rgBlk g) off := by
    rw [State.bump_reg, State.putStream_reg, hst.regs g off ho]
  have hfield (lo w : Nat) : (((s.soloRow g m).st.putStream g (s.soloRow g m).m).bump).fieldOf (rgBlk g) 0x1200 lo w
      = s.fieldOf (rgBlk g) 0x1200 lo w := congrArg (fun v => field v lo w) (hreg 0x1200 (by decide))
  have hserved (b o : Nat) : (s.rowServed g m steps).reg b o = (s.rowCounted g m steps).reg b o := State.setRidge_reg _ _ _ _ _
  refine ⟨fun h hne => ?_, ?_, fun off ho hne => ?_, ?_, ?_⟩
  · rw [State.rowServed, State.setRidge_ridge_ne _ _ _ _ hne, State.rowCounted, State.countSteps_ridge, State.bump_ridge,
      State.putStream, State.setRidge_ridge_ne _ _ _ _ hne, hst.ridge]
  · rw [State.rowServed, State.setRidge_ridge, State.rowCounted, State.countSteps_ridge, State.bump_ridge, State.putStream,
      State.setRidge_ridge, hst.ridge]
  · rw [hserved, State.rowCounted, State.countSteps_reg_ne _ _ _ _ _ _ (regKey_ne_of_off _ hne), hreg off ho]
  · rw [State.fieldOf, hserved, State.rowCounted, ← State.fieldOf, State.countSteps_busy, hfield]
  · rw [State.fieldOf, hserved, State.rowCounted, ← State.fieldOf, State.countSteps_total, hfield]

/-- R119: the row of an unchained stream with a basic code, none of whose accesses has to wait. -/
theorem State.groupRow_solo (halone : s.RunsAlone g m) (hwait : ∀ x ∈ (s.groupTurn g [m] m.rowElems).ms, x.waits = false) (hsend : s.NoSender g) :
    s.groupRow g m = some ((s.rowServed g m (s.groupTurn g [m] m.rowElems).cost.steps).settle g m.slot) := by
  obtain ⟨hst, hms, hsteps, hparity⟩ := s.groupTurn_solo g m halone.basic hlen
  obtain ⟨-, hridge, hregs, -, -⟩ := State.rowServed_kept hlen hfirst (s.groupTurn g [m] m.rowElems).cost.steps
  have quiet : (s.rowServed g m (s.groupTurn g [m] m.rowElems).cost.steps).NoSender g := fun dir last => by
    rw [State.nextSender_congr (s := s) ?_ fun c => ?_, hsend dir last]
    · rw [hridge]
      rfl
    · exact hregs _ (by omega) (by omega)
  have hsent := State.sendRows_noSender quiet (s.groupTurn g [m] m.rowElems).cost.steps
  have hgroup : s.groupOf g m = [m] := by simp [State.groupOf, halone.chid]
  have hinput : s.groupInput g [m] m = (m.rowElems, s) := by simp [State.groupInput, halone.idle, halone.chid]
  have hany : ([(s.soloRow g m).m].any fun x => x.waits) = false := by simpa [hms] using hwait
  unfold State.groupRow
  simp only [hgroup, hinput, hany, hst, hms, hsteps, hparity, halone.chid, Nat.zero_max, groupSlot_singleton,
    List.foldl_cons, List.foldl_nil, Bool.false_eq_true, if_false]
  exact congrArg (fun x : State => some (x.settle g m.slot)) hsent

end SoloRow

end Sys2Proof.Machine

/-! ### STEP_GROUP_ROW (R119, R206) -/

namespace Sys2Proof.Machine

/-! #### The group whose turn it is -/

/-- R119: the group whose turn it is starts with a stream of the ridge and is ready. -/
theorem State.nextGroup_ready {s : State} {g : RidgeId} {m : Stream} (h : s.nextGroup g = some m) :
    m ∈ (s.ridge g).streams ∧ s.groupReady g (s.groupOf g m) m = true := by
  have hmem : m ∈ s.readyGroups g := List.mem_of_head? h
  have hready : m ∈ (s.groupHeads g).filter fun m => s.groupReady g (s.groupOf g m) m := by
    unfold State.readyGroups at hmem
    dsimp only at hmem
    split at hmem
    · next x xs hx =>
      rw [List.mem_singleton.1 hmem]
      exact (List.mem_filter.1 (hx ▸ List.mem_cons_self ..)).1
    · rcases List.mem_append.1 hmem with hm | hm <;> exact (List.mem_filter.1 hm).1
  obtain ⟨hhead, hr⟩ := List.mem_filter.1 hready
  obtain ⟨k, -, hk⟩ := List.mem_flatMap.1 hhead
  exact ⟨(List.mem_filter.1 hk).1, hr⟩

/-- R119: an unchained stream that is ready without a row in progress has not ended and has elements left. -/
theorem State.RunsAlone.of_ready {s : State} {g : RidgeId} {m : Stream} (halone : s.RunsAlone g m)
    (h : s.groupReady g (s.groupOf g m) m = true) : m.finished = none ∧ m.next < m.e.len := by
  have hgroup : s.groupOf g m = [m] := by simp [State.groupOf, halone.chid]
  simpa [State.groupReady, hgroup, halone.idle, halone.chid] using h

/-! #### The command -/

section Exec
variable {s : State} {g : RidgeId} (hruns : s.sequencerRuns g = true) (hswap : (s.ridge g).swap = none)
include hruns hswap

/-- R206: a parity failure on the row side of a ridge that works. -/
theorem exec_stepGroupRow_parity (pf : ParityFail) : exec (.stepGroupRow g (some pf)) s = .next (s.rowParity g pf) := by
  obtain ⟨hridge, -⟩ := Bool.and_eq_true_iff.1 hruns
  show execStepGroupRow g (some pf) s = _
  simp only [execStepGroupRow, hridge, hruns, hswap, Option.isSome_none, Bool.not_true, Bool.or_self, Bool.false_eq_true,
    if_false]

/-- R119: the group whose turn it is runs its row, when its operands are there. -/
theorem exec_stepGroupRow_row {m : Stream} {s' : State} (hnext : s.nextGroup g = some m) (hrow : s.groupRow g m = some s') :
    exec (.stepGroupRow g none) s = .next s' := by
  obtain ⟨hridge, -⟩ := Bool.and_eq_true_iff.1 hruns
  obtain ⟨rest, hrest⟩ : ∃ rest, s.readyGroups g = m :: rest := List.head?_eq_some_iff.1 hnext
  have hfirst : ((s.readyGroups g).findSome? fun m => s.groupRow g m) = some s' := by
    rw [hrest, List.findSome?_cons, hrow]
  show execStepGroupRow g none s = _
  simp only [execStepGroupRow, hridge, hruns, hswap, hfirst, Option.isSome_none, Bool.not_true, Bool.or_self,
    Bool.false_eq_true, if_false]

/-- R119: without a ready group the step carries the idle microword. -/
theorem exec_stepGroupRow_idle (hnext : s.nextGroup g = none) : exec (.stepGroupRow g none) s = .next (s.idleStep g) := by
  obtain ⟨hridge, -⟩ := Bool.and_eq_true_iff.1 hruns
  have hnil : s.readyGroups g = [] := List.head?_eq_none_iff.1 hnext
  show execStepGroupRow g none s = _
  simp only [execStepGroupRow, hridge, hruns, hswap, hnil, List.findSome?_nil, Option.isSome_none, Bool.not_true,
    Bool.or_self, Bool.false_eq_true, if_false]

/-- R119, R135: a step without a ready group counts in TOTAL and changes nothing else. -/
theorem stepGroupRow_idle_answers (hnext : s.nextGroup g = none) (hidle : (s.ridge g).readFails 0 0 = none)
    (hsend : s.NoSender g) : Answers (.stepGroupRow g none) s fun s' =>
      s'.fieldOf (rgBlk g) 0x1200 32 32 = satAdd 32 (s.fieldOf (rgBlk g) 0x1200 32 32) 1
        ∧ s'.fieldOf (rgBlk g) 0x1200 0 32 = s.fieldOf (rgBlk g) 0x1200 0 32
        ∧ s.OnlyRegs s' [(rgBlk g, 0x1200)] ∧ s' = { s with regs := s'.regs } := by
  refine ⟨s.countSteps g 0 1, ?_, s.countSteps_total g 0 1, ?_, s.countSteps_onlyRegs g 0 1, s.countSteps_frame g 0 1⟩
  · rw [exec_stepGroupRow_idle hruns hswap hnext, State.idleStep_eq hsend hidle]
  · rw [s.countSteps_busy g 0 1]
    exact satAdd_zero 32 _ (field_lt _ _ _)

/-- R102, R119, R120, R135: one row of an unchained stream with a basic code. -/
theorem stepGroupRow_solo_answers {m : Stream} (hnext : s.nextGroup g = some m) (halone : s.RunsAlone g m)
    (hfirst : m.first ≤ m.next) (hwait : ∀ x ∈ (s.groupTurn g [m] m.rowElems).ms, x.waits = false)
    (hsend : s.NoSender g) : Answers (.stepGroupRow g none) s fun s' =>
      (∀ h, h ≠ g → s'.ridge h = s.ridge h) ∧ (s'.ridge g).rrSlot = m.slot.val
        ∧ s'.fieldOf (rgBlk g) 0x1200 0 32
          = satAdd 32 (s.fieldOf (rgBlk g) 0x1200 0 32) (s.groupTurn g [m] m.rowElems).cost.steps
        ∧ s'.fieldOf (rgBlk g) 0x1200 32 32
          = satAdd 32 (s.fieldOf (rgBlk g) 0x1200 32 32) (s.groupTurn g [m] m.rowElems).cost.steps
        ∧ ∃ x, (s'.ridge g).stream m.slot = some x ∧ x.e = m.e ∧ x.next = m.rowEnd
          ∧ (m.e.order = true → x.finished = x.orderedEnd m.e.len) := by
  obtain ⟨hmem, hready⟩ := State.nextGroup_ready hnext
  obtain ⟨hfin, hlen⟩ := halone.of_ready hready
  obtain ⟨-, hjob, hend⟩ := s.soloRow_kept g m hlen hfirst
  generalize hsteps : (s.groupTurn g [m] m.rowElems).cost.steps = steps
  obtain ⟨hothers, hridge, -, hbusy, htotal⟩ := State.rowServed_kept hlen hfirst steps
  have hrow := State.groupRow_solo hlen hfirst halone hwait hsend
  rw [hsteps] at hrow
  have hin : ((s.rowServed g m steps).ridge g).stream (s.soloRow g m).m.slot = some (s.soloRow g m).m := by
    have hsome : ((s.ridge g).stream (s.soloRow g m).m.slot).isSome = true := by
      rw [hjob.slot]
      exact Ridge.stream_isSome_of_mem hmem
    rw [hridge]
    have hput := State.stream_putStream_self hsome
    rwa [State.putStream, State.setRidge_ridge] at hput
  obtain ⟨hsettled, x, hx, he, hn, horder⟩ := State.settle_unchained hin (hjob.finished.trans hfin) (hjob.chid.trans halone.chid)
  rw [hjob.slot] at hsettled hx
  rw [hjob.e] at horder
  obtain ⟨ms, ps, hring⟩ := hsettled.inside g
  have hfield (lo w : Nat) : ((s.rowServed g m steps).settle g m.slot).fieldOf (rgBlk g) 0x1200 lo w
      = (s.rowServed g m steps).fieldOf (rgBlk g) 0x1200 lo w :=
    congrArg (fun v => field v lo w) (hsettled.regs g 0x1200 (by decide))
  refine ⟨_, exec_stepGroupRow_row hruns hswap hnext hrow, fun h hne => ?_, ?_, ?_, ?_, x, hx, he.trans hjob.e, hn.trans hend,
    horder⟩
  · rw [hsettled.outside h hne, hothers h hne]
  · rw [hring, hridge]
  · rw [hfield, hbusy]
  · rw [hfield, htotal]

end Exec

/-! #### A parity failure (R206) -/

/-- R206, R207: what a parity failure leaves on its ridge: the word waits for its rewrite, the ridge for the sweep, and
UC_PARITY shows the failure. -/
def State.NotesFailure (s : State) (g : RidgeId) (pf : ParityFail) : Prop :=
  failedWord pf ∈ (s.ridge g).rewrite ∧ (s.ridge g).sweepQueued = true ∧ s.flagOf (rgBlk g) 0x1300 52 = true

theorem State.noteParity_notesFailure (s : State) (g : RidgeId) (core : Bool) (pf : ParityFail) :
    (s.noteParity g core pf).NotesFailure g pf := by
  unfold State.noteParity
  extract_lets s1 r word known
  refine ⟨?_, ?_, ?_⟩
  · rw [State.setRidge_ridge]
    show word ∈ if r.rewrite.contains word then r.rewrite else r.rewrite ++ [word]
    split
    · next h => exact List.contains_iff_mem.1 h
    · exact List.mem_append_right _ (List.mem_singleton_self _)
  · rw [State.setRidge_ridge]
  · rw [State.flagOf, State.setRidge_reg, ← State.flagOf]
    exact State.setFlagOf_flagOf _ _ _ _ _ (by decide)

/-- Streams and ridgeline ends do not bear on it. -/
theorem State.NotesFailure.settledOn {s s' : State} {g : RidgeId} {pf : ParityFail} {on : RidgeId → Prop}
    (h : s.NotesFailure g pf) (k : State.SettledOn on s s') : s'.NotesFailure g pf := by
  obtain ⟨hword, hsweep, hflag⟩ := h
  obtain ⟨ms, ps, hring⟩ := k.inside g
  refine ⟨?_, ?_, ?_⟩
  · rw [hring]
    exact hword
  · rw [hring]
    exact hsweep
  · rw [State.flagOf, k.regs g 0x1300 (by decide), ← State.flagOf, hflag]

theorem State.parityStop_settledOn (s : State) (g : RidgeId) (m : Stream) (pf : ParityFail) :
    State.SettledOn (fun _ => True) s (s.parityStop g m pf) := by
  have stopped (x : Stream) (source : Nat) :=
    ((State.SettledOn.refl (fun _ => True) s).putStream (g := g) trivial x).kept
      ((State.EngineKept.refl _).machineCheck (.stream g m.th) source 0)
  exact (stopped _ _).trans (State.settle_settledOn _ _ _ _)

/-- R206: a parity failure on the row side is noted, whether it hits a group's row or the idle microword. -/
theorem State.rowParity_notesFailure (s : State) (g : RidgeId) (pf : ParityFail) : (s.rowParity g pf).NotesFailure g pf := by
  unfold State.rowParity
  split
  · exact (State.noteParity_notesFailure _ g false pf).settledOn (State.parityStop_settledOn _ _ _ _)
  · exact (State.noteParity_notesFailure _ g false pf).settledOn
      (((State.EngineKept.refl _).machineCheck .other _ 0).settledOn fun _ => True)

end Sys2Proof.Machine

/-! ### Admission and timeout of chain instances (R89, R107, R108) -/

namespace Sys2Proof.Machine

/-! #### What settling leaves of the chain instances -/

/-- Commits change nothing of the chains. -/
theorem State.commitHeld_chains (s : State) (g : RidgeId) (m : Stream) (p : Nat → Bool) :
    (s.commitHeld g m p).chains = s.chains := by
  obtain ⟨s1, m1, heq, hs1, -⟩ := s.commitHeld_eq g m p
  rw [heq, State.putStream_chains, hs1.chains]

theorem State.putMembers_chains (s : State) (ms : List (RidgeId × Stream)) : (s.putMembers ms).chains = s.chains :=
  foldl_keeps (fun x : State => x.chains = s.chains) _ _ _ rfl fun _ _ _ hx => hx

theorem State.finishInstance_chains (s : State) (c : Fin 16) : (s.finishInstance c).chains = s.chains :=
  foldl_keeps (fun x : State => x.chains = s.chains) _ _ _ (s.putMembers_chains _) fun _ _ _ hx => hx

/-- R109: settling leaves a chain closed and admitted as it was. -/
theorem State.settleChain_chain (s : State) (c : Fin 16) :
    ((s.settleChain c).chain c).closed = (s.chain c).closed ∧ ((s.settleChain c).chain c).admitted = (s.chain c).admitted := by
  unfold State.settleChain
  extract_lets inst ms stop len safe limit s1 s2 done
  have hchains : s2.chains = s1.chains :=
    foldl_keeps (fun x : State => x.chains = s1.chains) _ _ _ rfl fun x y _ hx => (x.commitHeld_chains y.1 y.2 _).trans hx
  have hs1 : s1.chain c = { inst with stop := stop, safe := safe } := State.setChain_chain _ _ _
  have standing {x : State} (hx : x.chains = s1.chains) :
      (x.chain c).closed = inst.closed ∧ (x.chain c).admitted = inst.admitted := by
    have hc : x.chain c = s1.chain c := congrArg (fun cs : Vector ChainInst 16 => cs[c]) hx
    rw [hc, hs1]
    exact ⟨rfl, rfl⟩
  split
  · exact ⟨rfl, rfl⟩
  · split
    · exact standing ((s2.finishInstance_chains c).trans hchains)
    · exact standing hchains

/-- R107: an admitted chain is closed to further members. -/
theorem State.admitChain_chain (s : State) (c : Fin 16) :
    ((s.admitChain c).chain c).admitted = true ∧ ((s.admitChain c).chain c).closed = true := by
  unfold State.admitChain
  extract_lets ms start s1 _ s2
  obtain ⟨hclosed, hadmitted⟩ := s2.settleChain_chain c
  have hs2 : s2.chain c = { s1.chain c with closed := true, admitted := true, safe := start } := State.setChain_chain _ _ _
  rw [hclosed, hadmitted, hs2]
  exact ⟨rfl, rfl⟩

/-! #### Members put back -/

/-- The stream in slot `k` of ridge `g` is there and `P` holds of it. -/
def State.Shows (s : State) (P : Stream → Prop) (g : RidgeId) (k : Fin 16) : Prop :=
  ∃ y, (s.ridge g).stream k = some y ∧ P y

/-- Streams of which `P` holds take no slot away that shows one. -/
theorem State.Shows.putStream {s : State} {P : Stream → Prop} {g h : RidgeId} {k : Fin 16} {m : Stream}
    (hs : s.Shows P h k) (hm : P m) : (s.putStream g m).Shows P h k := by
  obtain ⟨y, hy, hp⟩ := hs
  by_cases hg : h = g
  · subst hg
    rw [State.Shows, State.putStream, State.setRidge_ridge, Ridge.stream_putStream, hy]
    split
    · exact ⟨m, rfl, hm⟩
    · exact ⟨y, rfl, hp⟩
  · rw [State.Shows, State.putStream, State.setRidge_ridge_ne _ _ _ _ hg]
    exact ⟨y, hy, hp⟩

/-- Members of which `P` holds, put back into slots that are taken, show there. -/
theorem State.putMembers_shows {P : Stream → Prop} (ms : List (RidgeId × Stream)) (hp : ∀ y ∈ ms, P y.2) (s : State) :
    ∀ y ∈ ms, ((s.ridge y.1).stream y.2.slot).isSome = true → (s.putMembers ms).Shows P y.1 y.2.slot := by
  induction ms generalizing s with
  | nil => simp
  | cons x rest ih =>
    obtain ⟨hx, hrest⟩ := List.forall_mem_cons.1 hp
    refine List.forall_mem_cons.2 ⟨fun hin => ?_, fun y hy hin => ?_⟩
    · have now : (s.putStream x.1 x.2).Shows P x.1 x.2.slot := ⟨x.2, State.stream_putStream_self hin, hx⟩
      exact foldl_keeps (fun z : State => z.Shows P x.1 x.2.slot) _ rest _ now fun z y hy hz => hz.putStream (hrest y hy)
    · exact ih hrest _ y hy (State.stream_putStream_isSome hin)

/-- A member of a chain stands in its slot. -/
theorem State.stream_isSome_of_instanceMember {s : State} {c : Fin 16} {x : RidgeId × Stream}
    (h : x ∈ s.instanceMembers c) : ((s.ridge x.1).stream x.2.slot).isSome = true := by
  obtain ⟨g, -, hg⟩ := List.mem_flatMap.1 h
  obtain ⟨m, hm, rfl⟩ := List.mem_map.1 hg
  obtain ⟨k, -, hk⟩ := List.mem_flatMap.1 hm
  exact Ridge.stream_isSome_of_mem (List.mem_filter.1 (List.mem_filter.1 hk).1).1

/-! #### Instances that never moved an element -/

/-- R89, R108: a stream that has ended at its START with nothing held; where `reported` says that another member gives
the reason, with code 0x08. -/
def Stream.Aborted (reported : Bool) (m : Stream) : Prop :=
  m.held = [] ∧ ∃ code, m.finished = some ⟨code, m.e.start, 0⟩ ∧ (reported = true → code = 0x08)

theorem Stream.finish_aborted (m : Stream) {code : Byte} {reported : Bool} (h : reported = true → code = 0x08) :
    (m.finish code m.e.start 0).Aborted reported := ⟨rfl, code, rfl, h⟩

/-- The first of the members to abort ends where it stands, and the others follow. -/
theorem abortMembers_cons (reported : Bool) (x : RidgeId × Stream) (rest : List (RidgeId × Stream)) :
    ∃ code later, abortMembers reported (x :: rest) = (x.1, x.2.finish code x.2.e.start 0) :: abortMembers later rest
      ∧ (reported = true → code = 0x08 ∧ later = true) := by
  obtain ⟨g, m⟩ := x
  rw [abortMembers]
  split
  · cases reported with
    | true => exact ⟨_, _, rfl, fun _ => ⟨rfl, rfl⟩⟩
    | false => exact ⟨_, _, rfl, fun h => absurd h Bool.false_ne_true⟩
  · exact ⟨_, _, rfl, fun h => ⟨rfl, h⟩⟩

theorem abortMembers_aborted (reported : Bool) (ms : List (RidgeId × Stream)) :
    ∀ y ∈ abortMembers reported ms, y.2.Aborted reported := by
  induction ms generalizing reported with
  | nil => simp [abortMembers]
  | cons x rest ih =>
    obtain ⟨code, later, heq, hcode⟩ := abortMembers_cons reported x rest
    rw [heq]
    refine List.forall_mem_cons.2 ⟨x.2.finish_aborted fun h => (hcode h).1, fun y hy => ?_⟩
    cases reported with
    | true => exact (hcode rfl).2 ▸ ih later y hy
    | false =>
      obtain ⟨hheld, c, hfin, -⟩ := ih later y hy
      exact ⟨hheld, c, hfin, fun h => absurd h Bool.false_ne_true⟩

/-- Every member is among those aborted, in its place. -/
theorem abortMembers_covers (reported : Bool) (ms : List (RidgeId × Stream)) :
    ∀ x ∈ ms, ∃ y ∈ abortMembers reported ms, y.1 = x.1 ∧ y.2.slot = x.2.slot := by
  induction ms generalizing reported with
  | nil => simp
  | cons x rest ih =>
    obtain ⟨code, later, heq, -⟩ := abortMembers_cons reported x rest
    rw [heq]
    refine List.forall_mem_cons.2 ⟨⟨_, List.mem_cons_self .., rfl, rfl⟩, fun z hz => ?_⟩
    obtain ⟨y, hy, hplace⟩ := ih later z hz
    exact ⟨y, List.mem_cons_of_mem _ hy, hplace⟩

/-- R89, R108: an aborted chain is closed, and each of its members has ended. -/
theorem State.abortInstance_shows (s : State) (c : Fin 16) (reported : Bool) :
    (s.abortInstance c reported).chain c = { s.chain c with closed := true }
      ∧ ∀ x ∈ s.instanceMembers c, (s.abortInstance c reported).Shows (Stream.Aborted reported) x.1 x.2.slot := by
  refine ⟨State.setChain_chain _ _ _, fun x hx => ?_⟩
  obtain ⟨y, hy, hridge, hslot⟩ := abortMembers_covers reported (s.instanceMembers c) x hx
  have hin := State.stream_isSome_of_instanceMember hx
  rw [← hridge, ← hslot] at hin ⊢
  exact State.putMembers_shows _ (abortMembers_aborted reported _) s y hy hin

/-! #### The commands -/

section Exec
variable {s : State} {c : Fin 16} (hactive : (s.chain c).active = true) (hopen : (s.chain c).closed = false)
include hactive hopen

/-- R107: admission of a chain all of whose members are there. -/
theorem exec_chainAdmission (hgathered : s.gathered c = true) :
    exec (.chainAdmission c) s
      = .next (if (s.instanceMembers c).any fun m => m.2.launchBad then s.abortInstance c false else s.admitChain c) := by
  show execChainAdmission c s = _
  simp only [execChainAdmission, hactive, hopen, hgathered, Bool.not_true, Bool.or_self, Bool.false_eq_true, if_false]
  split <;> rfl

/-- R108: the timeout of a chain with a member on the ridge that counts. -/
theorem exec_chainTimeout {g : RidgeId} (h : s.membersOn g c ≠ []) :
    exec (.chainTimeout g c) s = .next (s.abortInstance c true) := by
  have hempty : (s.membersOn g c).isEmpty = false := by simpa using h
  show execChainTimeout g c s = _
  simp only [execChainTimeout, hactive, hopen, hempty, Bool.not_true, Bool.or_self, Bool.false_eq_true, if_false]

/-- R107: without a failed launch the chain is admitted. -/
theorem chainAdmission_admits (hgathered : s.gathered c = true) (hgood : ∀ x ∈ s.instanceMembers c, x.2.launchBad = false) :
    Answers (.chainAdmission c) s fun s' => (s'.chain c).admitted = true ∧ (s'.chain c).closed = true := by
  have hany : ((s.instanceMembers c).any fun m => m.2.launchBad) = false :=
    List.any_eq_false.2 fun x hx => by simp [hgood x hx]
  refine ⟨_, exec_chainAdmission hactive hopen hgathered, ?_⟩
  rw [hany]
  exact s.admitChain_chain c

/-- R89: with a failed launch the chain ends where it stands. -/
theorem chainAdmission_aborts (hgathered : s.gathered c = true) (hbad : ∃ x ∈ s.instanceMembers c, x.2.launchBad = true) :
    Answers (.chainAdmission c) s fun s' => (s'.chain c).closed = true ∧ (s'.chain c).admitted = (s.chain c).admitted
      ∧ ∀ x ∈ s.instanceMembers c, ∃ y, (s'.ridge x.1).stream x.2.slot = some y ∧ y.finished.isSome = true ∧ y.held = [] := by
  have hany : ((s.instanceMembers c).any fun m => m.2.launchBad) = true := List.any_eq_true.2 hbad
  obtain ⟨hchain, hshows⟩ := s.abortInstance_shows c false
  refine ⟨_, exec_chainAdmission hactive hopen hgathered, ?_⟩
  rw [hany, if_pos rfl]
  refine ⟨by rw [hchain], by rw [hchain], fun x hx => ?_⟩
  obtain ⟨y, hy, hheld, code, hfin, -⟩ := hshows x hx
  exact ⟨y, hy, by rw [hfin]; rfl, hheld⟩

/-- R108: at the timeout every dispatched member ends with 0x08. -/
theorem chainTimeout_aborts {g : RidgeId} (h : s.membersOn g c ≠ []) :
    Answers (.chainTimeout g c) s fun s' => (s'.chain c).closed = true
      ∧ ∀ x ∈ s.instanceMembers c, ∃ y, (s'.ridge x.1).stream x.2.slot = some y ∧ y.held = []
        ∧ y.finished = some ⟨0x08, y.e.start, 0⟩ := by
  obtain ⟨hchain, hshows⟩ := s.abortInstance_shows c true
  refine ⟨_, exec_chainTimeout hactive hopen h, by rw [hchain], fun x hx => ?_⟩
  obtain ⟨y, hy, hheld, code, hfin, hcode⟩ := hshows x hx
  exact ⟨y, hy, hheld, by rw [hfin, hcode rfl]⟩

end Exec

end Sys2Proof.Machine

/-! ### SLAUNCH and dispatch (R87, R89 to R92, R324) -/

namespace Sys2Proof.Machine

/-! #### SLAUNCH -/

section Slaunch
variable {s : State} {t : ThreadId} {rt : BitVec 5} {ab : BitVec 4} (hi : s.Issues t (.slaunch t rt ab))
  (hfault : s.dataFault t .read ((s.thread t).base ab).toNat 64 = none)
include hi hfault

/-- R90: a descriptor read that has to wait leaves SLAUNCH to issue again. -/
theorem exec_slaunch_waits (hw : s.launchWaits t ((s.thread t).base ab).toNat = true) :
    exec (.slaunch t rt ab) s = .next s := by
  refine congrArg Host.Outcome.next (issue_stay s s t _ (slaunchAct t rt ab) hi ?_)
  simp only [slaunchAct, hfault, hw, if_true]

/-- R90, R91: SLAUNCH with a free queue entry. -/
theorem runs_slaunch (hlen : (s.thread t).dq.length < 32) (hw : s.launchWaits t ((s.thread t).base ab).toNat = false) :
    let got := s.readFor t ((s.thread t).base ab).toNat 64
    Runs (.slaunch t rt ab) s t
      (got.2.setThread t ((got.2.thread t).enqueue (s.launchEntry t (s.thread t) ((s.thread t).base ab) got.1)))
      [writeD 0 rt ((s.thread t).seqNo.setWidth 64)] 0 none := by
  intro got
  refine runs_of _ s t (slaunchAct t rt ab) _ _ 0 none rfl hi ?_ (noTrap_zero s t) (List.pairwise_singleton _ _)
    (by simpa using fits_writeD 0 rt _)
  simp only [slaunchAct, hfault, hw, hlen, Bool.false_eq_true, if_false, if_true]
  rfl

/-- R91: SLAUNCH parks on a full queue. -/
theorem exec_slaunch_parks (hlen : 32 ≤ (s.thread t).dq.length)
    (hw : s.launchWaits t ((s.thread t).base ab).toNat = false) :
    let got := s.readFor t ((s.thread t).base ab).toNat 64
    exec (.slaunch t rt ab) s
      = .next (got.2.setThread t { got.2.thread t with
          st := .parked, park := some (.queue rt (s.launchEntry t (s.thread t) ((s.thread t).base ab) got.1)) }) := by
  intro got
  refine congrArg Host.Outcome.next (issue_stay s _ t _ (slaunchAct t rt ab) hi ?_)
  simp only [slaunchAct, hfault, hw, Nat.not_lt.2 hlen, Bool.false_eq_true, if_false]
  rfl

end Slaunch

/-- R91: SLAUNCH_RESUME of a thread parked on a full queue. -/
theorem exec_slaunchResume {s : State} {t : ThreadId} {rt : BitVec 5} {e : QEntry} (hst : (s.thread t).st = .parked)
    (hp : (s.thread t).park = some (.queue rt e)) :
    exec (.slaunchResume t) s
      = .next (if (s.thread t).dq.length < 32 then
          s.setThread t (((s.thread t).enqueue e).retire [writeD 0 rt ((s.thread t).seqNo.setWidth 64)] 0 none) else s) := by
  show execSlaunchResume t s = _
  simp only [execSlaunchResume, hst, hp, true_and]
  split <;> rfl

/-- R91: a parked SLAUNCH completes once an entry is free. -/
theorem runs_slaunchResume {s : State} {t : ThreadId} {rt : BitVec 5} {e : QEntry} (hst : (s.thread t).st = .parked)
    (hp : (s.thread t).park = some (.queue rt e)) (hlen : (s.thread t).dq.length < 32) :
    Runs (.slaunchResume t) s t (s.setThread t ((s.thread t).enqueue e)) [writeD 0 rt ((s.thread t).seqNo.setWidth 64)] 0
      none := by
  have done := completed_retire (s.setThread t ((s.thread t).enqueue e)) t [writeD 0 rt ((s.thread t).seqNo.setWidth 64)] 0 none
    (List.pairwise_singleton _ _) (by simpa using fits_writeD 0 rt _)
  rw [thread_setThread, setThread_setThread] at done
  exact ⟨_, by rw [exec_slaunchResume hst hp, if_pos hlen], done⟩

/-- R324, R308: SZ and the displacement of SLAUNCH are reserved: a word with a bit of theirs set is illegal. -/
theorem decode_slaunch_reserved (t : ThreadId) (w : BitVec 32) (hop : w.extractLsb' 26 6 = 0x13#6)
    (hlow : w.extractLsb' 0 17 ≠ 0) : decode t w = none := by
  have hfields : ¬(w.extractLsb' 14 3 = 0 ∧ w.extractLsb' 0 14 = 0) := by
    rintro ⟨hsz, hdisp⟩
    refine hlow (BitVec.eq_of_getLsbD_eq fun i hi => ?_)
    by_cases h : i < 14
    · have := congrArg (fun x => x.getLsbD i) hdisp
      simpa [BitVec.getLsbD_extractLsb', h, hi] using this
    · have := congrArg (fun x => x.getLsbD (i - 14)) hsz
      simpa [BitVec.getLsbD_extractLsb', hi, show i - 14 < 3 by omega, show 14 + (i - 14) = i by omega] using this
  have ham : decode t w = decodeAm t (w.extractLsb' 26 6) (w.extractLsb' 21 5) (w.extractLsb' 17 4) (w.extractLsb' 14 3)
      (w.extractLsb' 0 14) := by
    simp [decode, hop]
  rw [ham, hop]
  exact if_neg hfields

/-! #### A dispatched stream -/

/-- R92: stream `x` of thread `n`, with the entry of sequence number `seq`, has taken its slot on ridge `g` last. -/
structure State.Placed (s s' : State) (g : RidgeId) (n : Fin 8) (seq : BitVec 32) (x : Stream) : Prop where
  streams : (s'.ridge g).streams = (s.ridge g).streams ++ [x]
  turn : (s'.ridge g).rrThread = n.val
  others : ∀ h, h ≠ g → s'.ridge h = s.ridge h
  registers : (s'.thread (threadOf g n)).r = (s.thread (threadOf g n)).r
  marked : ∀ y ∈ (s'.thread (threadOf g n)).dq, y.seq = seq → y.dispatched = true

theorem Thread.markDispatched_marked (th : Thread) (seq : BitVec 32) :
    ∀ y ∈ (th.markDispatched seq).dq, y.seq = seq → y.dispatched = true := by
  intro y hy hseq
  obtain ⟨z, -, rfl⟩ := List.mem_map.1 hy
  by_cases h : z.seq = seq
  · rw [if_pos h]
  · rw [if_neg h] at hseq
    exact absurd hseq h

/-- R92: an unchained stream takes its slot. -/
theorem State.placeStream_placed {s s1 : State} (h : s.EngineKept s1) (g : RidgeId) {m : Stream} (hch : m.chid = none) :
    s.Placed (s1.placeStream g m) g m.th m.e.seq m := by
  have heq : s1.placeStream g m = (s1.setThread (threadOf g m.th) ((s1.thread (threadOf g m.th)).markDispatched m.e.seq)).setRidge g
      { s1.ridge g with streams := (s1.ridge g).streams ++ [m], rrThread := m.th.val } := by
    simp [State.placeStream, hch]
  refine ⟨?_, ?_, fun k hk => ?_, ?_, ?_⟩
  · rw [heq, State.setRidge_ridge, h.ridge]
  · rw [heq, State.setRidge_ridge]
  · rw [heq, State.setRidge_ridge_ne _ _ _ _ hk, State.setThread_ridge, h.ridge]
  · rw [heq, State.setRidge_thread, thread_setThread]
    exact h.threadRegs _
  · rw [heq, State.setRidge_thread, thread_setThread]
    exact Thread.markDispatched_marked _ _

/-! #### Values read once -/

/-- R87, R101: how an unchained stream stands after its once-read values: it has ended when it has no element or when a read
failed. -/
structure Stream.Launched (m x : Stream) : Prop where
  slot : x.slot = m.slot
  th : x.th = m.th
  e : x.e = m.e
  chid : x.chid = m.chid
  passed : x.passed = m.passed
  next : x.next = m.next
  empty : m.e.start = m.e.len → x.finished = some ⟨0, m.e.len, 0⟩
  failed : m.e.start ≠ m.e.len → x.finished = x.fault.map fun f => ⟨f.2.code, m.e.start, f.2.addr⟩

/-- R87, R101: an unchained stream that has neither ended nor failed reads its once-read values. -/
theorem State.launchReads_launched (s : State) (g : RidgeId) {m : Stream} (hch : m.chid = none) (hfault : m.fault = none)
    (hfin : m.finished = none) :
    s.EngineKept (s.launchReads g m).2 ∧ m.Launched (s.launchReads g m).1 := by
  have kept := (State.EngineKept.refl s).onceValues (m.who g) m.e (usesA (s.ridge g) m.e) (usesB (s.ridge g) m.e)
  have unchained : m.chid.isSome = false := by rw [hch]; rfl
  unfold State.launchReads
  generalize s.onceValues (m.who g) m.e (usesA (s.ridge g) m.e) (usesB (s.ridge g) m.e) = v at kept ⊢
  by_cases hempty : m.e.start = m.e.len
  · rw [if_pos hempty, unchained]
    exact ⟨.refl s, rfl, rfl, rfl, rfl, rfl, rfl, fun _ => rfl, fun h => absurd hempty h⟩
  · rw [if_neg hempty]
    dsimp only
    split
    · exact ⟨kept, rfl, rfl, rfl, rfl, rfl, rfl, fun h => absurd h hempty, fun _ => by simp [hfault, hfin]⟩
    · simp only [Stream.noteFault, unchained, Bool.false_eq_true, if_false]
      exact ⟨kept, rfl, rfl, rfl, rfl, rfl, rfl, fun h => absurd h hempty, fun _ => by
        simp [Stream.finish, lowerFault, hfault]⟩

/-! #### STREAM_DISPATCH -/

section Dispatch
variable {s : State} {g : RidgeId} {n : Fin 8} {slot : Fin 16} {e : QEntry} (hruns : s.sequencerRuns g = true)
  (hdrain : (s.ridge g).draining = false) (hnext : s.nextDispatch g = some (n, e)) (hslot : s.freeSlot g = some slot)
include hruns hdrain hnext hslot

/-- R92: the eligible head whose thread's turn it is takes the lowest free slot. -/
theorem exec_streamDispatch : exec (.streamDispatch g) s = .next (s.dispatch g n slot e) := by
  show execStreamDispatch g s = _
  simp only [execStreamDispatch, hruns, hdrain, hnext, hslot, Bool.not_true, Bool.or_self, Bool.false_eq_true, if_false]

variable (hmember : e.member = false)
include hmember

/-- R89: an unchained stream whose launch check fails ends at its START with that check's code. -/
theorem streamDispatch_fails (hcode : launchCheck (s.ridge g) e (s.chainPlace g n e.chid) [] ≠ 0) :
    Answers (.streamDispatch g) s fun s' => ∃ x, s.Placed s' g n e.seq x ∧ x.slot = slot
      ∧ x.finished = some ⟨BitVec.ofNat 8 (launchCheck (s.ridge g) e (s.chainPlace g n e.chid) []), e.start, 0⟩ := by
  let m := (Stream.start slot n e none 0 (s.firstElement g e)).failLaunch
    (launchCheck (s.ridge g) e (s.chainPlace g n e.chid) [])
  have heq : s.dispatch g n slot e = s.placeStream g m := by
    simp [State.dispatch, hmember, hcode, m]
  refine ⟨_, exec_streamDispatch hruns hdrain hnext hslot, m, ?_, rfl, rfl⟩
  rw [heq]
  exact State.placeStream_placed (.refl s) g (m := m) rfl

/-- R87, R92: an unchained stream whose launch checks pass and whose reads need not wait. -/
theorem streamDispatch_launches (hcode : launchCheck (s.ridge g) e (s.chainPlace g n e.chid) [] = 0)
    (hwait : (s.launchReads g (Stream.start slot n e none 0 (s.firstElement g e))).1.waits = false) :
    Answers (.streamDispatch g) s fun s' => ∃ x, s.Placed s' g n e.seq x
      ∧ (Stream.start slot n e none 0 (s.firstElement g e)).Launched x := by
  obtain ⟨kept, launched⟩ := s.launchReads_launched g (m := Stream.start slot n e none 0 (s.firstElement g e)) rfl rfl rfl
  generalize hr : s.launchReads g (Stream.start slot n e none 0 (s.firstElement g e)) = r at kept launched hwait
  have heq : s.dispatch g n slot e = r.2.placeStream g r.1 := by
    simp [State.dispatch, hmember, hcode, hr, hwait]
  refine ⟨_, exec_streamDispatch hruns hdrain hnext hslot, r.1, ?_, launched⟩
  have placed := State.placeStream_placed kept g launched.chid
  rw [launched.th, launched.e] at placed
  rw [heq]
  exact placed

end Dispatch

/-! #### The ridgeline's ends -/

/-- R131: the oldest row in flight arrives. -/
theorem exec_ridgelineRowArrival {s : State} {g : RidgeId} {c : Fin 16} {row : Row} {rest : List Row}
    (h : (s.port g c).inFlight = row :: rest) :
    exec (.ridgelineRowArrival g c) s
      = .next (s.setPort g c { s.port g c with inFlight := rest, arrived := (s.port g c).arrived ++ [row] }) := by
  show execRidgelineRowArrival g c s = _
  simp only [execRidgelineRowArrival, h]

/-- R132: a credit on its way back arrives. -/
theorem exec_ridgelineCreditReturn {s : State} {g : RidgeId} {c : Fin 16} (h : 0 < (s.port g c).creditsBack) :
    exec (.ridgelineCreditReturn g c) s
      = .next (s.setPort g c { s.port g c with
          creditsBack := (s.port g c).creditsBack - 1, credits := (s.port g c).credits + 1 }) := by
  show execRidgelineCreditReturn g c s = _
  simp only [execRidgelineCreditReturn, Nat.ne_of_gt h, if_false]

/-! #### The statement -/

/-- Settles O55: each command's clauses are its own lemma's; what the statement says of streams and registers beside the row
or the dispatched stream follows from what memory accesses and settling leave alone. -/
theorem streamsLaunchDispatchAndRun : Obligations.StreamsLaunchDispatchAndRun := by
  unfold Obligations.StreamsLaunchDispatchAndRun
  intro s t rt ab g n slot c e m pf th a got taken others fresh code placed turn quiet p
  refine ⟨fun hi hf => ⟨exec_slaunch_waits hi hf, runs_slaunch hi hf, exec_slaunch_parks hi hf⟩, decode_slaunch_reserved t,
    fun hst hp => ⟨runs_slaunchResume hst hp, fun hlen => ?_⟩, fun hruns hdrain hnext hslot hmember => ⟨fun hcode => ?_,
    fun hcode hwait => ?_⟩, fun hruns hswap => ⟨stepGroupRow_idle_answers hruns hswap, fun hnext hch hop hbusy hfirst hwait hsend => ?_, ?_⟩,
    fun hactive hopen => ⟨chainAdmission_admits hactive hopen, chainAdmission_aborts hactive hopen,
    chainTimeout_aborts hactive hopen⟩, fun row rest => exec_ridgelineRowArrival, exec_ridgelineCreditReturn⟩
  · rw [exec_slaunchResume hst hp, if_neg (Nat.not_lt.2 hlen)]
  · obtain ⟨s', hexec, x, hx, hxslot, hfin⟩ := streamDispatch_fails hruns hdrain hnext hslot hmember hcode
    exact ⟨s', hexec, x, ⟨hx.streams, hxslot, hx.turn, hx.others, hx.registers, hx.marked⟩, hfin⟩
  · obtain ⟨s', hexec, x, hx, hl⟩ := streamDispatch_launches hruns hdrain hnext hslot hmember hcode hwait
    exact ⟨s', hexec, x, ⟨hx.streams, hl.slot, hx.turn, hx.others, hx.registers, hx.marked⟩, hl.passed, hl.next, hl.empty,
      hl.failed⟩
  · exact stepGroupRow_solo_answers hruns hswap hnext ⟨hch, hop, hbusy⟩ hfirst hwait hsend
  · exact ⟨_, exec_stepGroupRow_parity hruns hswap pf, s.rowParity_notesFailure g pf⟩

end Sys2Proof.Machine

/-! ### Timer channels (R405 to R410) -/

namespace Sys2Proof.Machine

/-! #### Fields of a register beside an update -/

/-- A field of a field. -/
theorem field_field (v lo w lo' w' : Nat) (h : lo' + w' ≤ w) : field (field v lo w) lo' w' = field v (lo + lo') w' := by
  apply Nat.eq_of_testBit_eq
  intro n
  rw [testBit_field, testBit_field, testBit_field, Nat.add_assoc]
  by_cases hn : n < w'
  · simp [show lo' + n < w by omega]
  · simp [hn]

/-- A 64-bit value is its two halves. -/
theorem eq_of_halves {v v' : Nat} (hv : v < 2 ^ 64) (hv' : v' < 2 ^ 64) (hlow : field v 0 32 = field v' 0 32)
    (hhigh : field v 32 32 = field v' 32 32) : v = v' := by
  simp only [field] at hlow hhigh
  omega

theorem field_mul_low (x : Nat) : field (x * 2 ^ 32) 0 32 = 0 := by
  rw [field, Nat.pow_zero, Nat.div_one, Nat.mul_mod_left]

theorem field_mul_high {x : Nat} (hx : x < 2 ^ 32) : field (x * 2 ^ 32) 32 32 = x := by
  rw [field, Nat.mul_div_cancel _ (Nat.two_pow_pos 32), Nat.mod_eq_of_lt hx]

theorem State.flagOf_eq_fieldOf (s : State) (b o k : Nat) : s.flagOf b o k = (s.fieldOf b o k 1 == 1) := bitOf_eq_field _ _

section Reads
variable (s : State) (b o lo w x lo' w' bit k : Nat) (y : Bool)

theorem State.setReg_fieldOf (v : Nat) (h : lo + w ≤ 64) : (s.setReg b o v).fieldOf b o lo w = field v lo w := by
  rw [State.fieldOf, State.reg_setReg, ← field_ofNat64 v lo w h, BitVec.toNat_ofNat]

theorem State.setReg_flagOf (v : Nat) (h : k < 64) : (s.setReg b o v).flagOf b o k = bitOf v k := by
  rw [State.flagOf_eq_fieldOf, State.setReg_fieldOf s b o k 1 v (by omega), ← bitOf_eq_field]

theorem State.setFlagOf_fieldOf_disjoint (h : lo' + w' ≤ 64) (hd : lo' + w' ≤ bit ∨ bit + 1 ≤ lo') :
    (s.setFlagOf b o bit y).fieldOf b o lo' w' = s.fieldOf b o lo' w' :=
  s.setFieldOf_fieldOf_disjoint b o bit 1 (b2n y) lo' w' h hd

theorem State.setReg_onlyRegs (v : Nat) : s.OnlyRegs (s.setReg b o v) [(b, o)] :=
  fun b' o' h => s.reg_setReg_ne b o v b' o' (h (b, o) (.head _))

variable {o' : Nat} (h : o' ≠ o)
include h

theorem State.setReg_fieldOf_off (v : Nat) : (s.setReg b o v).fieldOf b o' lo' w' = s.fieldOf b o' lo' w' := by
  rw [State.fieldOf, s.reg_setReg_ne b o v b o' (regKey_ne_of_off b h), State.fieldOf]

theorem State.setReg_flagOf_off (v : Nat) : (s.setReg b o v).flagOf b o' k = s.flagOf b o' k := by
  rw [State.flagOf, s.reg_setReg_ne b o v b o' (regKey_ne_of_off b h), State.flagOf]

theorem State.setFieldOf_fieldOf_off : (s.setFieldOf b o lo w x).fieldOf b o' lo' w' = s.fieldOf b o' lo' w' :=
  s.setReg_fieldOf_off b o lo' w' h _

theorem State.setFieldOf_flagOf_off : (s.setFieldOf b o lo w x).flagOf b o' k = s.flagOf b o' k :=
  s.setReg_flagOf_off b o k h _

theorem State.setFlagOf_fieldOf_off : (s.setFlagOf b o bit y).fieldOf b o' lo' w' = s.fieldOf b o' lo' w' :=
  s.setReg_fieldOf_off b o lo' w' h _

end Reads

/-! #### The registers of the channels -/

@[simp] theorem chOff_inj (c : Fin 8) (o o' : Nat) : chOff c o = chOff c o' ↔ o = o' := Nat.add_left_cancel_iff

/-- The channels' registers stand above the block's own. -/
theorem chOff_ne_of_lt (c : Fin 8) (o : Nat) {k : Nat} (h : k < 0x100) : k ≠ chOff c o := by
  simp only [chOff]
  omega

@[simp] theorem State.timerCh_setTimerCh (s : State) (c : Fin 8) (x : TimerCh) : (s.setTimerCh c x).timerCh c = x :=
  Vector.getElem_set_self _

@[simp] theorem State.setTimerCh_reg (s : State) (c : Fin 8) (x : TimerCh) (b o : Nat) :
    (s.setTimerCh c x).reg b o = s.reg b o := (rfl)

@[simp] theorem State.setTimerCh_fieldOf (s : State) (c : Fin 8) (x : TimerCh) (b o lo w : Nat) :
    (s.setTimerCh c x).fieldOf b o lo w = s.fieldOf b o lo w := (rfl)

@[simp] theorem State.setTimerCh_flagOf (s : State) (c : Fin 8) (x : TimerCh) (b o k : Nat) :
    (s.setTimerCh c x).flagOf b o k = s.flagOf b o k := (rfl)

/-! #### The event of a channel (R410) -/

/-- A posted event reaches the SMC or a thread and nothing else. -/
theorem State.postEvent_frame (s : State) (tag e : Nat) :
    s.postEvent tag e = { s with smc := (s.postEvent tag e).smc, threads := (s.postEvent tag e).threads } := by
  unfold State.postEvent
  split
  · rfl
  · split
    · dsimp only
      split <;> rfl
    · rfl

/-- An event set keeps its events when another is posted. -/
theorem State.postEvent_smc_mono (s : State) (tag e n : Nat) (h : s.smc.events.getLsbD n = true) :
    (s.postEvent tag e).smc.events.getLsbD n = true := by
  unfold State.postEvent
  split
  · simp [setEvent, h]
  · split
    · dsimp only
      split <;> exact h
    · exact h

section PostTimer
variable (s : State) (c : Fin 8) (bit : Nat)

theorem State.postTimer_frame :
    s.postTimer c bit = { s with smc := (s.postTimer c bit).smc, threads := (s.postTimer c bit).threads } := by
  unfold State.postTimer
  split
  · exact s.postEvent_frame _ _
  · rfl

@[simp] theorem State.postTimer_reg (b o : Nat) : (s.postTimer c bit).reg b o = s.reg b o :=
  (congrArg (fun t : State => t.reg b o) (s.postTimer_frame c bit)).trans rfl

@[simp] theorem State.postTimer_fieldOf (b o lo w : Nat) : (s.postTimer c bit).fieldOf b o lo w = s.fieldOf b o lo w :=
  congrArg (field · lo w) (s.postTimer_reg c bit b o)

@[simp] theorem State.postTimer_flagOf (b o k : Nat) : (s.postTimer c bit).flagOf b o k = s.flagOf b o k :=
  congrArg (bitOf · k) (s.postTimer_reg c bit b o)

@[simp] theorem State.postTimer_timer : (s.postTimer c bit).timer = s.timer :=
  (congrArg State.timer (s.postTimer_frame c bit)).trans rfl

@[simp] theorem State.postTimer_sram : (s.postTimer c bit).sram = s.sram :=
  (congrArg State.sram (s.postTimer_frame c bit)).trans rfl

end PostTimer

/-! #### What a channel's own work keeps -/

/-- From `s` to `s'` channel `c` keeps what software set in TMR_CFGc[31:0], and nothing else changed that a source edge
depends on but the channel's registers; memory stays, and the SMC keeps its events. -/
structure State.ChannelKept (c : Fin 8) (s s' : State) : Prop where
  setup : s'.fieldOf 0x07 (chOff c 0) 0 32 = s.fieldOf 0x07 (chOff c 0) 0 32
  noClock : s'.noClock = s.noClock
  dieOn : s'.dieOn = s.dieOn
  timer : s'.timer = s.timer
  sram : s'.sram = s.sram
  dram : s'.dram = s.dram
  events : ∀ e, s.smc.events.getLsbD e = true → s'.smc.events.getLsbD e = true

/-- From `s` to `s'` channel `c` posted its event, as far as its owner is the SMC. -/
def State.Posted (c : Fin 8) (s s' : State) : Prop :=
  s.fieldOf 0x07 (chOff c 0) 20 9 = 256 → s'.smc.events.getLsbD (s.fieldOf 0x07 (chOff c 0) 12 8) = true

namespace State.ChannelKept
variable {c : Fin 8} {s s' s'' : State}

theorem refl (c : Fin 8) (s : State) : s.ChannelKept c s := ⟨rfl, rfl, rfl, rfl, rfl, rfl, fun _ h => h⟩

theorem trans (h : s.ChannelKept c s') (k : s'.ChannelKept c s'') : s.ChannelKept c s'' :=
  ⟨k.setup.trans h.setup, k.noClock.trans h.noClock, k.dieOn.trans h.dieOn, k.timer.trans h.timer, k.sram.trans h.sram,
    k.dram.trans h.dram, fun e he => k.events e (h.events e he)⟩

/-- A field of what software set up. -/
theorem fieldOf (h : s.ChannelKept c s') {lo w : Nat} (hw : lo + w ≤ 32) :
    s'.fieldOf 0x07 (chOff c 0) lo w = s.fieldOf 0x07 (chOff c 0) lo w := by
  have hs := congrArg (field · lo w) h.setup
  simpa only [State.fieldOf, field_field _ 0 32 lo w hw, Nat.zero_add] using hs

theorem flagOf (h : s.ChannelKept c s') {k : Nat} (hk : k < 32) :
    s'.flagOf 0x07 (chOff c 0) k = s.flagOf 0x07 (chOff c 0) k := by
  rw [State.flagOf_eq_fieldOf, State.flagOf_eq_fieldOf, h.fieldOf hk]

theorem timerCh (h : s.ChannelKept c s') : s'.timerCh c = s.timerCh c := congrArg (fun t : Timer => t.ch[c]) h.timer

/-- A write of one of the channel's registers that keeps what software set up. -/
theorem setReg (h : s.ChannelKept c s') (o v : Nat)
    (hv : (s'.setReg 0x07 (chOff c o) v).fieldOf 0x07 (chOff c 0) 0 32 = s'.fieldOf 0x07 (chOff c 0) 0 32) :
    s.ChannelKept c (s'.setReg 0x07 (chOff c o) v) :=
  ⟨hv.trans h.setup, (s'.setReg_flagOf_off _ _ _ (chOff_ne_of_lt c o (by decide)) v).trans h.noClock, h.dieOn, h.timer,
    h.sram, h.dram, h.events⟩

/-- A register other than TMR_CFGc. -/
theorem setReg_off (h : s.ChannelKept c s') {o : Nat} (v : Nat) (ho : o ≠ 0) :
    s.ChannelKept c (s'.setReg 0x07 (chOff c o) v) :=
  h.setReg o v (s'.setReg_fieldOf_off _ _ _ _ (by simpa using ho.symm) v)

theorem setFieldOf_off (h : s.ChannelKept c s') {o : Nat} (lo w x : Nat) (ho : o ≠ 0) :
    s.ChannelKept c (s'.setFieldOf 0x07 (chOff c o) lo w x) := h.setReg_off _ ho

/-- A flag above what software set up. -/
theorem setFlagOf (h : s.ChannelKept c s') (bit : Nat) (y : Bool) (hb : 32 ≤ bit) :
    s.ChannelKept c (s'.setFlagOf 0x07 (chOff c 0) bit y) :=
  h.setReg 0 _ (s'.setFlagOf_fieldOf_disjoint _ _ _ _ _ _ (by decide) (.inl (by omega)))

theorem postTimer (h : s.ChannelKept c s') (bit : Nat) : s.ChannelKept c (s'.postTimer c bit) := by
  have hf := s'.postTimer_frame c bit
  refine h.trans ⟨s'.postTimer_fieldOf .., s'.postTimer_flagOf .., (congrArg State.dieOn hf).trans rfl,
    s'.postTimer_timer .., s'.postTimer_sram .., (congrArg State.dram hf).trans rfl, fun e he => ?_⟩
  unfold State.postTimer
  split
  · exact s'.postEvent_smc_mono _ _ _ he
  · exact he

/-- R410: a channel whose enable bit `bit` is set posts its event. -/
theorem posted_postTimer (h : s.ChannelKept c s') {bit : Nat} (hb : bit < 32)
    (hen : s.flagOf 0x07 (chOff c 0) bit = true) : s.Posted c (s'.postTimer c bit) := by
  intro howner
  have hlt : s.fieldOf 0x07 (chOff c 0) 12 8 < 256 := field_lt _ _ _
  rw [State.postTimer, if_pos ((h.flagOf hb).trans hen), h.fieldOf (by decide), h.fieldOf (by decide), howner,
    State.postEvent_smc _ _ hlt]
  simp [getLsbD_setEvent _ _ _ hlt]

/-- A posted event stays posted. -/
theorem posted_of_posted (h : s'.ChannelKept c s'') (hp : s.Posted c s') : s.Posted c s'' := fun ho => h.events _ (hp ho)

/-- The event posted is the one that software set up before. -/
theorem posted_of_before (h : s.ChannelKept c s') (hp : s'.Posted c s'') : s.Posted c s'' := by
  intro ho
  rw [← h.fieldOf (by decide)]
  exact hp ((h.fieldOf (by decide)).trans ho)

end State.ChannelKept

/-! #### A match (R407) -/

section TimerMatch
variable (s : State) (c : Fin 8) (intv : Nat)

theorem State.timerMatch_kept : s.ChannelKept c (s.timerMatch c intv) :=
  (((State.ChannelKept.refl c s).setFlagOf 33 true (by decide)).postTimer 9).setFieldOf_off _ _ _ (by decide)

theorem State.timerMatch_matched : (s.timerMatch c intv).flagOf 0x07 (chOff c 0) 33 = true := by
  simp [State.timerMatch, State.setFieldOf_flagOf_off, State.setFlagOf_flagOf]

theorem State.timerMatch_flagOf (k : Nat) (hk : k < 64) (hne : k ≠ 33) :
    (s.timerMatch c intv).flagOf 0x07 (chOff c 0) k = s.flagOf 0x07 (chOff c 0) k := by
  simp [State.timerMatch, State.setFieldOf_flagOf_off, State.setFlagOf_flagOf_ne, hk, hne]

theorem State.timerMatch_cmp : (s.timerMatch c intv).fieldOf 0x07 (chOff c 0x18) 0 32
    = (s.fieldOf 0x07 (chOff c 0x18) 0 32 + intv) % 2 ^ 32 := by
  simp [State.timerMatch, State.setFieldOf_fieldOf, State.setFlagOf_fieldOf_off]

theorem State.timerMatch_intv : (s.timerMatch c intv).fieldOf 0x07 (chOff c 0x18) 32 32
    = s.fieldOf 0x07 (chOff c 0x18) 32 32 := by
  simp [State.timerMatch, State.setFieldOf_fieldOf_disjoint, State.setFlagOf_fieldOf_off]

/-- TB and COUNT stay. -/
theorem State.timerMatch_count (lo w : Nat) : (s.timerMatch c intv).fieldOf 0x07 (chOff c 0x10) lo w
    = s.fieldOf 0x07 (chOff c 0x10) lo w := by
  simp [State.timerMatch, State.setFieldOf_fieldOf_off, State.setFlagOf_fieldOf_off]

theorem State.timerMatch_posted (hen : s.flagOf 0x07 (chOff c 0) 9 = true) : s.Posted c (s.timerMatch c intv) :=
  ((State.ChannelKept.refl c _).setFieldOf_off _ _ _ (by decide)).posted_of_posted
    (((State.ChannelKept.refl c s).setFlagOf 33 true (by decide)).posted_postTimer (by decide) hen)

end TimerMatch

/-! #### COUNT at a tick (R406) -/

section CountDown
variable (s : State) (c : Fin 8)

/-- COUNT comes to 0, which ends the count. -/
theorem State.countDown_of_one (h : s.fieldOf 0x07 (chOff c 0x10) 32 32 = 1) :
    s.countDown c = ((s.setFieldOf 0x07 (chOff c 0x10) 32 32 0).setFlagOf 0x07 (chOff c 0) 32 true).postTimer c 8 := by
  simp [State.countDown, h]

/-- COUNT goes on, or starts again from RELOAD. -/
theorem State.countDown_of_ne_one (h : s.fieldOf 0x07 (chOff c 0x10) 32 32 ≠ 1) :
    s.countDown c = s.setFieldOf 0x07 (chOff c 0x10) 32 32
      (if s.fieldOf 0x07 (chOff c 0x10) 32 32 = 0 then s.fieldOf 0x07 (chOff c 0x08) 32 32
        else s.fieldOf 0x07 (chOff c 0x10) 32 32 - 1) := by
  by_cases h0 : s.fieldOf 0x07 (chOff c 0x10) 32 32 = 0
  · simp [State.countDown, h0]
  · simp [State.countDown, h0, h]

theorem State.countDown_kept : s.ChannelKept c (s.countDown c) := by
  have kept (x : Nat) := (State.ChannelKept.refl c s).setFieldOf_off (o := 0x10) 32 32 x (by decide)
  by_cases h : s.fieldOf 0x07 (chOff c 0x10) 32 32 = 1
  · rw [s.countDown_of_one c h]
    exact ((kept 0).setFlagOf 32 true (by decide)).postTimer 8
  · rw [s.countDown_of_ne_one c h]
    exact kept _

theorem State.countDown_count : (s.countDown c).fieldOf 0x07 (chOff c 0x10) 32 32
    = if s.fieldOf 0x07 (chOff c 0x10) 32 32 = 0 then s.fieldOf 0x07 (chOff c 0x08) 32 32
      else s.fieldOf 0x07 (chOff c 0x10) 32 32 - 1 := by
  by_cases h : s.fieldOf 0x07 (chOff c 0x10) 32 32 = 1
  · simp [s.countDown_of_one c h, State.setFlagOf_fieldOf_off, State.setFieldOf_fieldOf, h]
  · have hcount : s.fieldOf 0x07 (chOff c 0x10) 32 32 < 2 ^ 32 := field_lt _ _ _
    have hreload : s.fieldOf 0x07 (chOff c 0x08) 32 32 < 2 ^ 32 := field_lt _ _ _
    rw [s.countDown_of_ne_one c h, State.setFieldOf_fieldOf _ _ _ _ _ _ (by decide)]
    refine Nat.mod_eq_of_lt ?_
    split <;> omega

theorem State.countDown_timeBase : (s.countDown c).timeBase c = s.timeBase c := by
  unfold State.timeBase
  by_cases h : s.fieldOf 0x07 (chOff c 0x10) 32 32 = 1
  · simp [s.countDown_of_one c h, State.setFieldOf_fieldOf_disjoint, State.setFlagOf_fieldOf_off]
  · simp [s.countDown_of_ne_one c h, State.setFieldOf_fieldOf_disjoint]

theorem State.countDown_cmp (lo w : Nat) : (s.countDown c).fieldOf 0x07 (chOff c 0x18) lo w
    = s.fieldOf 0x07 (chOff c 0x18) lo w := by
  by_cases h : s.fieldOf 0x07 (chOff c 0x10) 32 32 = 1
  · simp [s.countDown_of_one c h, State.setFieldOf_fieldOf_off, State.setFlagOf_fieldOf_off]
  · simp [s.countDown_of_ne_one c h, State.setFieldOf_fieldOf_off]

theorem State.countDown_matched : (s.countDown c).flagOf 0x07 (chOff c 0) 33 = s.flagOf 0x07 (chOff c 0) 33 := by
  by_cases h : s.fieldOf 0x07 (chOff c 0x10) 32 32 = 1
  · simp [s.countDown_of_one c h, State.setFieldOf_flagOf_off, State.setFlagOf_flagOf_ne]
  · simp [s.countDown_of_ne_one c h, State.setFieldOf_flagOf_off]

theorem State.countDown_ended (h : s.fieldOf 0x07 (chOff c 0x10) 32 32 = 1) :
    (s.countDown c).flagOf 0x07 (chOff c 0) 32 = true := by
  rw [s.countDown_of_one c h, State.postTimer_flagOf, State.setFlagOf_flagOf _ _ _ _ _ (by decide)]

theorem State.countDown_not_ended (h : s.fieldOf 0x07 (chOff c 0x10) 32 32 ≠ 1) :
    (s.countDown c).flagOf 0x07 (chOff c 0) 32 = s.flagOf 0x07 (chOff c 0) 32 := by
  rw [s.countDown_of_ne_one c h, State.setFieldOf_flagOf_off _ _ _ _ _ _ _ (by simp)]

theorem State.countDown_posted (h : s.fieldOf 0x07 (chOff c 0x10) 32 32 = 1)
    (hen : s.flagOf 0x07 (chOff c 0) 8 = true) : s.Posted c (s.countDown c) := by
  rw [s.countDown_of_one c h]
  exact (((State.ChannelKept.refl c s).setFieldOf_off _ _ _ (by decide)).setFlagOf 32 true
    (by decide)).posted_postTimer (by decide) hen

end CountDown

/-! #### A tick (R406, R407) -/

section Tick
variable (s : State) (c : Fin 8)

/-- TB after a tick. -/
def State.nextTimeBase : Nat := (s.timeBase c + 1) % 2 ^ 32

/-- A tick up to the match: TB and COUNT have advanced. -/
def State.counted : State := (s.setFieldOf 0x07 (chOff c 0x10) 0 32 (s.nextTimeBase c)).countDown c

/-- TB comes to CMP at a tick while the compare is enabled. -/
def State.ticksToMatch : Bool :=
  s.flagOf 0x07 (chOff c 0) 6 && s.nextTimeBase c == s.fieldOf 0x07 (chOff c 0x18) 0 32

theorem State.counted_kept : s.ChannelKept c (s.counted c) :=
  ((State.ChannelKept.refl c s).setFieldOf_off _ _ _ (by decide)).trans (State.countDown_kept _ c)

theorem State.counted_timeBase : (s.counted c).timeBase c = s.nextTimeBase c := by
  rw [State.counted, State.countDown_timeBase, State.timeBase, State.setFieldOf_fieldOf _ _ _ _ _ _ (by decide)]
  exact Nat.mod_mod _ _

/-- COUNT as a tick finds it is not touched by TB's advance. -/
theorem State.setTimeBase_count (x : Nat) :
    (s.setFieldOf 0x07 (chOff c 0x10) 0 32 x).fieldOf 0x07 (chOff c 0x10) 32 32 = s.fieldOf 0x07 (chOff c 0x10) 32 32 :=
  s.setFieldOf_fieldOf_disjoint _ _ _ _ _ _ _ (by decide) (.inr (by decide))

theorem State.counted_count : (s.counted c).fieldOf 0x07 (chOff c 0x10) 32 32
    = if s.fieldOf 0x07 (chOff c 0x10) 32 32 = 0 then s.fieldOf 0x07 (chOff c 0x08) 32 32
      else s.fieldOf 0x07 (chOff c 0x10) 32 32 - 1 := by
  rw [State.counted, State.countDown_count, State.setTimeBase_count,
    State.setFieldOf_fieldOf_off _ _ _ _ _ _ _ _ (by simp)]

theorem State.counted_cmp (lo w : Nat) : (s.counted c).fieldOf 0x07 (chOff c 0x18) lo w
    = s.fieldOf 0x07 (chOff c 0x18) lo w := by
  rw [State.counted, State.countDown_cmp, State.setFieldOf_fieldOf_off _ _ _ _ _ _ _ _ (by simp)]

theorem State.counted_matched : (s.counted c).flagOf 0x07 (chOff c 0) 33 = s.flagOf 0x07 (chOff c 0) 33 := by
  rw [State.counted, State.countDown_matched, State.setFieldOf_flagOf_off _ _ _ _ _ _ _ (by simp)]

theorem State.counted_ended (h : s.fieldOf 0x07 (chOff c 0x10) 32 32 = 1) :
    (s.counted c).flagOf 0x07 (chOff c 0) 32 = true :=
  State.countDown_ended _ c ((s.setTimeBase_count c _).trans h)

theorem State.counted_not_ended (h : s.fieldOf 0x07 (chOff c 0x10) 32 32 ≠ 1) :
    (s.counted c).flagOf 0x07 (chOff c 0) 32 = s.flagOf 0x07 (chOff c 0) 32 := by
  rw [State.counted, State.countDown_not_ended _ c (by rwa [State.setTimeBase_count]),
    State.setFieldOf_flagOf_off _ _ _ _ _ _ _ (by simp)]

theorem State.counted_posted (h : s.fieldOf 0x07 (chOff c 0x10) 32 32 = 1)
    (hen : s.flagOf 0x07 (chOff c 0) 8 = true) : s.Posted c (s.counted c) := by
  have kept := (State.ChannelKept.refl c s).setFieldOf_off (o := 0x10) 0 32 (s.nextTimeBase c) (by decide)
  exact kept.posted_of_before
    (State.countDown_posted _ c ((s.setTimeBase_count c _).trans h) ((kept.flagOf (by decide)).trans hen))

/-- A tick: both counts advance, then a match where TB comes to CMP. -/
theorem State.tick_eq : s.tick c = if s.ticksToMatch c then
    (s.counted c).timerMatch c (s.fieldOf 0x07 (chOff c 0x18) 32 32) else s.counted c := by
  rw [State.ticksToMatch, ← (s.counted_kept c).flagOf (k := 6) (by decide), ← s.counted_cmp c 0 32,
    ← s.counted_cmp c 32 32]
  rfl

theorem State.tick_of_match (h : s.ticksToMatch c = true) :
    s.tick c = (s.counted c).timerMatch c (s.fieldOf 0x07 (chOff c 0x18) 32 32) := by
  rw [State.tick_eq, if_pos h]

theorem State.tick_of_no_match (h : s.ticksToMatch c = false) : s.tick c = s.counted c := by
  rw [State.tick_eq, h, if_neg Bool.false_ne_true]

/-- A match keeps what the count left. -/
theorem State.tick_counted : (s.counted c).ChannelKept c (s.tick c) := by
  rw [State.tick_eq]
  split
  · exact State.timerMatch_kept _ c _
  · exact .refl c _

theorem State.tick_kept : s.ChannelKept c (s.tick c) := (s.counted_kept c).trans (s.tick_counted c)

/-- TB and COUNT after a tick are as counted. -/
theorem State.tick_fieldOf_count (lo w : Nat) : (s.tick c).fieldOf 0x07 (chOff c 0x10) lo w
    = (s.counted c).fieldOf 0x07 (chOff c 0x10) lo w := by
  rw [State.tick_eq]
  split
  · exact State.timerMatch_count _ c _ lo w
  · rfl

theorem State.tick_ended : (s.tick c).flagOf 0x07 (chOff c 0) 32 = (s.counted c).flagOf 0x07 (chOff c 0) 32 := by
  rw [State.tick_eq]
  split
  · exact State.timerMatch_flagOf _ c _ 32 (by decide) (by decide)
  · rfl

theorem State.tick_intv : (s.tick c).fieldOf 0x07 (chOff c 0x18) 32 32 = s.fieldOf 0x07 (chOff c 0x18) 32 32 := by
  rw [State.tick_eq]
  split
  · rw [State.timerMatch_intv, State.counted_cmp]
  · exact s.counted_cmp c 32 32

theorem State.tick_matched (h : s.ticksToMatch c = true) : (s.tick c).flagOf 0x07 (chOff c 0) 33 = true
    ∧ (s.tick c).fieldOf 0x07 (chOff c 0x18) 0 32
      = (s.fieldOf 0x07 (chOff c 0x18) 0 32 + s.fieldOf 0x07 (chOff c 0x18) 32 32) % 2 ^ 32 := by
  rw [s.tick_of_match c h, State.timerMatch_cmp, State.counted_cmp]
  exact ⟨State.timerMatch_matched _ c _, rfl⟩

theorem State.tick_posted (h : s.ticksToMatch c = true) (hen : s.flagOf 0x07 (chOff c 0) 9 = true) :
    s.Posted c (s.tick c) := by
  have kept := s.counted_kept c
  rw [s.tick_of_match c h]
  exact kept.posted_of_before (State.timerMatch_posted _ c _ ((kept.flagOf (by decide)).trans hen))

theorem State.tick_unmatched (h : s.ticksToMatch c = false) :
    (s.tick c).flagOf 0x07 (chOff c 0) 33 = s.flagOf 0x07 (chOff c 0) 33
    ∧ (s.tick c).fieldOf 0x07 (chOff c 0x18) 0 32 = s.fieldOf 0x07 (chOff c 0x18) 0 32 := by
  rw [s.tick_of_no_match c h]
  exact ⟨s.counted_matched c, s.counted_cmp c 0 32⟩

end Tick

/-! #### Edges of the source (R405) -/

/-- Source edges count for channel `c`: it has supplies, is enabled, and its source runs. -/
def State.Counting (c : Fin 8) (s : State) : Prop :=
  s.dieOn = true ∧ s.flagOf 0x07 (chOff c 0) 5 = true ∧ (s.fieldOf 0x07 (chOff c 0) 0 3 ≠ 0 ∨ s.noClock = false)

/-- A source edge that fills the accumulator ticks the channel. -/
theorem State.sourceEdge_of_full {s : State} {c : Fin 8}
    (h : s.fieldOf 0x07 (chOff c 0x08) 0 32 ≤ (s.timerCh c).acc + 0x10000) :
    s.sourceEdge c = (s.setTimerCh c { s.timerCh c with
      acc := (s.timerCh c).acc + 0x10000 - s.fieldOf 0x07 (chOff c 0x08) 0 32 }).tick c := if_pos h

theorem State.sourceEdge_of_not_full {s : State} {c : Fin 8}
    (h : (s.timerCh c).acc + 0x10000 < s.fieldOf 0x07 (chOff c 0x08) 0 32) :
    s.sourceEdge c = s.setTimerCh c { s.timerCh c with acc := (s.timerCh c).acc + 0x10000 } := if_neg (Nat.not_le.2 h)

/-- What a channel keeps, it keeps counting with. -/
theorem State.Counting.of_kept {c : Fin 8} {s s' : State} (h : s.Counting c) (k : s.ChannelKept c s') : s'.Counting c := by
  obtain ⟨hon, hen, hsource⟩ := h
  refine ⟨k.dieOn.trans hon, (k.flagOf (by decide)).trans hen, ?_⟩
  rwa [k.fieldOf (by decide), k.noClock]

/-- An edge leaves the channel counting. -/
theorem State.Counting.sourceEdge {c : Fin 8} {s : State} (h : s.Counting c) : (s.sourceEdge c).Counting c := by
  have counting (x : TimerCh) : (s.setTimerCh c x).Counting c := h
  unfold State.sourceEdge
  dsimp only
  split
  · exact (counting _).of_kept (State.tick_kept _ c)
  · exact counting _

theorem State.Counting.exec_timerTick {c : Fin 8} {s : State} (h : s.Counting c) (n : Nat) :
    exec (.timerTick ⟨c, n⟩) s = .next (s.sourceEdges c n) := by
  obtain ⟨hon, hen, hsource⟩ := h
  refine if_neg ?_
  have hen' : bitOf (s.reg 0x07 (chOff c 0)) 5 = true := hen
  have hsource' : field (s.reg 0x07 (chOff c 0)) 0 3 ≠ 0 ∨ s.noClock = false := hsource
  rcases hsource' with h0 | hclock
  · simp [hon, hen', h0]
  · simp [hon, hen', hclock]

/-! #### Writes of a whole register without reserved combinations (R10 to R13) -/

/-- A write of all 64 bits that reserves nothing for a field leaves the error as it is. -/
theorem Field.write_full_err (f : Field) (v : Nat) (a : WriteResult) (hw : 0 < f.width) (hin : f.lo + f.width ≤ 64)
    (hwo : f.acc ≠ .wo) (hok : f.acc = .rw → f.ok (field v f.lo f.width) = true) :
    (f.write false v (2 ^ 64 - 1) a).err = a.err := by
  cases hacc : f.acc with
  | rw => rw [f.write_rw_full v a hacc hw hin, if_pos (hok hacc)]
  | wo => exact absurd hacc hwo
  | ro => rw [f.write_readOnly v _ a (.inl hacc)]
  | rc => rw [f.write_readOnly v _ a (.inr hacc)]
  | w1c => simp [Field.write, hacc]
  | w1s => simp [Field.write, hacc]

section WriteWhole
variable {r : Reg} (hl : FieldsLaid r.fields) (hlath : r.lathOnly = false) (hkeep : ∀ o n, r.keep o n = []) (old v : Nat)
include hl hlath hkeep

/-- R10: an RW field takes its defined value. -/
theorem Reg.field_write_rw {f : Field} (hf : f ∈ r.fields) (hacc : f.acc = .rw)
    (hok : f.ok (field v f.lo f.width) = true) :
    field (r.write false old v (2 ^ 64 - 1)).new f.lo f.width = field v f.lo f.width := by
  obtain ⟨hpos, hin⟩ := hl.width_le hf
  rw [r.write_of_keep_nil old v _ hlath hkeep]
  obtain ⟨b, -, hres⟩ := field_foldl_own hl (fun f _ => f.write_changesOnly false v (2 ^ 64 - 1))
    ⟨old, 0, (v &&& (2 ^ 64 - 1) &&& r.reserved) != 0⟩ hf
  rw [hres, f.write_rw_full v b hacc hpos hin, if_pos hok, field_setField, Nat.mod_eq_of_lt (field_lt _ _ _)]

/-- R10: zeros written to a W1C field keep it. -/
theorem Reg.field_write_w1c_zero {f : Field} (hf : f ∈ r.fields) (hacc : f.acc = .w1c)
    (h0 : field v f.lo f.width = 0) :
    field (r.write false old v (2 ^ 64 - 1)).new f.lo f.width = field old f.lo f.width := by
  rw [r.write_of_keep_nil old v _ hlath hkeep]
  obtain ⟨b, hb, hres⟩ := field_foldl_own hl (fun f _ => f.write_changesOnly false v (2 ^ 64 - 1))
    ⟨old, 0, (v &&& (2 ^ 64 - 1) &&& r.reserved) != 0⟩ hf
  rw [hres, f.write_w1c_zero v _ b hacc h0]
  exact hb

theorem Reg.write_new_lt (hold : old < 2 ^ 64) : (r.write false old v (2 ^ 64 - 1)).new < 2 ^ 64 := by
  rw [r.write_of_keep_nil old v _ hlath hkeep]
  exact foldl_view_lt hl (fun f _ => f.write_changesOnly false v _) _ hold

/-- R12, R13: zeros for reserved bits and defined encodings are no error. -/
theorem Reg.write_err_eq_false (hv : v < 2 ^ 64) (hres : v &&& r.reserved = 0) (hwo : ∀ f ∈ r.fields, f.acc ≠ .wo)
    (hok : ∀ f ∈ r.fields, f.acc = .rw → f.ok (field v f.lo f.width) = true) :
    (r.write false old v (2 ^ 64 - 1)).err = false := by
  rw [r.write_of_keep_nil old v _ hlath hkeep, Nat.and_two_pow_sub_one_of_lt_two_pow hv, hres]
  refine foldl_keeps (fun a => WriteResult.err a = false) _ r.fields _ rfl fun a f hf ha => ?_
  obtain ⟨hpos, hin⟩ := hl.width_le hf
  rw [f.write_full_err v a hpos hin (hwo f hf) (hok f hf), ha]

end WriteWhole

/-- A write of a whole register of the timer block. -/
theorem State.cfgWrite_timer (s : State) {o v : Nat} {r : Reg} (ho : o % 8 = 0) (hv : v < 2 ^ 64)
    (h : regDesc 0x07 o = some r) (hlath : r.lathOnly = false) :
    s.cfgWrite false 0x07 o 8 v
      = s.writeEffect false 0x07 o v (2 ^ 64 - 1) (r.write false (s.reg 0x07 o) v (2 ^ 64 - 1)) := by
  obtain ⟨hok, hk, hmask, hval⟩ := wholeAccess ho
  simp only [State.cfgWrite, show s.blockOf 0x07 = 0x07 from rfl, hok, hk, h, hlath, hmask, hval v hv]
  rfl

/-- The registers of a channel stand in the timer block's channel range, a channel each 0x40 bytes. -/
theorem chOff_range (c : Fin 8) {o : Nat} (ho : o < 0x40) :
    0x100 ≤ chOff c o ∧ chOff c o < 0x300 ∧ (chOff c o - 0x100) % 0x40 = o ∧ (chOff c o - 0x100) / 0x40 % 8 = c.val := by
  simp only [chOff]
  omega

/-- Every channel has the registers of channel 0, which stand from 0x100 on. -/
theorem tmrReg_channel (c : Fin 8) {o : Nat} (ho : o < 0x40) : tmrReg (chOff c o) = tmrReg (0x100 + o) := by
  have low (k : Nat) (hk : k < 0x100) : (chOff c o = k) = False := eq_false (chOff_ne_of_lt c o hk).symm
  have low' (k : Nat) (hk : k < 0x100) : (0x100 + o = k) = False := eq_false (by omega)
  have hlo' : 0x100 ≤ 0x100 + o ∧ 0x100 + o < 0x300 := by omega
  have hsub' : (0x100 + o - 0x100) % 0x40 = o := by omega
  obtain ⟨hlo, hhi, hsub, -⟩ := chOff_range c ho
  simp only [tmrReg, low 0x08 (by decide), low 0x10 (by decide), low 0x18 (by decide), low 0x20 (by decide),
    low 0x28 (by decide), low 0x30 (by decide), low' 0x08 (by decide), low' 0x10 (by decide), low' 0x18 (by decide),
    low' 0x20 (by decide), low' 0x28 (by decide), low' 0x30 (by decide), hlo, hhi, hsub, hlo', hsub']

theorem regDesc_channel (c : Fin 8) {o : Nat} (ho : o < 0x40) {r : Reg} (h : regDesc 0x07 (0x100 + o) = some r) :
    regDesc 0x07 (chOff c o) = some r := by
  have h8 : chOff c o % 8 = (0x100 + o) % 8 := by
    simp only [chOff]
    omega
  have hdesc (k : Nat) : regDesc 0x07 k = if k % 8 ≠ 0 then none else tmrReg k := rfl
  rw [← h, hdesc, hdesc, h8, tmrReg_channel c ho]

/-- What a write to a channel's register does. -/
theorem State.writeEffect_channel (s : State) (c : Fin 8) {o : Nat} (ho : o < 0x40) (v mask : Nat) (w : WriteResult) :
    s.writeEffect false 0x07 (chOff c o) v mask w
      = if o = 0 then s.writeTimerCfg c w else if o = 0x18 then s.writeTimerCmp c w
        else s.writePlain 0x07 (chOff c o) w := by
  obtain ⟨hlo, -, hsub, hch⟩ := chOff_range c ho
  have hc : (⟨(chOff c o - 0x100) / 0x40 % 8, Nat.mod_lt _ (by decide)⟩ : Fin 8) = c := Fin.ext hch
  have hsem : ¬((0x07 : Nat) = 0x06 ∧ chOff c o = 0x18) := fun h => absurd h.1 (by decide)
  rw [State.writeEffect, if_neg hsem, if_pos ⟨rfl, hlo⟩]
  simp only [hsub, hc]

theorem chOff_mod_eight (c : Fin 8) {o : Nat} (ho : o % 8 = 0) : chOff c o % 8 = 0 := by
  simp only [chOff]
  omega

/-! #### TMR_CFGc (R405, R407) -/

/-- TMR_CFGc. -/
def timerCfgReg : Reg :=
  { fields := [fldOk 0 2 .rw (· != 3), fld 3 4 .rw, fld 5 5 .rw, fld 6 6 .rw, fld 7 7 .rw, fld 8 8 .rw, fld 9 9 .rw,
      fld 10 10 .rw, fld 12 19 .rw, fldOk 20 28 .rw (fun v => decide (v ≤ 256)), fld 32 32 .w1c, fld 33 33 .w1c,
      fld 34 34 .ro, fld 35 35 .w1c] }

theorem regDesc_timerCfg (c : Fin 8) : regDesc 0x07 (chOff c 0) = some timerCfgReg :=
  regDesc_channel c (by decide) rfl

theorem timerCfgReg_laid : FieldsLaid timerCfgReg.fields := ⟨by decide, by decide⟩

/-- The reserved bits of TMR_CFGc. -/
theorem timerCfgReg_reserved :
    timerCfgReg.reserved = (fld 11 11 .ro).mask ||| (fld 29 31 .ro).mask ||| (fld 36 63 .ro).mask := by decide

/-- A value for TMR_CFGc with defined encodings, zeros in the reserved bits and no flag to clear. -/
structure TimerCfgOk (v : Nat) : Prop where
  source : field v 0 3 ≠ 3
  owner : field v 20 9 ≤ 256
  reserved11 : field v 11 1 = 0
  reserved29 : field v 29 3 = 0
  high : field v 32 32 = 0

namespace TimerCfgOk
variable {v : Nat} (h : TimerCfgOk v)
include h

theorem field_high {lo w : Nat} (hlo : 32 ≤ lo) (hw : lo + w ≤ 64) : field v lo w = 0 := by
  obtain ⟨k, rfl⟩ := Nat.exists_eq_add_of_le hlo
  rw [← field_field v 32 32 k w (by omega), h.high]
  simp [field]

theorem and_reserved : v &&& timerCfgReg.reserved = 0 := by
  have h1 : v &&& (fld 11 11 .ro).mask = 0 := by
    rw [and_fieldMask, show field v (fld 11 11 .ro).lo (fld 11 11 .ro).width = 0 from h.reserved11, Nat.zero_mul]
  have h2 : v &&& (fld 29 31 .ro).mask = 0 := by
    rw [and_fieldMask, show field v (fld 29 31 .ro).lo (fld 29 31 .ro).width = 0 from h.reserved29, Nat.zero_mul]
  have h3 : v &&& (fld 36 63 .ro).mask = 0 := by
    rw [and_fieldMask, h.field_high (by decide) (by decide), Nat.zero_mul]
  rw [timerCfgReg_reserved, Nat.and_or_distrib_left, Nat.and_or_distrib_left, h1, h2, h3]
  rfl

theorem write_err (hv : v < 2 ^ 64) (old : Nat) : (timerCfgReg.write false old v (2 ^ 64 - 1)).err = false := by
  refine Reg.write_err_eq_false timerCfgReg_laid rfl (fun _ _ => rfl) old v hv h.and_reserved (by decide) ?_
  simp [timerCfgReg, fld, fldOk, Field.width, h.source, h.owner]

/-- A flag that software clears stays. -/
theorem write_flag (old : Nat) {k : Nat} (hk : fld k k .w1c ∈ timerCfgReg.fields) (h32 : 32 ≤ k) (h64 : k < 64) :
    bitOf (timerCfgReg.write false old v (2 ^ 64 - 1)).new k = bitOf old k := by
  have hwidth : (fld k k .w1c).width = 1 := Nat.add_sub_cancel_left k 1
  have hf := Reg.field_write_w1c_zero timerCfgReg_laid rfl (fun _ _ => rfl) old v hk rfl
    (by rw [hwidth]; exact h.field_high h32 h64)
  rw [hwidth] at hf
  rw [bitOf_eq_field, bitOf_eq_field]
  exact congrArg (· == 1) hf

end TimerCfgOk

/-- A bit that software sets up is as written. -/
theorem timerCfgReg_write_bit (old v : Nat) {k : Nat} (hk : fld k k .rw ∈ timerCfgReg.fields) :
    bitOf (timerCfgReg.write false old v (2 ^ 64 - 1)).new k = v.testBit k := by
  have hwidth : (fld k k .rw).width = 1 := Nat.add_sub_cancel_left k 1
  have hf := Reg.field_write_rw timerCfgReg_laid rfl (fun _ _ => rfl) old v hk rfl rfl
  rw [hwidth] at hf
  rw [← bitOf_eq_testBit, bitOf_eq_field, bitOf_eq_field]
  exact congrArg (· == 1) hf

/-- What a write of `v` to TMR_CFGc makes of the register. -/
def State.timerCfgWrite (s : State) (c : Fin 8) (v : Nat) : WriteResult :=
  timerCfgReg.write false (s.reg 0x07 (chOff c 0)) v (2 ^ 64 - 1)

/-- CNTEN as written. -/
theorem State.timerCfgWrite_count (s : State) (c : Fin 8) (v : Nat) :
    bitOf (s.timerCfgWrite c v).new 5 = v.testBit 5 :=
  timerCfgReg_write_bit _ v (List.mem_of_getElem? (i := 2) rfl)

/-- CMPEN as written. -/
theorem State.timerCfgWrite_compare (s : State) (c : Fin 8) (v : Nat) :
    bitOf (s.timerCfgWrite c v).new 6 = v.testBit 6 :=
  timerCfgReg_write_bit _ v (List.mem_of_getElem? (i := 3) rfl)

/-- The match flag, written with zero, stays. -/
theorem State.timerCfgWrite_matched (s : State) (c : Fin 8) {v : Nat} (h : TimerCfgOk v) :
    bitOf (s.timerCfgWrite c v).new 33 = s.flagOf 0x07 (chOff c 0) 33 :=
  h.write_flag _ (List.mem_of_getElem? (i := 11) rfl) (by decide) (by decide)

theorem State.writeEffect_timerCfg (s : State) (c : Fin 8) (v mask : Nat) (w : WriteResult) :
    s.writeEffect false 0x07 (chOff c 0) v mask w = s.writeTimerCfg c w :=
  s.writeEffect_channel c (by decide) v mask w

section CfgWrite
variable (s : State) (c : Fin 8) (w : WriteResult) (herr : w.err = false)
include herr

/-- R405: a write that enables the count and not the compare restarts the count. -/
theorem State.writeTimerCfg_countEnable (hnew : bitOf w.new 5 = true) (hold : s.flagOf 0x07 (chOff c 0) 5 = false)
    (hcmp : bitOf w.new 6 = false) :
    s.writeTimerCfg c w = ((s.setReg 0x07 (chOff c 0) w.new).setReg 0x07 (chOff c 0x10)
      (s.fieldOf 0x07 (chOff c 0x08) 32 32 * 2 ^ 32)).setTimerCh c { s.timerCh c with acc := 0 } := by
  have hold' : bitOf (s.reg 0x07 (chOff c 0)) 5 = false := hold
  simp only [State.writeTimerCfg, herr, hnew, hold', hcmp, Bool.not_false, Bool.and_self, Bool.false_and,
    Bool.false_eq_true, if_true, if_false]
  rw [State.setReg_fieldOf_off _ _ _ _ _ (by simp)]
  rfl

/-- R407: a write that enables the compare and leaves the count as it is matches at once where TB and CMP agree. -/
theorem State.writeTimerCfg_compareEnable (hcnt : bitOf w.new 5 = s.flagOf 0x07 (chOff c 0) 5) (hnew : bitOf w.new 6 = true)
    (hold : s.flagOf 0x07 (chOff c 0) 6 = false) :
    s.writeTimerCfg c w = if s.timeBase c = s.fieldOf 0x07 (chOff c 0x18) 0 32 then
      (s.setReg 0x07 (chOff c 0) w.new).timerMatch c (s.fieldOf 0x07 (chOff c 0x18) 32 32)
      else s.setReg 0x07 (chOff c 0) w.new := by
  have hold' : bitOf (s.reg 0x07 (chOff c 0)) 6 = false := hold
  have hcnt' : (bitOf w.new 5 && !bitOf (s.reg 0x07 (chOff c 0)) 5) = false := by
    rw [hcnt]
    exact Bool.and_not_self _
  by_cases htb : s.fieldOf 0x07 (chOff c 0x10) 0 32 = s.fieldOf 0x07 (chOff c 0x18) 0 32
  · simp [State.writeTimerCfg, State.timeBase, herr, hcnt', hnew, hold', State.setReg_fieldOf_off, htb]
  · simp [State.writeTimerCfg, State.timeBase, herr, hcnt', hnew, hold', State.setReg_fieldOf_off, htb]

end CfgWrite

section EnableCommands
variable {s : State} {m : Master} (hreach : s.cfgReach m 0x07 = true) {v : BitVec 64} (hok : TimerCfgOk v.toNat) (c : Fin 8)

include hreach in
/-- A write of TMR_CFGc by a master that reaches the timer block. -/
theorem State.cfgStore_timerCfg :
    s.cfgStore m 0x07 (chOff c 0) 8 v.toNat = s.writeTimerCfg c (s.timerCfgWrite c v.toNat) := by
  rw [State.cfgStore, if_pos hreach, s.cfgWrite_timer (chOff_mod_eight c rfl) v.isLt (regDesc_timerCfg c) rfl,
    State.writeEffect_timerCfg]
  rfl

include hreach hok

theorem exec_timerCountEnable (h5 : v.toNat.testBit 5 = true) (hold : s.flagOf 0x07 (chOff c 0) 5 = false)
    (h6 : v.toNat.testBit 6 = false) :
    exec (.timerCountEnable m c v) s
      = .next (((s.setReg 0x07 (chOff c 0) (s.timerCfgWrite c v.toNat).new).setReg 0x07 (chOff c 0x10)
          (s.fieldOf 0x07 (chOff c 0x08) 32 32 * 2 ^ 32)).setTimerCh c { s.timerCh c with acc := 0 }) := by
  show Host.Outcome.next (s.cfgStore m 0x07 (chOff c 0) 8 v.toNat) = _
  have herr : (s.timerCfgWrite c v.toNat).err = false := hok.write_err v.isLt _
  rw [State.cfgStore_timerCfg hreach c, s.writeTimerCfg_countEnable c _ herr
    ((s.timerCfgWrite_count c _).trans h5) hold ((s.timerCfgWrite_compare c _).trans h6)]

theorem exec_timerCompareEnable (h6 : v.toNat.testBit 6 = true) (hold : s.flagOf 0x07 (chOff c 0) 6 = false)
    (h5 : v.toNat.testBit 5 = s.flagOf 0x07 (chOff c 0) 5) :
    exec (.timerCompareEnable m c v) s
      = .next (if s.timeBase c = s.fieldOf 0x07 (chOff c 0x18) 0 32 then
          (s.setReg 0x07 (chOff c 0) (s.timerCfgWrite c v.toNat).new).timerMatch c (s.fieldOf 0x07 (chOff c 0x18) 32 32)
          else s.setReg 0x07 (chOff c 0) (s.timerCfgWrite c v.toNat).new) := by
  show Host.Outcome.next (s.cfgStore m 0x07 (chOff c 0) 8 v.toNat) = _
  have herr : (s.timerCfgWrite c v.toNat).err = false := hok.write_err v.isLt _
  rw [State.cfgStore_timerCfg hreach c, s.writeTimerCfg_compareEnable c _ herr
    ((s.timerCfgWrite_count c _).trans h5) ((s.timerCfgWrite_compare c _).trans h6) hold]

/-- R405: enabling the count alone restarts it. -/
theorem answers_timerCountEnable (h5 : v.toNat.testBit 5 = true) (hold : s.flagOf 0x07 (chOff c 0) 5 = false)
    (h6 : v.toNat.testBit 6 = false) :
    Answers (.timerCountEnable m c v) s fun s' =>
      s'.flagOf 0x07 (chOff c 0) 5 = true ∧ s'.timeBase c = 0 ∧ (s'.timerCh c).acc = 0
      ∧ s'.fieldOf 0x07 (chOff c 0x10) 32 32 = s.fieldOf 0x07 (chOff c 0x08) 32 32
      ∧ s.OnlyRegs s' [(0x07, chOff c 0), (0x07, chOff c 0x10)] := by
  have hreload : s.fieldOf 0x07 (chOff c 0x08) 32 32 < 2 ^ 32 := field_lt _ _ _
  refine ⟨_, exec_timerCountEnable hreach hok c h5 hold h6, ?_, ?_, ?_, ?_, fun b o h => ?_⟩
  · rw [State.setTimerCh_flagOf, State.setReg_flagOf_off _ _ _ _ (by simp), State.setReg_flagOf _ _ _ _ _ (by decide),
      s.timerCfgWrite_count, h5]
  · rw [State.timeBase, State.setTimerCh_fieldOf, State.setReg_fieldOf _ _ _ _ _ _ (by decide), field_mul_low]
  · rw [State.timerCh_setTimerCh]
  · rw [State.setTimerCh_fieldOf, State.setReg_fieldOf _ _ _ _ _ _ (by decide), field_mul_high hreload]
  · rw [State.setTimerCh_reg, State.reg_setReg_ne _ _ _ _ _ _ (h _ (.tail _ (.head _))),
      s.reg_setReg_ne _ _ _ _ _ (h _ (.head _))]

/-- R407: enabling the compare matches at once where TB and CMP agree. -/
theorem answers_timerCompareEnable_match (h6 : v.toNat.testBit 6 = true) (hold : s.flagOf 0x07 (chOff c 0) 6 = false)
    (h5 : v.toNat.testBit 5 = s.flagOf 0x07 (chOff c 0) 5) (htb : s.timeBase c = s.fieldOf 0x07 (chOff c 0x18) 0 32) :
    Answers (.timerCompareEnable m c v) s fun s' => s'.flagOf 0x07 (chOff c 0) 33 = true
      ∧ s'.fieldOf 0x07 (chOff c 0x18) 0 32
        = (s.fieldOf 0x07 (chOff c 0x18) 0 32 + s.fieldOf 0x07 (chOff c 0x18) 32 32) % 2 ^ 32 := by
  have hexec := exec_timerCompareEnable hreach hok c h6 hold h5
  rw [if_pos htb] at hexec
  refine ⟨_, hexec, State.timerMatch_matched _ c _, ?_⟩
  rw [State.timerMatch_cmp, State.setReg_fieldOf_off _ _ _ _ _ (by simp)]

theorem answers_timerCompareEnable_no_match (h6 : v.toNat.testBit 6 = true) (hold : s.flagOf 0x07 (chOff c 0) 6 = false)
    (h5 : v.toNat.testBit 5 = s.flagOf 0x07 (chOff c 0) 5) (htb : s.timeBase c ≠ s.fieldOf 0x07 (chOff c 0x18) 0 32) :
    Answers (.timerCompareEnable m c v) s fun s' => s'.flagOf 0x07 (chOff c 0) 6 = true
      ∧ s'.flagOf 0x07 (chOff c 0) 33 = s.flagOf 0x07 (chOff c 0) 33 ∧ s.OnlyRegs s' [(0x07, chOff c 0)] := by
  have hexec := exec_timerCompareEnable hreach hok c h6 hold h5
  rw [if_neg htb] at hexec
  refine ⟨_, hexec, ?_, ?_, s.setReg_onlyRegs _ _ _⟩
  · rw [State.setReg_flagOf _ _ _ _ _ (by decide), s.timerCfgWrite_compare, h6]
  · rw [State.setReg_flagOf _ _ _ _ _ (by decide), s.timerCfgWrite_matched c hok]

end EnableCommands

/-! #### TMR_CMPc (R407) -/

/-- TMR_CMPc. -/
def timerCmpReg : Reg := { fields := [fld 0 31 .rw, fld 32 63 .rw] }

theorem regDesc_timerCmp (c : Fin 8) : regDesc 0x07 (chOff c 0x18) = some timerCmpReg :=
  regDesc_channel c (by decide) rfl

theorem timerCmpReg_laid : FieldsLaid timerCmpReg.fields := ⟨by decide, by decide⟩

/-- TMR_CMPc takes every value. -/
theorem timerCmpReg_write {old v : Nat} (hold : old < 2 ^ 64) (hv : v < 2 ^ 64) :
    (timerCmpReg.write false old v (2 ^ 64 - 1)).new = v ∧ (timerCmpReg.write false old v (2 ^ 64 - 1)).err = false := by
  constructor
  · exact eq_of_halves (Reg.write_new_lt timerCmpReg_laid rfl (fun _ _ => rfl) old v hold) hv
      (Reg.field_write_rw timerCmpReg_laid rfl (fun _ _ => rfl) old v (.head _) rfl rfl)
      (Reg.field_write_rw timerCmpReg_laid rfl (fun _ _ => rfl) old v (.tail _ (.head _)) rfl rfl)
  · have hres : timerCmpReg.reserved = 0 := by decide
    refine Reg.write_err_eq_false timerCmpReg_laid rfl (fun _ _ => rfl) old v hv (by rw [hres, Nat.and_zero]) (by decide)
      fun f hf _ => ?_
    simp only [timerCmpReg, List.mem_cons, List.not_mem_nil, or_false] at hf
    rcases hf with rfl | rfl <;> rfl

theorem State.writeEffect_timerCmp (s : State) (c : Fin 8) (v mask : Nat) (w : WriteResult) :
    s.writeEffect false 0x07 (chOff c 0x18) v mask w = s.writeTimerCmp c w :=
  s.writeEffect_channel c (by decide) v mask w

/-- R407: a write that brings CMP to TB while the compare is enabled matches. -/
theorem State.writeTimerCmp_eq (s : State) (c : Fin 8) (w : WriteResult) (herr : w.err = false) :
    s.writeTimerCmp c w
      = if s.flagOf 0x07 (chOff c 0) 6 = true ∧ field w.new 0 32 = s.timeBase c
            ∧ s.fieldOf 0x07 (chOff c 0x18) 0 32 ≠ s.timeBase c then
          (s.setReg 0x07 (chOff c 0x18) w.new).timerMatch c (s.fieldOf 0x07 (chOff c 0x18) 32 32)
        else s.setReg 0x07 (chOff c 0x18) w.new := by
  have htb : (s.setReg 0x07 (chOff c 0x18) w.new).timeBase c = s.timeBase c := s.setReg_fieldOf_off _ _ _ _ (by simp) _
  have hcmp (lo : Nat) : field (s.reg 0x07 (chOff c 0x18)) lo 32 = s.fieldOf 0x07 (chOff c 0x18) lo 32 := rfl
  simp [State.writeTimerCmp, herr, htb, hcmp, State.setReg_flagOf_off, and_assoc]

section CmpWrite
variable {s : State} {m : Master} (hreach : s.cfgReach m 0x07 = true) (c : Fin 8) (v : BitVec 64)
include hreach

/-- A write of TMR_CMPc by a master that reaches the timer block. -/
theorem exec_timerCmpWrite :
    exec (.timerCmpWrite m c v) s
      = .next (if s.flagOf 0x07 (chOff c 0) 6 = true ∧ field v.toNat 0 32 = s.timeBase c
            ∧ s.fieldOf 0x07 (chOff c 0x18) 0 32 ≠ s.timeBase c then
          (s.setReg 0x07 (chOff c 0x18) v.toNat).timerMatch c (s.fieldOf 0x07 (chOff c 0x18) 32 32)
          else s.setReg 0x07 (chOff c 0x18) v.toNat) := by
  obtain ⟨hnew, herr⟩ := timerCmpReg_write (s.reg_lt 0x07 (chOff c 0x18)) v.isLt
  show Host.Outcome.next (s.cfgStore m 0x07 (chOff c 0x18) 8 v.toNat) = _
  rw [State.cfgStore, if_pos hreach, s.cfgWrite_timer (chOff_mod_eight c rfl) v.isLt (regDesc_timerCmp c) rfl,
    State.writeEffect_timerCmp, State.writeTimerCmp_eq _ _ _ herr, hnew]

/-- R407: bringing CMP to TB matches, with the interval as it stood before. -/
theorem answers_timerCmpWrite_match (hen : s.flagOf 0x07 (chOff c 0) 6 = true) (hv : field v.toNat 0 32 = s.timeBase c)
    (hne : s.fieldOf 0x07 (chOff c 0x18) 0 32 ≠ s.timeBase c) :
    Answers (.timerCmpWrite m c v) s fun s' => s'.flagOf 0x07 (chOff c 0) 33 = true
      ∧ s'.fieldOf 0x07 (chOff c 0x18) 0 32 = (s.timeBase c + s.fieldOf 0x07 (chOff c 0x18) 32 32) % 2 ^ 32
      ∧ s'.fieldOf 0x07 (chOff c 0x18) 32 32 = field v.toNat 32 32 := by
  have hexec := exec_timerCmpWrite hreach c v
  rw [if_pos ⟨hen, hv, hne⟩] at hexec
  refine ⟨_, hexec, State.timerMatch_matched _ c _, ?_, ?_⟩
  · rw [State.timerMatch_cmp, State.setReg_fieldOf _ _ _ _ _ _ (by decide), hv]
  · rw [State.timerMatch_intv, State.setReg_fieldOf _ _ _ _ _ _ (by decide)]

theorem answers_timerCmpWrite_no_match
    (hno : s.flagOf 0x07 (chOff c 0) 6 = false ∨ field v.toNat 0 32 ≠ s.timeBase c) :
    Answers (.timerCmpWrite m c v) s fun s' => s'.reg 0x07 (chOff c 0x18) = v.toNat
      ∧ s' = { s with regs := s'.regs } ∧ s.OnlyRegs s' [(0x07, chOff c 0x18)] := by
  have hexec := exec_timerCmpWrite hreach c v
  rw [if_neg] at hexec
  · refine ⟨_, hexec, ?_, rfl, s.setReg_onlyRegs _ _ _⟩
    rw [State.reg_setReg, Nat.mod_eq_of_lt v.isLt]
  · rintro ⟨hen, hv, -⟩
    exact hno.elim (fun h => Bool.false_ne_true (h.symm.trans hen)) (fun h => h hv)

end CmpWrite

/-! #### TMR_RELOADc (R406) -/

/-- The register of DIV and RELOAD. -/
def timerReloadReg : Reg :=
  { reset := 0x10000, fields := [fldOk 0 31 .rw (fun v => decide (0x10000 ≤ v)), fld 32 63 .rw] }

theorem regDesc_timerReload (c : Fin 8) : regDesc 0x07 (chOff c 0x08) = some timerReloadReg :=
  regDesc_channel c (by decide) rfl

theorem timerReloadReg_laid : FieldsLaid timerReloadReg.fields := ⟨by decide, by decide⟩

theorem State.writeEffect_timerReload (s : State) (c : Fin 8) (v mask : Nat) (w : WriteResult) :
    s.writeEffect false 0x07 (chOff c 0x08) v mask w = s.writePlain 0x07 (chOff c 0x08) w :=
  s.writeEffect_channel c (by decide) v mask w

/-- R406: a write of RELOAD changes the buffer, and CFGERR if DIV's encoding is reserved. -/
theorem answers_timerReload {s : State} {m : Master} (hreach : s.cfgReach m 0x07 = true) (c : Fin 8) (v : BitVec 64) :
    Answers (.registerWrite m 0x07 (BitVec.ofNat 16 (chOff c 0x08)) 8 v) s fun s' =>
      s'.fieldOf 0x07 (chOff c 0x08) 32 32 = field v.toNat 32 32
      ∧ s.OnlyRegs s' [(0x07, chOff c 0x08), (0x07, 0x08)] ∧ s' = { s with regs := s'.regs } := by
  have hoff : (BitVec.ofNat 16 (chOff c 0x08)).toNat = chOff c 0x08 := by
    rw [BitVec.toNat_ofNat]
    exact Nat.mod_eq_of_lt (by simp only [chOff]; omega)
  have hexec := exec_registerWrite (blk := 0x07) hreach (BitVec.ofNat 16 (chOff c 0x08)) 8 v
  rw [show (0x07 : BitVec 8).toNat = 0x07 from rfl, hoff,
    s.cfgWrite_timer (chOff_mod_eight c rfl) v.isLt (regDesc_timerReload c) rfl, State.writeEffect_timerReload] at hexec
  refine ⟨_, hexec, ?_, s.writePlain_onlyRegs _ _ _, s.writePlain_frame _ _ _⟩
  rw [State.fieldOf, s.reg_writePlain _ _ _ (chOff_ne_of_lt c 8 (by decide)).symm
    (Reg.write_new_lt timerReloadReg_laid rfl (fun _ _ => rfl) _ _ (s.reg_lt _ _))]
  exact Reg.field_write_rw timerReloadReg_laid rfl (fun _ _ => rfl) _ _ (f := fld 32 63 .rw) (.tail _ (.head _)) rfl rfl

/-! #### Captures (R408, R409) -/

/-- The register of the captured pair. -/
def timerCapReg : Reg := { fields := [fld 0 31 .ro, fld 32 63 .ro] }

theorem regDesc_timerCap (c : Fin 8) : regDesc 0x07 (chOff c 0x20) = some timerCapReg :=
  regDesc_channel c (by decide) rfl

/-- A read of TMR_CAPc returns the pair and clears FULL. -/
theorem State.cfgRead_timerCap (s : State) (c : Fin 8) :
    s.cfgRead 0x07 (chOff c 0x20) 8 = (s.reg 0x07 (chOff c 0x20), s.setFlagOf 0x07 (chOff c 0) 34 false) := by
  obtain ⟨hok, hk, -, -⟩ := wholeAccess (chOff_mod_eight c (o := 0x20) rfl)
  have hbxc : ¬chOff c 0x20 = 0x20 := (chOff_ne_of_lt c 0x20 (by decide)).symm
  have hcap : 0x100 ≤ chOff c 0x20 ∧ (chOff c 0x20 - 0x100) % 0x40 = 0x20 := by
    simp only [chOff]
    omega
  have hcfg : chOff c 0x20 - 0x20 = chOff c 0 := Nat.add_sub_cancel _ 0x20
  have hview : field (s.regView 0x07 (chOff c 0x20)) (8 * (chOff c 0x20 % 8)) (8 * 8) = s.reg 0x07 (chOff c 0x20) := by
    rw [chOff_mod_eight c rfl]
    exact (congrArg (· % 2 ^ 64) (Nat.div_one _)).trans (Nat.mod_eq_of_lt (s.reg_lt _ _))
  have hread (old mask : Nat) : timerCapReg.afterRead old mask = old := rfl
  simp only [State.cfgRead, show s.blockOf 0x07 = 0x07 from rfl, hok, hk, hbxc, regDesc_timerCap, hview, hread, hcap, hcfg]
  rfl

/-- The answer to a read stands beside registers and memory. -/
theorem State.withReadData_frame (s : State) (d : List Byte) :
    let s' : State := { s with readData := d }
    s'.readData = d ∧ (∀ b o, s'.reg b o = s.reg b o) ∧ s'.sram = s.sram := ⟨rfl, fun _ _ => rfl, rfl⟩

theorem exec_captureRead {s : State} {m : Master} (hreach : s.cfgReach m 0x07 = true) (c : Fin 8) :
    exec (.captureRead m c) s
      = .next { s.setFlagOf 0x07 (chOff c 0) 34 false with readData := leBytes 8 (s.reg 0x07 (chOff c 0x20)) } := by
  show execCaptureRead m c s = _
  rw [execCaptureRead, if_pos hreach, s.cfgRead_timerCap]

theorem answers_captureRead {s : State} {m : Master} (hreach : s.cfgReach m 0x07 = true) (c : Fin 8) :
    Answers (.captureRead m c) s fun s' => s'.readData = leBytes 8 (s.reg 0x07 (chOff c 0x20))
      ∧ s'.flagOf 0x07 (chOff c 0) 34 = false ∧ s'.reg 0x07 (chOff c 0x20) = s.reg 0x07 (chOff c 0x20)
      ∧ s'.sram = s.sram := by
  obtain ⟨hdata, hregs, hsram⟩ := (s.setFlagOf 0x07 (chOff c 0) 34 false).withReadData_frame
    (leBytes 8 (s.reg 0x07 (chOff c 0x20)))
  refine ⟨_, exec_captureRead hreach c, hdata, ?_, ?_, hsram.trans (s.setFlagOf_sram _ _ _ _)⟩
  · rw [State.flagOf, hregs]
    exact s.setFlagOf_flagOf _ _ _ _ (by decide)
  · rw [hregs, s.setFlagOf_reg_ne _ _ _ _ _ _ (regKey_ne_of_off _ (by simp))]

/-- A rise at `r` and a fall now make the pair in TMR_CAPc, which overruns one that was not read. -/
def State.storePair (s : State) (c : Fin 8) (r : BitVec 32) : State :=
  let paired := (s.setTimerCh c { s.timerCh c with rise := none }).setReg 0x07 (chOff c 0x20)
    (r.toNat + s.timeBase c * 2 ^ 32)
  if s.flagOf 0x07 (chOff c 0) 34 then paired.setFlagOf 0x07 (chOff c 0) 35 true else paired

section StorePair
variable (s : State) (c : Fin 8) (r : BitVec 32)

theorem State.storePair_kept :
    (s.setTimerCh c { s.timerCh c with rise := none }).ChannelKept c (s.storePair c r) := by
  have paired := (State.ChannelKept.refl c (s.setTimerCh c { s.timerCh c with rise := none })).setReg_off (o := 0x20)
    (r.toNat + s.timeBase c * 2 ^ 32) (by decide)
  unfold State.storePair
  dsimp only
  split
  · exact paired.setFlagOf 35 true (by decide)
  · exact paired

theorem State.storePair_pair : (s.storePair c r).reg 0x07 (chOff c 0x20) = r.toNat + s.timeBase c * 2 ^ 32 := by
  have hr : r.toNat < 2 ^ 32 := r.isLt
  have htb : s.timeBase c < 2 ^ 32 := field_lt _ _ _
  have hmod : (r.toNat + s.timeBase c * 2 ^ 32) % 2 ^ 64 = r.toNat + s.timeBase c * 2 ^ 32 := Nat.mod_eq_of_lt (by omega)
  unfold State.storePair
  dsimp only
  split
  · rw [State.setFlagOf_reg_ne _ _ _ _ _ _ _ (regKey_ne_of_off _ (by simp)), State.reg_setReg, hmod]
  · rw [State.reg_setReg, hmod]

/-- The overrun flag: as before, or set where a pair was not read. -/
theorem State.storePair_overrun : (s.storePair c r).flagOf 0x07 (chOff c 0) 35
    = (s.flagOf 0x07 (chOff c 0) 34 || s.flagOf 0x07 (chOff c 0) 35) := by
  unfold State.storePair
  dsimp only
  split
  · next hfull => rw [State.setFlagOf_flagOf _ _ _ _ _ (by decide), hfull, Bool.true_or]
  · next hfull =>
    rw [State.setReg_flagOf_off _ _ _ _ (by simp), State.setTimerCh_flagOf, Bool.eq_false_iff.2 hfull, Bool.false_or]

end StorePair

/-- A fall after a rise stores the pair, marks it full and posts the channel's event. -/
theorem exec_captureFall {s : State} {c : Fin 8} {r : BitVec 32} (hon : s.dieOn = true)
    (hen : s.flagOf 0x07 (chOff c 0) 7 = true) (hr : (s.timerCh c).rise = some r) :
    exec (.captureFall c) s = .next (((s.storePair c r).setFlagOf 0x07 (chOff c 0) 34 true).postTimer c 10) := by
  show execCaptureFall c s = _
  simp only [execCaptureFall, hr, hon, hen]
  rfl

/-- R409, R410: what a fall leaves of the channel. -/
theorem answers_captureFall {s : State} {c : Fin 8} {r : BitVec 32} (hon : s.dieOn = true)
    (hen : s.flagOf 0x07 (chOff c 0) 7 = true) (hr : (s.timerCh c).rise = some r) :
    Answers (.captureFall c) s fun s' => s'.reg 0x07 (chOff c 0x20) = r.toNat + s.timeBase c * 2 ^ 32
      ∧ (s'.timerCh c).rise = none ∧ s'.flagOf 0x07 (chOff c 0) 34 = true
      ∧ s'.flagOf 0x07 (chOff c 0) 35 = (s.flagOf 0x07 (chOff c 0) 34 || s.flagOf 0x07 (chOff c 0) 35)
      ∧ (s.flagOf 0x07 (chOff c 0) 10 = true → s.Posted c s') ∧ s'.sram = s.sram := by
  have full := (s.storePair_kept c r).setFlagOf 34 true (by decide)
  have kept := full.postTimer 10
  refine ⟨_, exec_captureFall hon hen hr, ?_, ?_, ?_, ?_, full.posted_postTimer (by decide), kept.sram⟩
  · rw [State.postTimer_reg, State.setFlagOf_reg_ne _ _ _ _ _ _ _ (regKey_ne_of_off _ (by simp)), s.storePair_pair]
  · rw [kept.timerCh, State.timerCh_setTimerCh]
  · rw [State.postTimer_flagOf, State.setFlagOf_flagOf _ _ _ _ _ (by decide)]
  · rw [State.postTimer_flagOf, State.setFlagOf_flagOf_ne _ _ _ _ _ _ (by decide) (by decide), s.storePair_overrun]

/-! #### The statement -/

/-- Settles O45: each clause is its command's own lemma; the clause of a tick puts together what the counts and the match
leave of the channel. -/
theorem timerChannelsTickMatchAndCapture : Obligations.TimerChannelsTickMatchAndCapture := by
  unfold Obligations.TimerChannelsTickMatchAndCapture
  intro s m c v r edges cfg tb cnt cmp intv x tb' match_ acc div matched posted cfgOk counts
  have counting (h : counts) : s.Counting c := h
  refine ⟨ite_self _, fun hc => ?_, fun hc hacc => ?_, fun hc hacc => ?_, fun _ hreach hcfg => ?_,
    fun hreach => answers_timerCmpWrite_match hreach c v, fun hreach => answers_timerCmpWrite_no_match hreach c v,
    fun hreach => answers_timerReload hreach c v, fun hon hen => ⟨?_, answers_captureFall hon hen⟩,
    fun hreach => answers_captureRead hreach c⟩
  · have hc := counting hc
    exact ⟨s.sourceEdge c, hc.exec_timerTick 1,
      (hc.exec_timerTick (edges + 1)).trans (hc.sourceEdge.exec_timerTick edges).symm⟩
  · exact ((counting hc).exec_timerTick 1).trans (congrArg Host.Outcome.next (State.sourceEdge_of_not_full hacc))
  · let t := s.setTimerCh c { x with acc := acc - div }
    have hedge : s.sourceEdges c 1 = t.tick c := State.sourceEdge_of_full hacc
    have kept : t.ChannelKept c (t.tick c) := t.tick_kept c
    have hch : (t.tick c).timerCh c = { x with acc := acc - div } := kept.timerCh.trans (s.timerCh_setTimerCh c _)
    refine ⟨t.tick c, ((counting hc).exec_timerTick 1).trans (congrArg Host.Outcome.next hedge),
      (t.tick_fieldOf_count c 0 32).trans (t.counted_timeBase c), congrArg TimerCh.acc hch,
      (congrArg TimerCh.rise hch).trans rfl, (t.tick_fieldOf_count c 32 32).trans (t.counted_count c), fun h1 => ?_,
      fun h1 => (t.tick_ended c).trans (t.counted_not_ended c h1),
      fun hm => ⟨t.tick_matched c hm, t.tick_posted c hm⟩, t.tick_unmatched c, t.tick_intv c, kept.sram, kept.dram⟩
    exact ⟨(t.tick_ended c).trans (t.counted_ended c h1),
      fun hen => (t.tick_counted c).posted_of_posted (t.counted_posted c h1 hen)⟩
  · obtain ⟨hsource, howner, h11, h29, hhigh⟩ := hcfg
    have hok : TimerCfgOk v.toNat := ⟨hsource, howner, h11, h29, hhigh⟩
    exact ⟨answers_timerCountEnable hreach hok c, fun h6 hold h5 =>
      ⟨answers_timerCompareEnable_match hreach hok c h6 hold h5,
        answers_timerCompareEnable_no_match hreach hok c h6 hold h5⟩⟩
  · exact if_pos (by simp [hon, show s.flagOf 0x07 (chOff c 0) 7 = true from hen])

end Sys2Proof.Machine
